-- ==== Sys2Proof/Word.lean ====
section
/-! DEFINITION. The bit vectors that the manual treats as bits (R2, R29, R51, R84). -/
namespace Sys2Proof

/-- A 32-bit register or memory word. -/
abbrev Word := BitVec 32
/-- A register pair, a model time, a 64-bit counter. -/
abbrev DWord := BitVec 64
/-- The smallest addressable unit. -/
abbrev Byte := BitVec 8
/-- A program counter: line address with the slot number in bits [2:0] (R23); 57 bits (R93). -/
abbrev Pc := BitVec 57
/-- A lane mask over slots 0 to 1023 (R84); the summary word is computed from it. -/
abbrev Mask := BitVec 1024
/-- An instruction word (R29). -/
abbrev Insn := BitVec 96

end Sys2Proof
end

