-- ==== Sys2Proof/Syntax.lean ====
section
/-! DEFINITION. The instruction set as syntax: one constructor of `Instr` per row of the opcode table. -/
namespace Sys2Proof

/-! ### Operands and modifier fields -/

/-- Special registers, class 0b11 indices 0x20 to 0x2F (Table 3.10). -/
inductive Special where
  | slot | team | lanes | evid | timeLo | timeHi | entity | tie
  | handler | round | core | cluster | die | pkg | ctx | key
  deriving DecidableEq, Repr

/-- An operand field (R34, Tables 3.9 and 3.10). -/
inductive Operand where
  | v (i : BitVec 8)
  | s (i : BitVec 6)
  | k (i : BitVec 8)
  | imm
  | f (i : BitVec 2)
  | h (i : BitVec 3)
  | j (i : BitVec 2)
  | p (i : BitVec 3)
  | sp (r : Special)
  | w (i : BitVec 3)
  | td (i : BitVec 6)
  | zero
  deriving DecidableEq, Repr

/-- PRED: [73] negate, [72:70] predicate (Table 3.3). -/
structure Guard where
  neg : Bool
  p : BitVec 3
  deriving DecidableEq, Repr

/-- VER, LOOK and PRED. `ver1` is VER 0b01 (R31). -/
structure Head where
  ver1 : Bool
  look : BitVec 4
  guard : Guard
  deriving DecidableEq, Repr

/-- Integer width (Table 3.11). -/
inductive IWidth where
  | w32 | w64 | x16 | x8
  deriving DecidableEq, Repr

/-- Conditions of `icmp` (Table 3.11). -/
inductive Cond where
  | eq | ne | lt | le | gt | ge
  deriving DecidableEq, Repr

/-- Conditions of `fcmp` (Table 3.12). -/
inductive FCond where
  | eq | ne | lt | le | gt | ge | num | nan
  deriving DecidableEq, Repr

/-- Rounding modes (Table 4.3). -/
inductive Rnd where
  | rne | rz | rdn | rup
  deriving DecidableEq, Repr

/-- Floating-point type field (Table 3.12). `other` raises FORMAT when the instruction executes. -/
inductive FType where
  | f32 | bf16x2 | f16x2
  | other (code : BitVec 3)
  deriving DecidableEq, Repr

/-- Type codes of the conversion layout (R39). -/
inductive CType where
  | f32 | bf16 | f16 | e4m3 | e5m2 | lg6 | s8 | u8 | s16 | u16 | s32 | u32 | s64 | u64
  deriving DecidableEq, Repr

/-- Memory spaces (Table 3.13). -/
inductive Space where
  | lane | core | clu | die | glb
  deriving DecidableEq, Repr

/-- Access widths (Table 3.13). -/
inductive MWidth where
  | b8 | b16 | b32 | b64 | b128
  deriving DecidableEq, Repr

/-- Order field (Table 3.13): `sync` is `.acq` on loads and `.rel` on stores; `ar` is for atomics. -/
inductive MOrder where
  | weak | sync | ar
  deriving DecidableEq, Repr

/-- Operation codes of IMM8 [3:0] (Table 3.13). -/
inductive AOp where
  | add | min | max | and | or | xor | exch
  deriving DecidableEq, Repr

/-- Operand types of IMM8 [5:4] (Table 3.13). -/
inductive AType where
  | u | s | f32
  deriving DecidableEq, Repr

/-- Source selection of `lpick` (Table 3.14). -/
inductive PickMode where
  | at | off | xor | mir
  deriving DecidableEq, Repr

/-- Tests of `vote` (Table 3.14). -/
inductive VoteMode where
  | all | any | uni | ballot
  deriving DecidableEq, Repr

/-- Operations of `redux` and `scan` (Table 3.14). -/
inductive ROp where
  | add | min | max | and | or | xor
  deriving DecidableEq, Repr

/-! ### Operand groups of the formats (Table 3.5) -/

/-- Lane format with the integer layout (Table 3.11). A field an instruction does not use is `zero`. -/
structure IntOp where
  head : Head
  sat : Bool
  width : IWidth
  sgn : Bool
  d : Operand
  a : Operand
  b : Operand
  c : Operand
  imm : BitVec 8
  deriving DecidableEq, Repr

/-- Lane format with the floating-point layout (Table 3.12). -/
structure FpOp where
  head : Head
  rnd : Rnd
  absA : Bool
  negA : Bool
  negB : Bool
  ty : FType
  d : Operand
  a : Operand
  b : Operand
  c : Operand
  imm : BitVec 8
  deriving DecidableEq, Repr

/-- Lane format with the conversion layout (R39). -/
structure CvtOp where
  head : Head
  rnd : Rnd
  sat : Bool
  dst : CType
  src : CType
  d : Operand
  a : Operand
  b : Operand
  imm : BitVec 8
  deriving DecidableEq, Repr

/-- Fields of an instruction that has no modifier bits beside those its constructor names. -/
structure PlainOp where
  head : Head
  d : Operand
  a : Operand
  b : Operand
  c : Operand
  imm : BitVec 8
  deriving DecidableEq, Repr

/-- Lane movement: `sgn` is `.s` (R132). -/
structure MoveOp where
  head : Head
  sgn : Bool
  d : Operand
  a : Operand
  b : Operand
  c : Operand
  imm : BitVec 8
  deriving DecidableEq, Repr

/-- Branch format (Table 3.6). -/
structure BrOp where
  head : Head
  toff : BitVec 22
  tslot : BitVec 3
  joff : BitVec 22
  jslot : BitVec 3
  deriving DecidableEq, Repr

/-- Memory format (Table 3.13). In `atom`, `red`, `rred`, `ratom` IMM8 is the operation, and `imm` is 0. -/
structure MemOp where
  head : Head
  space : Space
  width : MWidth
  order : MOrder
  scope : BitVec 5
  poll : Bool
  ro : Bool
  na : Bool
  d : Operand
  a : Operand
  b : Operand
  c : Operand
  imm : BitVec 8
  deriving DecidableEq, Repr

/-- Scribe format: MOD[0] `.add`, MOD[1] `.strict` (R272). -/
structure ScribeOp where
  head : Head
  add : Bool
  strict : Bool
  d : Operand
  a : Operand
  b : Operand
  c : Operand
  imm : BitVec 8
  deriving DecidableEq, Repr

/-! ### Operands of the device's steps

A step of the device that no program issues (a completion, an arrival, an action of the driver) names what it
acts on. Cores, dies and teams are named by one number over the fabric: core = package × 512 + core id (R10),
die = package × 4 + die, team = package × 2^32 + %team. -/

/-- What a pre-emption request covers (R333). -/
inductive PreemptTarget where
  | team (t : Nat)
  | context (c : Nat)
  deriving DecidableEq, Repr

/-- Which wait a watchdog timer guards (R237). -/
inductive WatchKind where
  | regroup (core : Nat)
  | xshuf (team : Nat)
  | tsync (team : Nat)
  deriving DecidableEq, Repr

/-- Access kinds of a translation (R258). -/
inductive AccKind where
  | read | write | fetch
  deriving DecidableEq, Repr

/-- A result in flight, by its number, with the lanes for which it reaches the registers now (R106). -/
structure Landed where
  result : Nat
  lanes : Mask
  deriving DecidableEq, Repr

/-- Link header of a flit as received, with the outcome of its CRC check (Table 20.2). -/
structure FlitHeader where
  crcOk : Bool
  seq : BitVec 16
  kind : BitVec 2
  cls : BitVec 2
  sop : Bool
  eop : Bool
  valid : BitVec 6
  rsv28 : BitVec 4
  ack : BitVec 16
  nak : Bool
  rsv49 : BitVec 15
  deriving DecidableEq, Repr

/-- A key that a key-exchange flit installs (R381, R437). -/
structure LinkKey where
  key : BitVec 256
  salt : BitVec 32
  start : DWord
  deriving DecidableEq, Repr

/-- What the driver sets when it creates a context (Table 24.1). -/
structure CreateReq where
  ctx : Nat
  /-- Packages with the compute dies occupied on each, in increasing order (R296). -/
  places : List (Nat × List Nat)
  /-- Fabric domain of each package named (R374): the domains are equal. -/
  oneDomain : Bool
  ptRoot : BitVec 48
  /-- Die-scratchpad windows: die, base MiB, size MiB (R252). -/
  windows : List (Nat × Nat × Nat)
  /-- Reedbed near share of the context on each die, in records (R298). -/
  share : Nat
  diag : Nat
  saveArea : Nat
  classTable : List Nat
  ageNs : Nat
  deadline : Nat
  allowance : Nat
  deriving DecidableEq, Repr

/-- An image presented to a boot stage or a firmware commit (R427). -/
structure Image where
  stage : Nat
  bytes : List Byte
  edKey : List Byte
  edSig : List Byte
  mlKey : List Byte
  mlSig : List Byte
  version : Nat
  deriving DecidableEq, Repr

/-- What the management port sees of a connection attempt (R435). -/
structure TlsAttempt where
  port : Nat
  fullDuplex1000 : Bool
  tls13 : Bool
  suiteOk : Bool
  /-- SHA-384 digest of the client's Ed25519 public key. -/
  clientDigest : BitVec 384
  deriving DecidableEq, Repr

/-- Header of a management message as received (Table 24.5), and whether the reserved bytes of its body are zero. -/
structure MgmtHeader where
  magic : Word
  type : BitVec 16
  rsv : BitVec 16
  length : Word
  tag : Word
  bodyZero : Bool
  deriving DecidableEq, Repr

/-- An access that an adapter makes (R388). -/
structure AdapterReq where
  pkg : Nat
  ctx : Nat
  va : Nat
  /-- Bytes to write; empty for a read of `len` bytes. -/
  data : List Byte
  len : Nat
  deriving DecidableEq, Repr

/-! ### The rows of the table -/

/-- One constructor per row of spec/opcode_table.json, in its order. -/
inductive Instr where
  -- integer and address
  | nop (h : Head)
  | mov (x : IntOp)
  | iadd (x : IntOp)
  | isub (x : IntOp)
  | imul (x : IntOp)
  | imulh (x : IntOp)
  | imad (x : IntOp)
  | imin (x : IntOp)
  | imax (x : IntOp)
  | iabs (x : IntOp)
  | and (x : IntOp)
  | or (x : IntOp)
  | xor (x : IntOp)
  | not (x : IntOp)
  | shl (x : IntOp)
  | shr (x : IntOp)
  | rot (x : IntOp)
  | popc (x : IntOp)
  | clz (x : IntOp)
  | bfx (x : IntOp)
  | bfi (x : IntOp)
  | icmp (cond : Cond) (x : IntOp)
  | sel (x : IntOp)
  | lea (scale : BitVec 4) (x : IntOp)
  | iadd64 (x : IntOp)
  | iaddmin (x : IntOp)
  | imin3 (x : IntOp)
  | iadds (carry : BitVec 3) (x : IntOp)
  -- floating point
  | fadd (x : FpOp)
  | fsub (x : FpOp)
  | fmul (x : FpOp)
  | ffma (x : FpOp)
  | fmin (x : FpOp)
  | fmax (x : FpOp)
  | fcmp (cond : FCond) (x : FpOp)
  | faddmin (x : FpOp)
  | frcp (x : FpOp)
  | frsq (x : FpOp)
  | fsqrt (x : FpOp)
  | fexp2 (x : FpOp)
  | flog2 (x : FpOp)
  | fsin (x : FpOp)
  | fcos (x : FpOp)
  | ftanh (x : FpOp)
  | hfma2 (x : FpOp)
  | hadd2 (x : FpOp)
  | hmul2 (x : FpOp)
  | fclass (x : FpOp)
  | frnd (x : FpOp)
  -- conversion
  | cvt (x : CvtOp)
  | pack (x : CvtOp)
  | unpk (x : CvtOp)
  -- lane movement
  | lpick (mode : PickMode) (x : MoveOp)
  | lsh (down : Bool) (x : MoveOp)
  | vote (mode : VoteMode) (x : MoveOp)
  | redux (op : ROp) (flt : Bool) (x : MoveOp)
  | scan (op : ROp) (flt : Bool) (excl : Bool) (x : MoveOp)
  | matchLanes (all : Bool) (x : MoveOp)
  | rdmask (x : MoveOp)
  -- control
  | bra (div : Bool) (x : BrOp)
  | brx (x : PlainOp)
  | call (x : BrOp)
  | ret (h : Head)
  | join (any : Bool) (h : Head)
  | exit (h : Head)
  | trap (x : PlainOp)
  | tret (h : Head)
  | brk (x : PlainOp)
  | rdsplit (x : PlainOp)
  | nap (x : PlainOp)
  | napExpiry (team split : Nat)
  -- memory
  | ld (x : MemOp)
  | st (x : MemOp)
  | pref (x : MemOp)
  | atom (op : AOp) (ty : AType) (x : MemOp)
  | cas (x : MemOp)
  | red (op : AOp) (ty : AType) (x : MemOp)
  | wait (x : MemOp)
  | waitReread (team split : Nat)
  | lds (x : MemOp)
  | sts (x : MemOp)
  | ldk (x : MemOp)
  | cctlWb (x : PlainOp)
  | cctlInv (x : PlainOp)
  | cctlWbinv (x : PlainOp)
  | cctlIfl (x : PlainOp)
  -- matrix and feeder
  | tdset (x : PlainOp)
  | wload (x : PlainOp)
  | wloadComplete (core pair : Nat)
  | wswap (x : PlainOp)
  | mma (sat : Bool) (x : PlainOp)
  | mmaComplete (team : Nat) (result : Landed)
  | wdrop (x : PlainOp)
  | feed (x : PlainOp)
  | fstop (x : PlainOp)
  | fpos (x : PlainOp)
  | feederRunaheadLoad (team queue : Nat)
  -- team and cluster
  | regroup (x : PlainOp)
  | regroupCommit (core : Nat) (error : Bool)
  | gbarArrive (x : PlainOp)
  | gbarWait (x : PlainOp)
  | gbarSync (x : PlainOp)
  | xshuf (x : PlainOp)
  | tsync (h : Head)
  | trig (h : Head)
  | yield (x : BrOp)
  | yieldDone (x : BrOp)
  -- scribes
  | cpy (x : ScribeOp)
  | tile (x : ScribeOp)
  | gather (x : ScribeOp)
  | scatter (x : ScribeOp)
  | fill (x : ScribeOp)
  | scq (x : PlainOp)
  | scribeCommandStart (die : Nat)
  | scribeBatchComplete (die cmd : Nat)
  | scribeCommandComplete (die cmd : Nat)
  -- events
  | post (rel : Bool) (x : PlainOp)
  | cancel (res : BitVec 8) (x : PlainOp)
  | gate (res : BitVec 8) (x : PlainOp)
  | signal (x : PlainOp)
  | publish (x : PlainOp)
  | gateFire (die slot : Nat)
  | hset (x : PlainOp)
  | launch (x : PlainOp)
  | hznq (x : PlainOp)
  -- ordering
  | fence (bl : Bool) (scope : BitVec 5) (h : Head)
  | bind (x : PlainOp)
  | unbind (x : PlainOp)
  | scset (x : PlainOp)
  -- remote
  | rst (x : MemOp)
  | rred (op : AOp) (ty : AType) (x : MemOp)
  | ratom (op : AOp) (ty : AType) (x : MemOp)
  | rld (x : MemOp)
  | bflush (h : Head)
  | bflushWait (h : Head)
  | bstat (x : PlainOp)
  | route (x : PlainOp)
  | routeCommandComplete (die cmd : Nat)
  | rcas (x : MemOp)
  -- system
  | rdsr (x : PlainOp)
  | wrsr (x : PlainOp)
  | rdbudget (x : PlainOp)
  | clock (x : PlainOp)
  | fltrd (x : PlainOp)
  | udf
  -- steps of the core and its memory path
  | targetCheck (team split : Nat)
  | missReply (team result : Nat) (lanes : Mask)
  | passRetry (core : Nat)
  | teamStarved (team : Nat)
  | walkComplete (core ctx va : Nat) (kind : AccKind)
  | resolveReplayableFault (ctx va : Nat) (ptes : List (Nat × DWord))
  | markFaultFatal (ctx va : Nat)
  | packageInvalidation (pkg ctx lo hi : Nat)
  | trapDelivery (team : Nat)
  | matrixReset (core : Nat)
  | barrierTimeout (gang barrier : Nat)
  | watchdog (kind : WatchKind)
  | eventOverflow (team split : Nat)
  -- steps of the distributor
  | dieReport (ctx die : Nat)
  | binLaunch (ctx die handler : Nat)
  | binTimerExpiry (ctx die handler : Nat)
  | eventTeamPlace (die : Nat)
  | gangPlace (die : Nat)
  | steal (ctx die : Nat)
  | launchDequeue (pkg : Nat)
  | windowRollover (pkg celsius : Nat)
  | preemptRequest (target : PreemptTarget)
  | preemptDelivery (team : Nat)
  | deadline (team : Nat)
  | forcedSave (team : Nat)
  | restore (team core : Nat)
  | contextSwitch (ctx pkg : Nat)
  | driverResumeHeldTeam (team : Nat) (terminate : Bool)
  -- steps of the blotters and the fabric
  | blotterDepart (die slot : Nat)
  | blotterAgeExpiry (die slot : Nat)
  | packetArrival (die packet : Nat)
  | packetAck (die packet : Nat)
  | flitData (pkg port : Nat) (hdr : FlitHeader) (tagOk : Bool)
  | flitIdle (pkg port : Nat) (hdr : FlitHeader)
  | flitLinkControl (pkg port : Nat) (hdr : FlitHeader)
  | flitKeyExchange (pkg port : Nat) (hdr : FlitHeader) (key : LinkKey)
  | retryTimeout (pkg port : Nat)
  | linkSignalLoss (pkg port : Nat)
  | keyLow (pkg port : Nat)
  | keyExhausted (pkg port : Nat)
  | keyTimeout (pkg port : Nat)
  | critReport (msg : Nat)
  | reportAck (msg : Nat)
  | horizon (msg : Nat)
  | elect (msg : Nat)
  | reportResend (pkg ctx : Nat)
  | rootLost (pkg root : Nat)
  | heartbeat (die : Nat)
  | heartbeatTimeout (die : Nat)
  | dieFatalError (die : Nat)
  | dieWriteback (die : Nat)
  -- steps of the driver, of boot and of management
  | contextCreate (req : CreateReq)
  | contextEnd (ctx : Nat)
  | hostLaunch (ctx pkg queue record : Nat)
  | driverRouteTableWrite (ctx first count image : Nat)
  | driverFaultQueueRead (ctx : Nat)
  | packagePowerOn (pkg : Nat)
  | bootStage (pkg : Nat) (image : Image)
  | thermalShutdown (pkg : Nat)
  | setPowerLimit (pkg limit : Nat)
  | portEnable (pkg port : Nat)
  | portDisable (pkg port : Nat)
  | setMgmtAddress (pkg : Nat) (ipv6 : BitVec 128) (ipv4 : BitVec 32)
  | setTrustList (pkg : Nat) (digests : List (BitVec 384))
  | tlsConnect (pkg : Nat) (attempt : TlsAttempt)
  | attest (pkg : Nat) (tag : Word) (nonce : BitVec 256)
  | fwchunk (pkg : Nat) (tag : Word) (stage offset : Nat) (bytes : List Byte)
  | fwcommit (pkg : Nat) (tag : Word) (stage total : Nat) (image : Image)
  | linkkey (pkg : Nat) (tag : Word) (port : Nat) (key : LinkKey)
  | specialFunctionResult (team : Nat) (result : Landed)
  | localAccessComplete (team : Nat) (result : Landed)
  | dieAcknowledge (team split : Nat)
  | yieldDoneResume (team core : Nat)
  | adapterAccess (req : AdapterReq)
  | linkTraining (pkg port : Nat)
  | setAllowance (pkg ctx nj : Nat)
  | badRequest (pkg : Nat) (header : MgmtHeader)
  deriving DecidableEq, Repr

end Sys2Proof
end

