-- ==== Sys2Proof/WellFormed.lean ====
section
/-! DEFINITION. What the spec's decode checks 5 and 6 ask of an instruction's own fields (Table 3.15), and which
registers an instruction reads and writes. The part of check 6 that depends on the team (`.vregs`, `.planes`, the
trap handler) and check 7 are in Machine/Operands.lean. -/
namespace Sys2Proof

/-! ### Operands -/

/-- The kinds of operand of Tables 3.9 and 3.10. -/
inductive Kind where
  | v | s | k | imm | f | h | j | p | sp | w | td | zero
  deriving DecidableEq, Repr

/-- The kind of an operand. -/
def Operand.kind : Operand → Kind
  | .v _ => .v | .s _ => .s | .k _ => .k | .imm => .imm | .f _ => .f | .h _ => .h | .j _ => .j
  | .p _ => .p | .sp _ => .sp | .w _ => .w | .td _ => .td | .zero => .zero

/-- The special registers that are the same for every lane (R113). -/
def Special.isUniform : Special → Bool
  | .team | .lanes | .handler | .core | .cluster | .die | .pkg | .ctx => true
  | .slot | .evid | .timeLo | .timeHi | .entity | .tie | .round | .key => false

/-- The uniform sources of R113. -/
def Operand.isUniform : Operand → Bool
  | .v _ | .f _ | .h _ => false
  | .p i => i == 7
  | .sp r => r.isUniform
  | _ => true

/-- What one operand field of an instruction may name, and how many consecutive registers it names. -/
structure Field where
  kinds : List Kind
  /-- The field asks for a uniform operand (R113). -/
  uniform : Bool := false
  /-- Registers of the group (R34, R51, R169). -/
  n : Nat := 1
  /-- The field is a destination. -/
  dest : Bool := false
  deriving DecidableEq, Repr

/-- The four operand fields of an instruction; `none` where the field is unused and ignored (R32). -/
structure Shape where
  d : Option Field := none
  a : Option Field := none
  b : Option Field := none
  c : Option Field := none
  deriving DecidableEq, Repr

/-! ### The roles that the entries give -/

/-- Any source of a lane instruction. -/
def srcKinds : List Kind := [.v, .s, .k, .imm, .f, .h, .j, .p, .sp, .zero]
def vskKinds : List Kind := [.v, .s, .k]
/-- Every source but IMM8 and the queues (R131). -/
def regKinds : List Kind := [.v, .s, .k, .h, .j, .p, .sp, .zero]

def Field.src (n : Nat := 1) : Field := ⟨srcKinds, false, n, false⟩
/-- A uniform source; queues are never uniform (R113). -/
def Field.uni : Field := ⟨[.s, .k, .imm, .h, .j, .p, .sp, .zero], true, 1, false⟩
/-- A destination of a lane instruction. -/
def Field.dst (n : Nat := 1) : Field := ⟨[.v, .s, .h, .j, .zero], false, n, true⟩
/-- A destination that may also be a predicate (R114). -/
def Field.dstP (n : Nat := 1) : Field := ⟨[.v, .s, .h, .j, .p, .zero], false, n, true⟩
def Field.toDst (ks : List Kind) (n : Nat := 1) : Field := ⟨ks, false, n, true⟩
def Field.of (ks : List Kind) (n : Nat := 1) : Field := ⟨ks, false, n, false⟩
/-- A uniform operand of the classes listed. -/
def Field.uniOf (ks : List Kind) (n : Nat := 1) : Field := ⟨ks, true, n, false⟩

/-- Registers that an element type takes (R65). -/
def CType.regs : CType → Nat
  | .s64 | .u64 => 2
  | _ => 1

/-- Elements of a packed register under `pack` and `unpk` (R130, R131). -/
def CType.packed : CType → Nat
  | .bf16 | .f16 | .s16 | .u16 => 2
  | .e4m3 | .e5m2 | .s8 | .u8 | .lg6 => 4
  | _ => 1

/-- Bytes of a memory access (Table 3.13). -/
def MWidth.bytes : MWidth → Nat
  | .b8 => 1 | .b16 => 2 | .b32 => 4 | .b64 => 8 | .b128 => 16

/-- Registers of a memory datum (R169). -/
def MWidth.regs : MWidth → Nat
  | .b64 => 2 | .b128 => 4 | _ => 1

/-- Registers of an integer operand (R51). -/
def IWidth.regs : IWidth → Nat
  | .w64 => 2 | _ => 1

/-- Type code of R39. -/
def CType.isFloat : CType → Bool
  | .f32 | .bf16 | .f16 | .e4m3 | .e5m2 => true
  | _ => false

def CType.isInt : CType → Bool
  | .s8 | .u8 | .s16 | .u16 | .s32 | .u32 | .s64 | .u64 => true
  | _ => false

/-! ### Shapes (the "Form" columns of the entries) -/

def shape3 (n : Nat) : Shape := ⟨some (.dst n), some (.src n), some (.src n), none⟩
def shape4 (n : Nat) : Shape := ⟨some (.dst n), some (.src n), some (.src n), some (.src n)⟩
def shape2 (n : Nat) : Shape := ⟨some (.dst n), some (.src n), none, none⟩
/-- A v- or s-register and nothing else: the table of the entry lists no other class (R142, R316, R329, R344). -/
def vsDst : Option Field := some (.toDst [.v, .s])
/-- A v- or s-register, or the zero operand, whose result Table 3.10 discards. -/
def vszDst (n : Nat := 1) : Option Field := some (.toDst [.v, .s, .zero] n)
/-- A uniform address base. -/
def uniBase : Option Field := some (.uniOf [.s, .k])
/-- The classes of R113 but IMM8, where IMM8 has another role or has to be zero. -/
def uniReg : Option Field := some (.uniOf [.s, .k, .h, .j, .p, .sp, .zero])

/-! #### Address, data and compare fields of the memory instructions

Tables 8.3 and 21.4 give the roles of these fields ("base", "index", "data", "compare"). Of the classes the spec says only
that a base is of none but the first three (02_idioms.md); the model takes every source class of Tables 3.9 and 3.10 in the
others, but for queues and IMM8 where notes/assumptions/31 says. -/

/-- An address base cannot take class 0b11 (02_idioms.md, section 1). -/
def memA : Option Field := some (.of [.v, .s, .k])
def memIndex : Option Field := some (.of [.v, .s, .k, .imm, .h, .j, .p, .sp, .zero])
def atomIndex : Option Field := some (.of [.v, .s, .k, .h, .j, .p, .sp, .zero])
/-- The operand of an atomic operation: IMM8 is the operation code (R36, R167). -/
def atomData (n : Nat) : Option Field := some (.of [.v, .s, .k, .f, .h, .j, .p, .sp, .zero] n)
def cmpData (n : Nat) : Option Field := some (.src n)
/-- A threshold of `wait`, which reads its operands again: no queue. -/
def waitData (n : Nat) : Option Field := some (.of [.v, .s, .k, .imm, .h, .j, .p, .sp, .zero] n)

def scribeD (ks : List Kind) (n : Nat := 1) : Option Field := some (.uniOf ks n)

/-- The operand fields that an instruction uses. The table block of `gather` and `scatter` is five s- or k-registers: DESIGN
CHOICE, because R273 allows zero and calls the block five consecutive registers (notes/assumptions/31). -/
def Instr.shape : Instr → Shape
  | .mov x => ⟨some (.dstP x.width.regs), some (.src x.width.regs), none, none⟩
  | .not x | .iabs x | .popc x | .clz x => shape2 x.width.regs
  | .iadd x | .isub x | .imul x | .imulh x | .imin x | .imax x | .and x | .or x | .xor x => shape3 x.width.regs
  | .imad x | .iaddmin x | .imin3 x => shape4 x.width.regs
  | .shl x | .shr x | .rot x =>
    ⟨some (.dst x.width.regs), some (.src x.width.regs), some .src, none⟩
  | .bfx _ => shape3 1
  | .bfi _ => shape4 1
  | .icmp _ x => ⟨some .dstP, some (.src x.width.regs), some (.src x.width.regs), none⟩
  | .sel x => ⟨some (.dst x.width.regs), some (.src x.width.regs), some (.src x.width.regs), some .src⟩
  | .lea _ x => ⟨some (.dst x.width.regs), some (.src x.width.regs), some .src, some (.src x.width.regs)⟩
  | .iadd64 _ => ⟨some (.dst 2), some (.src 2), some .src, none⟩
  | .iadds _ _ => shape4 1
  | .fadd _ | .fsub _ | .fmul _ | .fmin _ | .fmax _ | .hadd2 _ => shape3 1
  | .ffma _ | .faddmin _ | .hfma2 _ => shape4 1
  | .hmul2 _ => ⟨some (.dst 2), some .src, some .src, none⟩
  | .fcmp _ _ => ⟨some .dstP, some .src, some .src, none⟩
  | .frcp _ | .frsq _ | .fsqrt _ | .fexp2 _ | .flog2 _ | .fsin _ | .fcos _ | .ftanh _ | .fclass _ | .frnd _ =>
    shape2 1
  | .cvt x => ⟨some (.dst x.dst.regs), some (.src x.src.regs), none, none⟩
  | .pack x =>
    ⟨some .dst, some (.of regKinds (if x.dst.packed = 4 then 4 else 1)),
      if x.dst.packed = 4 then none else some (.of regKinds), none⟩
  | .unpk x => ⟨some (.toDst [.v, .s, .zero] x.src.packed), some (.of regKinds), none, none⟩
  | .lpick mode _ =>
    ⟨some (.toDst (if mode = .at then [.v, .s, .zero] else [.v, .zero])), some .src, some .src, some .src⟩
  | .lsh _ _ => ⟨some (.toDst [.v, .zero]), some .src, some .uni, some .src⟩
  | .vote mode x =>
    ⟨some (.toDst (if mode = .ballot then [.v, .s, .zero] else [.v, .s, .p, .zero])), some .src,
      if mode = .ballot ∧ x.d.kind = .s then some .uni else none, none⟩
  | .redux _ _ _ | .rdmask _ => ⟨some (.toDst [.v, .s, .zero]), some .src, none, none⟩
  | .scan _ _ _ _ | .matchLanes _ _ => ⟨some (.toDst [.v, .zero]), some .src, none, none⟩
  | .brx _ => { a := some (.of vskKinds), b := some .uni }
  | .trap _ | .brk _ => { a := some .src }
  | .rdsplit _ | .hznq _ | .rdbudget _ | .clock _ => { d := vsDst, a := some .uni }
  | .scq _ | .bstat _ => { d := vszDst, a := some .uni }
  | .nap _ => { a := some .uni }
  | .ld x | .lds x => ⟨vszDst x.width.regs, memA, memIndex, none⟩
  | .st x | .sts x => ⟨none, memA, memIndex, some (.src x.width.regs)⟩
  | .pref _ => ⟨none, memA, memIndex, none⟩
  | .atom _ _ x => ⟨vszDst x.width.regs, memA, atomIndex, atomData x.width.regs⟩
  | .cas x => ⟨vszDst x.width.regs, memA, cmpData x.width.regs, atomData x.width.regs⟩
  | .red _ _ x | .rred _ _ x => ⟨none, memA, atomIndex, atomData x.width.regs⟩
  | .wait x => ⟨vszDst x.width.regs, memA, waitData x.width.regs, none⟩
  | .ldk x => ⟨some (.toDst [.k] x.width.regs), uniBase, some .uni, none⟩
  | .cctlWb _ | .cctlInv _ | .cctlWbinv _ | .cctlIfl _ => { a := uniBase, b := uniReg }
  | .tdset _ => { d := some (.toDst [.td]), a := uniBase }
  | .wload _ => { d := some (.toDst [.w]), a := some (.of [.td]), b := uniReg }
  | .wswap _ | .wdrop _ => { d := some (.toDst [.w]) }
  | .mma _ _ => ⟨some (.toDst [.v] 32), some (.of [.v] 8), some (.of [.w]), some (.of [.td])⟩
  | .feed _ => { d := some (.of [.f]), a := some (.of [.td]), b := some .uni }
  | .fstop _ => { d := some (.of [.f]) }
  | .fpos _ => { d := vszDst, a := some (.of [.f]) }
  | .regroup _ => { d := some (.toDst [.v]), a := some (.of [.v]) }
  | .gbarArrive _ | .gbarWait _ | .gbarSync _ => { a := some (.uniOf [.s, .k, .imm, .zero]) }
  | .xshuf _ => { d := some (.toDst [.v]), a := some (.of [.v]), b := some .uni }
  | .cpy _ => ⟨scribeD [.s, .k, .zero], scribeD [.s, .k, .zero], scribeD [.s, .k, .zero], scribeD [.s, .k, .zero]⟩
  | .tile _ => ⟨scribeD [.s, .k, .zero], scribeD [.s, .k, .zero] 2, some (.of [.td]), scribeD [.s, .k, .zero]⟩
  | .gather _ => ⟨scribeD [.s, .k, .zero], scribeD [.s, .k] 5, some (.of [.td]), scribeD [.s, .k, .zero]⟩
  | .scatter _ => ⟨scribeD [.s, .k] 5, scribeD [.s, .k, .zero], some (.of [.td]), scribeD [.s, .k, .zero]⟩
  | .fill _ =>
    ⟨scribeD [.s, .k, .zero], scribeD [.s, .k, .imm, .zero], scribeD [.s, .k, .zero], scribeD [.s, .k, .zero]⟩
  | .post _ _ | .gate _ _ =>
    ⟨some (.of [.v, .s, .k, .imm, .zero]), some (.of [.v, .s, .k, .zero] 2),
      some (.of [.v, .s, .k, .imm, .zero, .sp]), some (.of [.v, .s, .k, .zero] 4)⟩
  | .cancel _ _ =>
    ⟨some (.of [.v, .s, .k, .imm, .zero]), some (.of [.v, .s, .k, .zero] 2),
      some (.of [.v, .s, .k, .imm, .zero, .sp]), none⟩
  | .signal _ => { a := some (.of vskKinds), b := some .uni }
  | .publish _ => { a := some (.of vskKinds), b := some (.of [.v, .s, .k, .imm, .zero]) }
  | .hset _ => { a := some .uni, b := some .uni }
  | .launch _ => { a := some (.uniOf [.s, .k, .zero] 2), b := some .uni }
  | .bind _ =>
    ⟨some (.uniOf [.s, .k, .imm, .zero]), some (.uniOf [.s, .k]), some (.uniOf [.s, .k]), some (.uniOf [.s, .k])⟩
  | .unbind _ => { d := some (.uniOf [.s, .k, .imm, .zero]) }
  | .scset _ => { a := some (.uniOf [.s, .k, .imm]), b := some (.uniOf [.s, .k]) }
  | .rst x => ⟨none, memA, memIndex, some (.src x.width.regs)⟩
  | .ratom _ _ x => ⟨some (.toDst [.v, .zero] x.width.regs), memA, atomIndex, atomData x.width.regs⟩
  | .rld x => ⟨some (.toDst [.v, .zero] x.width.regs), memA, memIndex, none⟩
  | .rcas x => ⟨some (.toDst [.v, .zero] x.width.regs), memA, cmpData x.width.regs, some (.src x.width.regs)⟩
  | .route _ => ⟨some (.toDst [.v]), some (.of [.v] 4), some .uni, some .uni⟩
  | .rdsr _ => { d := vsDst, a := some (.uniOf [.s, .k, .imm, .zero]) }
  | .wrsr _ => { a := some .uni, b := some (.uniOf [.s, .k, .imm, .zero]) }
  | .fltrd _ => { d := vsDst, a := some (.uniOf [.s, .k, .zero] 2) }
  | _ => {}

/-- The values in the operand fields, D A B C; zero where the form has none. -/
structure Ops where
  d : Operand := .zero
  a : Operand := .zero
  b : Operand := .zero
  c : Operand := .zero
  imm : BitVec 8 := 0
  deriving DecidableEq, Repr

def IntOp.ops (x : IntOp) : Ops := ⟨x.d, x.a, x.b, x.c, x.imm⟩
def FpOp.ops (x : FpOp) : Ops := ⟨x.d, x.a, x.b, x.c, x.imm⟩
def CvtOp.ops (x : CvtOp) : Ops := ⟨x.d, x.a, x.b, .zero, x.imm⟩
def PlainOp.ops (x : PlainOp) : Ops := ⟨x.d, x.a, x.b, x.c, x.imm⟩
def MoveOp.ops (x : MoveOp) : Ops := ⟨x.d, x.a, x.b, x.c, x.imm⟩
def MemOp.ops (x : MemOp) : Ops := ⟨x.d, x.a, x.b, x.c, x.imm⟩
def ScribeOp.ops (x : ScribeOp) : Ops := ⟨x.d, x.a, x.b, x.c, x.imm⟩

/-- VER, LOOK, PRED and the operand fields of an encoded instruction; `none` for a step of the device. -/
def Instr.fields : Instr → Option (Head × Ops)
  | .nop h | .ret h | .join _ h | .exit h | .tret h | .tsync h | .trig h | .fence _ _ h | .bflush h | .bflushWait h =>
    some (h, {})
  | .mov x | .iadd x | .isub x | .imul x | .imulh x | .imad x | .imin x | .imax x | .iabs x | .and x | .or x
  | .xor x | .not x | .shl x | .shr x | .rot x | .popc x | .clz x | .bfx x | .bfi x | .icmp _ x | .sel x
  | .lea _ x | .iadd64 x | .iaddmin x | .imin3 x | .iadds _ x => some (x.head, x.ops)
  | .fadd x | .fsub x | .fmul x | .ffma x | .fmin x | .fmax x | .fcmp _ x | .faddmin x | .frcp x | .frsq x
  | .fsqrt x | .fexp2 x | .flog2 x | .fsin x | .fcos x | .ftanh x | .hfma2 x | .hadd2 x | .hmul2 x | .fclass x
  | .frnd x => some (x.head, x.ops)
  | .cvt x | .pack x | .unpk x => some (x.head, x.ops)
  | .lpick _ x | .lsh _ x | .vote _ x | .redux _ _ x | .scan _ _ _ x | .matchLanes _ x | .rdmask x =>
    some (x.head, x.ops)
  | .bra _ x | .call x | .yield x | .yieldDone x => some (x.head, {})
  | .brx x | .trap x | .brk x | .rdsplit x | .nap x | .cctlWb x | .cctlInv x | .cctlWbinv x | .cctlIfl x
  | .tdset x | .wload x | .wswap x | .mma _ x | .wdrop x | .feed x | .fstop x | .fpos x | .regroup x
  | .gbarArrive x | .gbarWait x | .gbarSync x | .xshuf x | .scq x | .post _ x | .cancel _ x | .gate _ x
  | .signal x | .publish x | .hset x | .launch x | .hznq x | .bind x | .unbind x | .scset x | .bstat x
  | .route x | .rdsr x | .wrsr x | .rdbudget x | .clock x | .fltrd x => some (x.head, x.ops)
  | .ld x | .st x | .pref x | .atom _ _ x | .cas x | .red _ _ x | .wait x | .lds x | .sts x | .ldk x | .rst x
  | .rred _ _ x | .ratom _ _ x | .rld x | .rcas x => some (x.head, x.ops)
  | .cpy x | .tile x | .gather x | .scatter x | .fill x => some (x.head, x.ops)
  | _ => none

/-- The long-latency instructions of Table 3.4. -/
def Instr.isLong : Instr → Bool
  | .ld _ | .lds _ | .atom _ _ _ | .cas _ | .wait _ | .frcp _ | .frsq _ | .fsqrt _ | .fexp2 _ | .flog2 _ | .fsin _
  | .fcos _ | .ftanh _ | .mma _ _ | .wload _ | .regroup _ | .xshuf _ | .rld _ | .ratom _ _ _ | .rcas _ => true
  | _ => false

/-! ### Check 5: modifiers -/

/-- How MOD[4] is used by an integer instruction (Table 6.2). -/
inductive SgnRule where
  | any | clear | set
  deriving DecidableEq, Repr

def allWidths : List IWidth := [.w32, .w64, .x16, .x8]
def scalarWidths : List IWidth := [.w32, .w64]

def IntOp.modsOk (x : IntOp) (ws : List IWidth) (sat : Bool) (sg : SgnRule) : Bool :=
  ws.contains x.width && (sat || !x.sat) &&
    match sg with
    | .any => true
    | .clear => !x.sgn
    | .set => x.sgn

/-- `other` holds only the codes that Table 3.12 does not name. -/
def FType.ok : FType → Bool
  | .other c => decide (3 ≤ c.toNat)
  | _ => true

/-- `rnd`: any rounding mode is allowed; `ab`: abs and negation of A; `nb`: negation of B (Table 6.3). -/
def FpOp.modsOk (x : FpOp) (rnd ab nb : Bool) : Bool :=
  (rnd || x.rnd == .rne) && (ab || (!x.absA && !x.negA)) && (nb || !x.negB) && x.ty.ok

/-- The pairings of Table 4.5 whose rounding field must be 0b00. -/
def exactPair (dst src : CType) : Bool :=
  (dst.isInt && src.isInt) ||
  ((src == .e4m3 || src == .e5m2) && (dst == .f16 || dst == .bf16 || dst == .f32)) ||
  ((src == .f16 || src == .bf16) && dst == .f32) || (src == .lg6 && dst == .f32)

/-- Pairings of Table 6.6. -/
def packPair (packed unpacked : CType) : Bool :=
  match packed with
  | .bf16 | .f16 | .e4m3 | .e5m2 | .lg6 => unpacked == .f32
  | .s16 | .u16 | .s8 | .u8 => unpacked == .s32 || unpacked == .u32
  | _ => false

/-- R39, R69. -/
def CvtOp.modsOk (x : CvtOp) : Bool :=
  x.dst != x.src && (x.dst != .lg6 || x.src == .f32) && (x.src != .lg6 || x.dst == .f32) &&
    (x.rnd == .rne || !exactPair x.dst x.src)

def AOp.code : AOp → BitVec 4
  | .add => 0 | .min => 1 | .max => 2 | .and => 3 | .or => 4 | .xor => 5 | .exch => 6

/-- `.f32` goes with `.b32` and add, min, max, exch (Table 3.13, R172). -/
def atomTypeOk (op : AOp) (ty : AType) (w : MWidth) : Bool :=
  ty != .f32 || (w == .b32 && (op == .add || op == .min || op == .max || op == .exch))

/-- The columns Spaces, Widths, Order and MOD2 of Tables 8.3 and 21.4. -/
structure MemRule where
  spaces : List Space
  widths : List MWidth
  orders : List MOrder
  scope : Bool
  poll : Bool := false
  ro : Bool := false
  na : Bool := false
  deriving DecidableEq, Repr

def allSpaces : List Space := [.lane, .core, .clu, .die, .glb]
def sharedSpaces : List Space := [.core, .clu, .die, .glb]
def allMWidths : List MWidth := [.b8, .b16, .b32, .b64, .b128]

/-- `.na` goes with `.glb` only (R167). -/
def MemOp.modsOk (x : MemOp) (r : MemRule) : Bool :=
  r.spaces.contains x.space && r.widths.contains x.width && r.orders.contains x.order &&
    (r.scope || x.scope == 0) && (r.poll || !x.poll) && (r.ro || !x.ro) && (r.na || !x.na) &&
    (!x.na || x.space == .glb)

def ruleLd : MemRule := ⟨allSpaces, allMWidths, [.weak, .sync], true, true, false, true⟩
def ruleSt : MemRule := ⟨allSpaces, allMWidths, [.weak, .sync], true, false, false, true⟩
def rulePref : MemRule := ⟨[.glb], [.b8], [.weak], false, false, false, true⟩
def ruleAtom : MemRule := ⟨sharedSpaces, [.b32, .b64], [.weak, .sync, .ar], true, false, false, false⟩
def ruleCas : MemRule := ⟨sharedSpaces, [.b32, .b64, .b128], [.weak, .sync, .ar], true, false, false, false⟩
def ruleRed : MemRule := ⟨sharedSpaces, [.b32, .b64], [.weak, .sync], true, false, false, false⟩
def ruleLds : MemRule := ⟨[.lane, .core, .clu], allMWidths, [.weak], false, false, false, false⟩
def ruleLdk : MemRule := ⟨sharedSpaces, [.b32, .b64, .b128], [.weak], false, false, false, false⟩
def ruleRst : MemRule := ⟨[.glb], [.b8, .b16, .b32, .b64], [.weak, .sync], true, false, false, false⟩
def ruleRred : MemRule := ⟨[.glb], [.b32, .b64], [.weak, .sync], true, false, false, false⟩
def ruleRatom : MemRule := ⟨[.glb], [.b32, .b64], [.weak, .sync, .ar], true, false, false, false⟩
def ruleRld : MemRule := ⟨[.glb], allMWidths, [.weak, .sync], true, false, true, false⟩

/-- Slots 0 to 4; join fields zero where the form has no join (R33). -/
def BrOp.modsOk (x : BrOp) (hasJoin : Bool) : Bool :=
  decide (x.tslot.toNat ≤ 4) && decide (x.jslot.toNat ≤ 4) && (hasJoin || (x.joff == 0 && x.jslot == 0))

def Head.isP7 (h : Head) : Bool := h.guard == ⟨false, 7⟩

/-- No completion word: no value and no `.add` (R273). -/
def ScribeOp.modsOk (x : ScribeOp) (strict : Bool) : Bool :=
  (strict || !x.strict) && (x.c != .zero || (x.imm == 0 && !x.add))

def floatMoveOk (op : ROp) (flt : Bool) : Bool :=
  !flt || op == .add || op == .min || op == .max

/-- The modifier patterns that the entries list (check 5, Tables 3.17, 6.2, 6.3, 6.6, 8.3, 21.4). -/
def Instr.modsOk : Instr → Bool
  | .mov x | .and x | .or x | .xor x | .not x | .sel x => x.modsOk scalarWidths false .any
  | .iadd x | .isub x | .imul x | .imad x | .iaddmin x => x.modsOk allWidths true .any
  | .imulh x | .imin x | .imax x | .shr x | .imin3 x => x.modsOk allWidths false .any
  | .iabs x => x.modsOk allWidths true .set
  | .shl x | .rot x | .popc x | .clz x => x.modsOk allWidths false .clear
  | .bfx x | .iadd64 x => x.modsOk [.w32] false .any
  | .bfi x | .iadds _ x => x.modsOk [.w32] false .clear
  | .icmp _ x => x.modsOk scalarWidths false .any
  | .lea scale x => x.modsOk scalarWidths false .any && decide (scale.toNat ≤ 4)
  | .fadd x | .fsub x | .fmul x | .ffma x | .faddmin x | .hfma2 x | .hadd2 x | .hmul2 x => x.modsOk true true true
  | .fmin x | .fmax x | .fcmp _ x => x.modsOk false true true
  | .frcp x | .frsq x | .fexp2 x | .flog2 x | .fsin x | .fcos x | .ftanh x => x.modsOk false true false
  | .fsqrt x | .frnd x => x.modsOk true true false
  | .fclass x => x.modsOk false false false
  | .cvt x => x.modsOk
  | .pack x => x.modsOk && packPair x.dst x.src
  | .unpk x => x.modsOk && packPair x.src x.dst && x.rnd == .rne
  | .redux op flt _ => floatMoveOk op flt
  | .scan op flt _ _ => floatMoveOk op flt
  | .bra div x => x.modsOk div
  | .call x => x.modsOk false
  | .yield x | .yieldDone x => x.modsOk false && x.head.isP7
  | .join _ h | .tret h | .tsync h => h.isP7
  | .regroup x => x.head.isP7
  | .ld x => x.modsOk ruleLd
  | .st x => x.modsOk ruleSt
  | .pref x => x.modsOk rulePref
  | .atom op ty x => x.modsOk ruleAtom && atomTypeOk op ty x.width && x.imm == 0
  | .cas x => x.modsOk ruleCas
  | .red op ty x => x.modsOk ruleRed && atomTypeOk op ty x.width && op != .exch && x.imm == 0
  | .wait x => x.modsOk ruleRed
  | .lds x | .sts x => x.modsOk ruleLds
  | .ldk x => x.modsOk ruleLdk
  | .cpy x | .tile x | .fill x => x.modsOk false
  | .gather x | .scatter x => x.modsOk true
  | .rst x => x.modsOk ruleRst
  | .rred op ty x => x.modsOk ruleRred && atomTypeOk op ty x.width && op != .exch && x.imm == 0
  | .ratom op ty x => x.modsOk ruleRatom && atomTypeOk op ty x.width && x.imm == 0
  | .rld x => x.modsOk ruleRld
  | .rcas x => x.modsOk ruleRatom
  | .route x => x.c != .zero || x.imm == 0
  | _ => true

/-- The forms in which IMM8 has a role whatever the operands name (R32, R36). -/
def Instr.immHasRole : Instr → Bool
  | .ld _ | .st _ | .pref _ | .cas _ | .wait _ | .lds _ | .sts _ | .ldk _ | .rst _ | .rld _ | .rcas _
  | .atom _ _ _ | .red _ _ _ | .rred _ _ _ | .ratom _ _ _
  | .cpy _ | .tile _ | .gather _ | .scatter _ | .fill _ | .mma _ _ | .route _ => true
  | _ => false

/-- LOOK is zero on short-latency instructions in VER 0b00 (R30). -/
def Instr.lookOk (i : Instr) (h : Head) : Bool := h.ver1 || h.look == 0 || i.isLong

/-- Check 5 of Table 3.15. -/
def Instr.encodingOk (i : Instr) : Bool :=
  i.modsOk &&
  match i.fields with
  | none => true
  | some (h, o) =>
    i.lookOk h &&
      (o.imm == 0 || i.immHasRole || o.d == .imm || o.a == .imm || o.b == .imm || o.c == .imm)

/-! ### Check 6: operands, as far as the word alone decides -/

/-- The last register of a group stays inside s0 to s63 and k0 to k255 (Table 3.9). The zero operand and IMM8 stand for groups
of every length, A's four registers of a `pack` among them: DESIGN CHOICE, R115 speaks of pairs and R130 of a register group
(notes/assumptions/31). -/
def Operand.groupOk (o : Operand) (n : Nat) : Bool :=
  match o with
  | .v i => decide (i.toNat + n ≤ 256)
  | .s i => decide (i.toNat + n ≤ 64)
  | .k i => decide (i.toNat + n ≤ 256)
  | .imm | .zero => true
  | _ => n == 1

/-- One field. `sDest`: the instruction has an s-register destination that asks this field to be uniform. -/
def Field.ok (f : Field) (o : Operand) (sDest : Bool) : Bool :=
  f.kinds.contains o.kind && (!f.uniform || o.isUniform) && (f.dest || !sDest || o.isUniform) &&
    o.groupOk f.n && !(f.dest && o == .p 7)

def fieldOk (f : Option Field) (o : Operand) (sDest : Bool) : Bool :=
  match f with
  | none => o == .zero
  | some f => f.ok o sDest

/-- The destination is an s-register (R35). -/
def Instr.sDest (i : Instr) : Bool :=
  match i.fields, i.shape.d with
  | some (_, o), some f => f.dest && o.d.kind == .s
  | _, _ => false

/-- A may vary per lane although D is an s-register: the entry reduces the lanes to one value (R35, R132), or A
names a queue that is not popped (R190). -/
def Instr.reducesA : Instr → Bool
  | .lpick _ _ | .vote _ _ | .redux _ _ _ | .fpos _ => true
  | _ => false

/-- The special cases of an s-register destination (R121, R170). -/
def Instr.sDestOk (i : Instr) : Bool :=
  match i with
  | .iadds carry x => x.d.kind != .s || carry == 7
  | .ld x | .lds x => x.d.kind != .s || x.space != .lane
  | _ => true

/-- Check 6 of Table 3.15 as far as the word alone decides it. -/
def Instr.operandsOk (i : Instr) : Bool :=
  match i.fields with
  | none => true
  | some (_, o) =>
    fieldOk i.shape.d o.d i.sDest && fieldOk i.shape.a o.a (i.sDest && !i.reducesA) &&
      fieldOk i.shape.b o.b i.sDest && fieldOk i.shape.c o.c i.sDest && i.sDestOk

/-- The instructions that the decoder gives: encoded, with fields that checks 5 and 6 accept. -/
def Instr.wf (i : Instr) : Bool :=
  match i with
  | .udf => true
  | i => i.fields.isSome && i.encodingOk && i.operandsOk

/-! ### Registers read and written -/

/-- A register group: an operand and how many registers it names. -/
abbrev RegGroup := Operand × Nat

def fieldRegs (f : Option Field) (o : Operand) (dest : Bool) : List RegGroup :=
  match f with
  | some f => if f.dest == dest then [(o, f.n)] else []
  | none => []

/-- Registers that the instruction reads: guard, sources, and what MOD2 or IMM8 names (R30, R208, R215). -/
def Instr.reads (i : Instr) : List RegGroup :=
  match i.fields with
  | none => []
  | some (h, o) =>
    [(.p h.guard.p, 1)] ++ fieldRegs i.shape.d o.d false ++ fieldRegs i.shape.a o.a false ++
      fieldRegs i.shape.b o.b false ++ fieldRegs i.shape.c o.c false ++
      match i with
      | .mma _ x => [(x.d, 32), (.v x.imm, 1)]
      | _ => []

/-- Registers that the instruction writes (R30, R121, R200, R316). -/
def Instr.writes (i : Instr) : List RegGroup :=
  match i.fields with
  | none => []
  | some (_, o) =>
    fieldRegs i.shape.d o.d true ++
      match i with
      | .iadds carry _ => [(.p carry, 1)]
      | .gate res _ | .cancel res _ => [(.v res, 1)]
      | .regroup _ => [(.p 0, 1)]
      | _ => []

end Sys2Proof
end

