-- ==== Sys2Proof/Decode.lean ====
section
/-! DEFINITION. Decoder and encoder of the 96-bit instruction word (03 R29 to R42). -/
namespace Sys2Proof

/-- Why a word is refused: the number of the failing check of Table 3.15. -/
inductive Reject where
  /-- Check 3: VER is 0b10 or 0b11. -/
  | version
  /-- Check 4: OPC is not assigned. -/
  | opcode
  /-- Check 5. -/
  | encoding
  /-- Check 6, as far as the word alone decides it. -/
  | operand
  deriving DecidableEq, Repr

/-! ### The fields of the word (Table 3.3) -/

structure Raw where
  ver : BitVec 2
  look : BitVec 4
  opc : BitVec 8
  mod : BitVec 8
  pred : BitVec 4
  d : BitVec 10
  a : BitVec 10
  b : BitVec 10
  c : BitVec 10
  imm : BitVec 8
  mod2 : BitVec 8
  low : BitVec 14
  deriving DecidableEq, Repr

/-- Table 3.3, read. -/
def Raw.ofInsn (w : Insn) : Raw where
  ver := w.extractLsb' 94 2
  look := w.extractLsb' 90 4
  opc := w.extractLsb' 82 8
  mod := w.extractLsb' 74 8
  pred := w.extractLsb' 70 4
  d := w.extractLsb' 60 10
  a := w.extractLsb' 50 10
  b := w.extractLsb' 40 10
  c := w.extractLsb' 30 10
  imm := w.extractLsb' 22 8
  mod2 := w.extractLsb' 14 8
  low := w.extractLsb' 0 14

/-- Table 3.3, written. -/
def Raw.toInsn (r : Raw) : Insn :=
  r.ver ++ r.look ++ r.opc ++ r.mod ++ r.pred ++ r.d ++ r.a ++ r.b ++ r.c ++ r.imm ++ r.mod2 ++ r.low

/-- Bits [49:0], which the branch format divides otherwise (Table 3.6). -/
def Raw.tail (r : Raw) : BitVec 50 := r.b ++ r.c ++ r.imm ++ r.mod2 ++ r.low

/-- The same word with other bits [49:0]. -/
def Raw.withTail (r : Raw) (t : BitVec 50) : Raw :=
  { r with b := t.extractLsb' 40 10, c := t.extractLsb' 30 10, imm := t.extractLsb' 22 8
           mod2 := t.extractLsb' 14 8, low := t.extractLsb' 0 14 }

/-! ### Operands (Tables 3.9 and 3.10) -/

def Special.ofCode (c : BitVec 4) : Special :=
  match c.toNat with
  | 0 => .slot | 1 => .team | 2 => .lanes | 3 => .evid | 4 => .timeLo | 5 => .timeHi | 6 => .entity | 7 => .tie
  | 8 => .handler | 9 => .round | 10 => .core | 11 => .cluster | 12 => .die | 13 => .pkg | 14 => .ctx | _ => .key

def Special.code : Special → BitVec 4
  | .slot => 0 | .team => 1 | .lanes => 2 | .evid => 3 | .timeLo => 4 | .timeHi => 5 | .entity => 6 | .tie => 7
  | .handler => 8 | .round => 9 | .core => 10 | .cluster => 11 | .die => 12 | .pkg => 13 | .ctx => 14 | .key => 15

/-- Class 0b11 (Table 3.10). -/
def Operand.ofSpecialIndex (i : BitVec 8) : Option Operand :=
  if i = 0x00 then some .imm
  else if i = 0xFF then some .zero
  else if 0x01 ≤ i ∧ i ≤ 0x04 then some (.f ((i - 1).truncate 2))
  else if 0x08 ≤ i ∧ i ≤ 0x0F then some (.h (i.truncate 3))
  else if 0x10 ≤ i ∧ i ≤ 0x13 then some (.j (i.truncate 2))
  else if 0x18 ≤ i ∧ i ≤ 0x1F then some (.p (i.truncate 3))
  else if 0x20 ≤ i ∧ i ≤ 0x2F then some (.sp (Special.ofCode (i.truncate 4)))
  else if 0x30 ≤ i ∧ i ≤ 0x37 then some (.w (i.truncate 3))
  else if 0x40 ≤ i ∧ i ≤ 0x7F then some (.td (i.truncate 6))
  else none

/-- R34: [9:8] class, [7:0] index. -/
def Operand.ofField (f : BitVec 10) : Option Operand :=
  let i : BitVec 8 := f.extractLsb' 0 8
  if f.extractLsb' 8 2 = 0 then some (.v i)
  else if f.extractLsb' 8 2 = 1 then if i ≤ 63 then some (.s (i.truncate 6)) else none
  else if f.extractLsb' 8 2 = 2 then some (.k i)
  else Operand.ofSpecialIndex i

def Operand.toField : Operand → BitVec 10
  | .v i => 0#2 ++ i
  | .s i => 1#2 ++ i.setWidth 8
  | .k i => 2#2 ++ i
  | .imm => 0x300
  | .f i => 3#2 ++ (i.setWidth 8 + 1)
  | .h i => 3#2 ++ (i.setWidth 8 + 0x08)
  | .j i => 3#2 ++ (i.setWidth 8 + 0x10)
  | .p i => 3#2 ++ (i.setWidth 8 + 0x18)
  | .sp r => 3#2 ++ (r.code.setWidth 8 + 0x20)
  | .w i => 3#2 ++ (i.setWidth 8 + 0x30)
  | .td i => 3#2 ++ (i.setWidth 8 + 0x40)
  | .zero => 0x3FF

/-! ### Codes of the modifier fields (Tables 3.11 to 3.14) -/

def IWidth.ofCode : BitVec 2 → IWidth
  | 0 => .w32 | 1 => .w64 | 2 => .x16 | 3 => .x8
def IWidth.code : IWidth → BitVec 2
  | .w32 => 0 | .w64 => 1 | .x16 => 2 | .x8 => 3

def Cond.ofCode (c : BitVec 4) : Option Cond :=
  match c.toNat with
  | 0 => some .eq | 1 => some .ne | 2 => some .lt | 3 => some .le | 4 => some .gt | 5 => some .ge | _ => none
def Cond.code : Cond → BitVec 4
  | .eq => 0 | .ne => 1 | .lt => 2 | .le => 3 | .gt => 4 | .ge => 5

def FCond.ofCode (c : BitVec 8) : Option FCond :=
  match c.toNat with
  | 0 => some .eq | 1 => some .ne | 2 => some .lt | 3 => some .le | 4 => some .gt | 5 => some .ge
  | 6 => some .num | 7 => some .nan | _ => none
def FCond.code : FCond → BitVec 8
  | .eq => 0 | .ne => 1 | .lt => 2 | .le => 3 | .gt => 4 | .ge => 5 | .num => 6 | .nan => 7

def Rnd.ofCode : BitVec 2 → Rnd
  | 0 => .rne | 1 => .rz | 2 => .rdn | 3 => .rup
def Rnd.code : Rnd → BitVec 2
  | .rne => 0 | .rz => 1 | .rdn => 2 | .rup => 3

def FType.ofCode (c : BitVec 3) : FType :=
  if c = 0 then .f32 else if c = 1 then .bf16x2 else if c = 2 then .f16x2 else .other c
def FType.code : FType → BitVec 3
  | .f32 => 0 | .bf16x2 => 1 | .f16x2 => 2 | .other c => c

def CType.ofCode (c : BitVec 4) : Option CType :=
  match c.toNat with
  | 0 => some .f32 | 1 => some .bf16 | 2 => some .f16 | 3 => some .e4m3 | 4 => some .e5m2 | 5 => some .lg6
  | 6 => some .s8 | 7 => some .u8 | 8 => some .s16 | 9 => some .u16 | 10 => some .s32 | 11 => some .u32
  | 12 => some .s64 | 13 => some .u64 | _ => none
def CType.code : CType → BitVec 4
  | .f32 => 0 | .bf16 => 1 | .f16 => 2 | .e4m3 => 3 | .e5m2 => 4 | .lg6 => 5 | .s8 => 6 | .u8 => 7
  | .s16 => 8 | .u16 => 9 | .s32 => 10 | .u32 => 11 | .s64 => 12 | .u64 => 13

def Space.ofCode (c : BitVec 3) : Option Space :=
  match c.toNat with
  | 0 => some .lane | 1 => some .core | 2 => some .clu | 3 => some .die | 4 => some .glb | _ => none
def Space.code : Space → BitVec 3
  | .lane => 0 | .core => 1 | .clu => 2 | .die => 3 | .glb => 4

def MWidth.ofCode (c : BitVec 3) : Option MWidth :=
  match c.toNat with
  | 0 => some .b8 | 1 => some .b16 | 2 => some .b32 | 3 => some .b64 | 4 => some .b128 | _ => none
def MWidth.code : MWidth → BitVec 3
  | .b8 => 0 | .b16 => 1 | .b32 => 2 | .b64 => 3 | .b128 => 4

def MOrder.ofCode (c : BitVec 2) : Option MOrder :=
  match c.toNat with
  | 0 => some .weak | 1 => some .sync | 2 => some .ar | _ => none
def MOrder.code : MOrder → BitVec 2
  | .weak => 0 | .sync => 1 | .ar => 2

def AOp.ofCode (c : BitVec 4) : Option AOp :=
  match c.toNat with
  | 0 => some .add | 1 => some .min | 2 => some .max | 3 => some .and | 4 => some .or | 5 => some .xor
  | 6 => some .exch | _ => none

/-- IMM8 [7:4]: the operand type, with bits [7:6] zero. -/
def AType.ofCode (c : BitVec 4) : Option AType :=
  match c.toNat with
  | 0 => some .u | 1 => some .s | 2 => some .f32 | _ => none
def AType.code : AType → BitVec 4
  | .u => 0 | .s => 1 | .f32 => 2

def PickMode.ofCode (c : BitVec 8) : Option PickMode :=
  match c.toNat with
  | 0 => some .at | 1 => some .off | 2 => some .xor | 3 => some .mir | _ => none
def PickMode.code : PickMode → BitVec 8
  | .at => 0 | .off => 1 | .xor => 2 | .mir => 3

def VoteMode.ofCode (c : BitVec 8) : Option VoteMode :=
  match c.toNat with
  | 0 => some .all | 1 => some .any | 2 => some .uni | 3 => some .ballot | _ => none
def VoteMode.code : VoteMode → BitVec 8
  | .all => 0 | .any => 1 | .uni => 2 | .ballot => 3

def ROp.ofCode (c : BitVec 4) : Option ROp :=
  match c.toNat with
  | 0 => some .add | 1 => some .min | 2 => some .max | 3 => some .and | 4 => some .or | 5 => some .xor | _ => none
def ROp.code : ROp → BitVec 4
  | .add => 0 | .min => 1 | .max => 2 | .and => 3 | .or => 4 | .xor => 5

def Head.verBits (h : Head) : BitVec 2 := if h.ver1 then 1 else 0
def Guard.bits (g : Guard) : BitVec 4 := BitVec.ofBool g.neg ++ g.p
def bit (b : Bool) : BitVec 1 := BitVec.ofBool b

def Raw.guard (r : Raw) : Guard := ⟨r.pred.getLsbD 3, r.pred.truncate 3⟩
def Raw.head (r : Raw) : Head := ⟨r.ver == 1, r.look, r.guard⟩

/-! ### Decoding, one function per layout -/

/-- The operand of a field that the form uses; an unused field is ignored. A field that names no operand fails
check 6 (`badField`); until then it stands for a special register, so that check 5 takes it neither for IMM8 nor for
the zero operand. -/
def pickField (f : Option Field) (w : BitVec 10) : Operand :=
  match f with
  | none => .zero
  | some _ => (Operand.ofField w).getD (.sp .team)

/-- A used field that names no operand at all. -/
def badField (f : Option Field) (w : BitVec 10) : Bool := f.isSome && (Operand.ofField w).isNone

/-- Reads the operand fields that the instruction uses, D first because `vote.ballot` uses B only with an s-register
in D (R135), then makes checks 5 and 6. `bits` says that the word's
bits outside the operand fields hold a listed pattern. -/
def Raw.finish (r : Raw) (bits : Bool) (mk : Ops → Instr) : Except Reject Instr :=
  let sh := (mk { d := pickField (mk {}).shape.d r.d }).shape
  let i := mk ⟨pickField sh.d r.d, pickField sh.a r.a, pickField sh.b r.b, pickField sh.c r.c, r.imm⟩
  if !(bits && r.low == 0 && i.encodingOk) then .error .encoding
  else if badField sh.d r.d || badField sh.a r.a || badField sh.b r.b || badField sh.c r.c || !i.operandsOk then
    .error .operand
  else .ok i

def orReject (o : Option α) (f : α → Except Reject Instr) : Except Reject Instr :=
  match o with
  | none => .error .encoding
  | some a => f a

def Raw.intOp (r : Raw) (o : Ops) : IntOp :=
  ⟨r.head, r.mod.getLsbD 7, IWidth.ofCode (r.mod.extractLsb' 5 2), r.mod.getLsbD 4, o.d, o.a, o.b, o.c, o.imm⟩

def Raw.asInt (r : Raw) (mk : IntOp → Instr) : Except Reject Instr :=
  r.finish (r.mod.extractLsb' 0 4 == 0 && r.mod2 == 0) fun o => mk (r.intOp o)

def Raw.asIcmp (r : Raw) : Except Reject Instr :=
  orReject (Cond.ofCode (r.mod.extractLsb' 0 4)) fun cond => r.finish (r.mod2 == 0) fun o => .icmp cond (r.intOp o)

def Raw.asLea (r : Raw) : Except Reject Instr :=
  r.finish (r.mod2 == 0) fun o => .lea (r.mod.extractLsb' 0 4) (r.intOp o)

def Raw.asIadds (r : Raw) : Except Reject Instr :=
  r.finish (r.mod.extractLsb' 0 4 == 0 && r.mod2.extractLsb' 3 5 == 0) fun o =>
    .iadds (r.mod2.extractLsb' 0 3) (r.intOp o)

def Raw.fpOp (r : Raw) (o : Ops) : FpOp :=
  ⟨r.head, Rnd.ofCode (r.mod.extractLsb' 6 2), r.mod.getLsbD 5, r.mod.getLsbD 4, r.mod.getLsbD 3,
    FType.ofCode (r.mod.extractLsb' 0 3), o.d, o.a, o.b, o.c, o.imm⟩

def Raw.asFp (r : Raw) (mk : FpOp → Instr) : Except Reject Instr :=
  r.finish (r.mod2 == 0) fun o => mk (r.fpOp o)

def Raw.asFcmp (r : Raw) : Except Reject Instr :=
  orReject (FCond.ofCode r.mod2) fun cond => r.finish true fun o => .fcmp cond (r.fpOp o)

def Raw.asCvt (r : Raw) (mk : CvtOp → Instr) : Except Reject Instr :=
  orReject (CType.ofCode (r.mod2.extractLsb' 4 4)) fun dst =>
    orReject (CType.ofCode (r.mod2.extractLsb' 0 4)) fun src =>
      r.finish (r.mod.extractLsb' 0 5 == 0) fun o =>
        mk ⟨r.head, Rnd.ofCode (r.mod.extractLsb' 6 2), r.mod.getLsbD 5, dst, src, o.d, o.a, o.b, o.imm⟩

def Raw.moveOp (r : Raw) (o : Ops) : MoveOp := ⟨r.head, r.mod.getLsbD 4, o.d, o.a, o.b, o.c, o.imm⟩

/-- Lane movement: MOD[7:5] zero and MOD[3:0] as given (R132). -/
def Raw.asMove (r : Raw) (low : BitVec 4) (mod2 : BitVec 8) (mk : MoveOp → Instr) : Except Reject Instr :=
  r.finish (r.mod.extractLsb' 5 3 == 0 && r.mod.extractLsb' 0 4 == low && r.mod2 == mod2) fun o => mk (r.moveOp o)

def Raw.asLpick (r : Raw) : Except Reject Instr :=
  orReject (PickMode.ofCode r.mod2) fun m => r.asMove 0 r.mod2 (.lpick m)
def Raw.asLsh (r : Raw) : Except Reject Instr :=
  r.asMove 0 (0#7 ++ bit (r.mod2.getLsbD 0)) (.lsh (r.mod2.getLsbD 0))
def Raw.asMatch (r : Raw) : Except Reject Instr :=
  r.asMove 0 (0#7 ++ bit (r.mod2.getLsbD 0)) (.matchLanes (r.mod2.getLsbD 0))
def Raw.asVote (r : Raw) : Except Reject Instr :=
  orReject (VoteMode.ofCode r.mod2) fun m => r.asMove 0 r.mod2 (.vote m)
def Raw.asRedux (r : Raw) : Except Reject Instr :=
  orReject (ROp.ofCode (r.mod2.extractLsb' 0 4)) fun op =>
    r.asMove (0#3 ++ bit (r.mod.getLsbD 0)) (0#4 ++ op.code) (.redux op (r.mod.getLsbD 0))
def Raw.asScan (r : Raw) : Except Reject Instr :=
  orReject (ROp.ofCode (r.mod2.extractLsb' 0 4)) fun op =>
    r.asMove (0#3 ++ bit (r.mod.getLsbD 0)) (0#3 ++ bit (r.mod2.getLsbD 4) ++ op.code)
      (.scan op (r.mod.getLsbD 0) (r.mod2.getLsbD 4))

/-- No modifier bit beside those given. -/
def Raw.asPlainMod (r : Raw) (mod mod2 : BitVec 8) (mk : PlainOp → Instr) : Except Reject Instr :=
  r.finish (r.mod == mod && r.mod2 == mod2) fun o => mk ⟨r.head, o.d, o.a, o.b, o.c, o.imm⟩
def Raw.asPlain (r : Raw) (mk : PlainOp → Instr) : Except Reject Instr := r.asPlainMod 0 0 mk

/-- No operand and no immediate. -/
def Raw.asHeadMod (r : Raw) (mod mod2 : BitVec 8) (mk : Head → Instr) : Except Reject Instr :=
  r.finish (r.mod == mod && r.mod2 == mod2 && r.imm == 0) fun _ => mk r.head
def Raw.asHead (r : Raw) (mk : Head → Instr) : Except Reject Instr := r.asHeadMod 0 0 mk

def Raw.brOp (r : Raw) : BrOp :=
  ⟨r.head, r.tail.extractLsb' 28 22, r.tail.extractLsb' 25 3, r.tail.extractLsb' 3 22, r.tail.extractLsb' 0 3⟩

/-- Branch format: no operand field, and bits [49:0] hold the offsets. -/
def Raw.asBrMod (r : Raw) (mod : BitVec 8) (mk : BrOp → Instr) : Except Reject Instr :=
  if r.mod == mod && (mk r.brOp).encodingOk then .ok (mk r.brOp) else .error .encoding
def Raw.asBr (r : Raw) (mk : BrOp → Instr) : Except Reject Instr := r.asBrMod 0 mk
def Raw.asBra (r : Raw) : Except Reject Instr :=
  r.asBrMod (0#7 ++ bit (r.mod.getLsbD 0)) (.bra (r.mod.getLsbD 0))
def Raw.asYield (r : Raw) : Except Reject Instr :=
  if r.mod.getLsbD 0 then r.asBrMod 1 .yieldDone else r.asBrMod 0 .yield

def Raw.memOp (r : Raw) (sp : Space) (w : MWidth) (ord : MOrder) (o : Ops) : MemOp :=
  ⟨r.head, sp, w, ord, r.mod2.extractLsb' 3 5, r.mod2.getLsbD 2, r.mod2.getLsbD 1, r.mod2.getLsbD 0,
    o.d, o.a, o.b, o.c, o.imm⟩

def Raw.memFields (r : Raw) (f : Space → MWidth → MOrder → Except Reject Instr) : Except Reject Instr :=
  orReject (Space.ofCode (r.mod.extractLsb' 5 3)) fun sp =>
    orReject (MWidth.ofCode (r.mod.extractLsb' 2 3)) fun w =>
      orReject (MOrder.ofCode (r.mod.extractLsb' 0 2)) fun ord => f sp w ord

def Raw.asMem (r : Raw) (mk : MemOp → Instr) : Except Reject Instr :=
  r.memFields fun sp w ord => r.finish true fun o => mk (r.memOp sp w ord o)

/-- IMM8 is the operation code (R36). -/
def Raw.asAtom (r : Raw) (mk : AOp → AType → MemOp → Instr) : Except Reject Instr :=
  r.memFields fun sp w ord =>
    orReject (AOp.ofCode (r.imm.extractLsb' 0 4)) fun op =>
      orReject (AType.ofCode (r.imm.extractLsb' 4 4)) fun ty =>
        r.finish true fun o => mk op ty (r.memOp sp w ord { o with imm := 0 })

/-- `cctl`: space `.glb`, width 0b000, order 00, and the operation in IMM8 (Table 8.3). -/
def Raw.asCctl (r : Raw) : Except Reject Instr :=
  let go (mk : PlainOp → Instr) :=
    r.finish (r.mod == 0x80 && r.mod2 == 0) fun o => mk ⟨r.head, o.d, o.a, o.b, o.c, 0⟩
  if r.imm = 0 then go .cctlWb
  else if r.imm = 1 then go .cctlInv
  else if r.imm = 2 then go .cctlWbinv
  else if r.imm = 3 then go .cctlIfl
  else .error .encoding

def Raw.asScribe (r : Raw) (mk : ScribeOp → Instr) : Except Reject Instr :=
  r.finish (r.mod.extractLsb' 2 6 == 0 && r.mod2 == 0) fun o =>
    mk ⟨r.head, r.mod.getLsbD 0, r.mod.getLsbD 1, o.d, o.a, o.b, o.c, o.imm⟩

def Raw.asJoin (r : Raw) : Except Reject Instr :=
  r.asHeadMod (0#7 ++ bit (r.mod.getLsbD 0)) 0 (.join (r.mod.getLsbD 0))
def Raw.asMma (r : Raw) : Except Reject Instr :=
  r.asPlainMod (bit (r.mod.getLsbD 7) ++ 0#7) 0 (.mma (r.mod.getLsbD 7))
def Raw.asGbar (r : Raw) : Except Reject Instr :=
  if r.mod = 0 then r.asPlainMod 0 0 .gbarArrive
  else if r.mod = 1 then r.asPlainMod 1 0 .gbarWait
  else r.asPlainMod 2 0 .gbarSync
def Raw.asPost (r : Raw) : Except Reject Instr :=
  r.asPlainMod (0#7 ++ bit (r.mod.getLsbD 0)) 0 (.post (r.mod.getLsbD 0))
/-- MOD2 names the result register (R316). -/
def Raw.asRes (r : Raw) (mk : BitVec 8 → PlainOp → Instr) : Except Reject Instr :=
  r.asPlainMod 0 r.mod2 (mk r.mod2)
def Raw.asFence (r : Raw) : Except Reject Instr :=
  r.asHeadMod (0#7 ++ bit (r.mod.getLsbD 0)) (r.mod2.extractLsb' 3 5 ++ 0#3)
    (.fence (r.mod.getLsbD 0) (r.mod2.extractLsb' 3 5))
def Raw.asBflush (r : Raw) : Except Reject Instr :=
  if r.mod.getLsbD 0 then r.asHeadMod 1 0 .bflushWait else r.asHeadMod 0 0 .bflush

/-- Check 4 and what follows it: the opcode map (Table 3.16). -/
def Raw.decode (r : Raw) : Except Reject Instr :=
  match r.opc.toNat with
  | 0x00 => r.asHead .nop
  | 0x01 => r.asInt .mov
  | 0x02 => r.asInt .iadd
  | 0x03 => r.asInt .isub
  | 0x04 => r.asInt .imul
  | 0x05 => r.asInt .imulh
  | 0x06 => r.asInt .imad
  | 0x07 => r.asInt .imin
  | 0x08 => r.asInt .imax
  | 0x09 => r.asInt .iabs
  | 0x0A => r.asInt .and
  | 0x0B => r.asInt .or
  | 0x0C => r.asInt .xor
  | 0x0D => r.asInt .not
  | 0x0E => r.asInt .shl
  | 0x0F => r.asInt .shr
  | 0x10 => r.asInt .rot
  | 0x11 => r.asInt .popc
  | 0x12 => r.asInt .clz
  | 0x13 => r.asInt .bfx
  | 0x14 => r.asInt .bfi
  | 0x15 => r.asIcmp
  | 0x16 => r.asInt .sel
  | 0x17 => r.asLea
  | 0x18 => r.asInt .iadd64
  | 0x19 => r.asInt .iaddmin
  | 0x1A => r.asInt .imin3
  | 0x1B => r.asIadds
  | 0x20 => r.asFp .fadd
  | 0x21 => r.asFp .fsub
  | 0x22 => r.asFp .fmul
  | 0x23 => r.asFp .ffma
  | 0x24 => r.asFp .fmin
  | 0x25 => r.asFp .fmax
  | 0x26 => r.asFcmp
  | 0x27 => r.asFp .faddmin
  | 0x28 => r.asFp .frcp
  | 0x29 => r.asFp .frsq
  | 0x2A => r.asFp .fsqrt
  | 0x2B => r.asFp .fexp2
  | 0x2C => r.asFp .flog2
  | 0x2D => r.asFp .fsin
  | 0x2E => r.asFp .fcos
  | 0x2F => r.asFp .ftanh
  | 0x30 => r.asFp .hfma2
  | 0x31 => r.asFp .hadd2
  | 0x32 => r.asFp .hmul2
  | 0x33 => r.asFp .fclass
  | 0x34 => r.asFp .frnd
  | 0x40 => r.asCvt .cvt
  | 0x41 => r.asCvt .pack
  | 0x42 => r.asCvt .unpk
  | 0x50 => r.asLpick
  | 0x51 => r.asLsh
  | 0x52 => r.asVote
  | 0x53 => r.asRedux
  | 0x54 => r.asScan
  | 0x55 => r.asMatch
  | 0x56 => r.asMove 0 0 .rdmask
  | 0x60 => r.asBra
  | 0x61 => r.asPlain .brx
  | 0x62 => r.asBr .call
  | 0x63 => r.asHead .ret
  | 0x64 => r.asJoin
  | 0x65 => r.asHead .exit
  | 0x66 => r.asPlain .trap
  | 0x67 => r.asHead .tret
  | 0x68 => r.asPlain .brk
  | 0x69 => r.asPlain .rdsplit
  | 0x6A => r.asPlain .nap
  | 0x70 => r.asMem .ld
  | 0x71 => r.asMem .st
  | 0x72 => r.asMem .pref
  | 0x73 => r.asAtom .atom
  | 0x74 => r.asMem .cas
  | 0x75 => r.asAtom .red
  | 0x76 => r.asMem .wait
  | 0x77 => r.asMem .lds
  | 0x78 => r.asMem .sts
  | 0x79 => r.asMem .ldk
  | 0x7A => r.asCctl
  | 0x90 => r.asPlain .tdset
  | 0x91 => r.asPlain .wload
  | 0x92 => r.asPlain .wswap
  | 0x93 => r.asMma
  | 0x94 => r.asPlain .wdrop
  | 0x95 => r.asPlain .feed
  | 0x96 => r.asPlain .fstop
  | 0x97 => r.asPlain .fpos
  | 0xA0 => r.asPlain .regroup
  | 0xA1 => r.asGbar
  | 0xA2 => r.asPlain .xshuf
  | 0xA3 => r.asHead .tsync
  | 0xA4 => r.asHead .trig
  | 0xA5 => r.asYield
  | 0xB0 => r.asScribe .cpy
  | 0xB1 => r.asScribe .tile
  | 0xB2 => r.asScribe .gather
  | 0xB3 => r.asScribe .scatter
  | 0xB4 => r.asScribe .fill
  | 0xB5 => r.asPlain .scq
  | 0xC0 => r.asPost
  | 0xC1 => r.asRes .cancel
  | 0xC2 => r.asRes .gate
  | 0xC3 => r.asPlain .signal
  | 0xC4 => r.asPlain .publish
  | 0xC5 => r.asPlain .hset
  | 0xC6 => r.asPlain .launch
  | 0xC7 => r.asPlain .hznq
  | 0xD0 => r.asFence
  | 0xD1 => r.asPlain .bind
  | 0xD2 => r.asPlain .unbind
  | 0xD3 => r.asPlain .scset
  | 0xE0 => r.asMem .rst
  | 0xE1 => r.asAtom .rred
  | 0xE2 => r.asAtom .ratom
  | 0xE3 => r.asMem .rld
  | 0xE4 => r.asBflush
  | 0xE5 => r.asPlain .bstat
  | 0xE6 => r.asPlain .route
  | 0xE7 => r.asMem .rcas
  | 0xF0 => r.asPlain .rdsr
  | 0xF1 => r.asPlain .wrsr
  | 0xF2 => r.asPlain .rdbudget
  | 0xF3 => r.asPlain .clock
  | 0xF4 => r.asPlain .fltrd
  | 0xFF => .ok .udf
  | _ => .error .opcode

/-- The instruction that a word holds: checks 3 to 6 of Table 3.15, in order. -/
def decode (w : Insn) : Except Reject Instr :=
  let r := Raw.ofInsn w
  if 2 ≤ r.ver.toNat then .error .version else r.decode

/-! ### Bytes -/

/-- The value of bytes stored little-endian (R22). -/
def leNat : List Byte → Nat
  | [] => 0
  | b :: bs => b.toNat + 256 * leNat bs

/-- `n` bytes of a value, lowest first. -/
def leBytes : Nat → Nat → List Byte
  | 0, _ => []
  | n + 1, x => BitVec.ofNat 8 x :: leBytes n (x / 256)

/-- The instruction word of a slot, from its twelve bytes (R22). -/
def insnOfBytes (bs : List Byte) : Insn := BitVec.ofNat 96 (leNat bs)

/-- The decoder over the bytes of a slot; the rest of the list is left. -/
def decodeBytes (bs : List Byte) : Except Reject (Instr × List Byte) :=
  match decode (insnOfBytes (bs.take 12)) with
  | .ok i => .ok (i, bs.drop 12)
  | .error e => .error e

/-- The instruction the decoder reads from a table row's bits, bit 0 lowest in the first byte. -/
def decodeTableWord (nbits w : Nat) : Option Instr :=
  match decodeBytes (leBytes 12 (w % 2 ^ nbits)) with
  | .ok (i, _) => some i
  | .error _ => none

/-! ### Encoding -/

/-- Every field of a word that the form leaves unused, as pyxas writes it (R32). -/
def Raw.base (opc : BitVec 8) (h : Head) : Raw :=
  ⟨h.verBits, h.look, opc, 0, h.guard.bits, 0x3FF, 0x3FF, 0x3FF, 0x3FF, 0, 0, 0⟩

def Raw.withOps (r : Raw) (o : Ops) : Raw :=
  { r with d := o.d.toField, a := o.a.toField, b := o.b.toField, c := o.c.toField, imm := o.imm }

def Raw.ofHead (opc : BitVec 8) (h : Head) (mod : BitVec 8 := 0) (mod2 : BitVec 8 := 0) : Raw :=
  { Raw.base opc h with mod := mod, mod2 := mod2 }

def Raw.ofInt (opc : BitVec 8) (x : IntOp) (low : BitVec 4 := 0) (mod2 : BitVec 8 := 0) : Raw :=
  { (Raw.base opc x.head).withOps x.ops with mod := bit x.sat ++ x.width.code ++ bit x.sgn ++ low, mod2 := mod2 }

def Raw.ofFp (opc : BitVec 8) (x : FpOp) (mod2 : BitVec 8 := 0) : Raw :=
  { (Raw.base opc x.head).withOps x.ops with
    mod := x.rnd.code ++ bit x.absA ++ bit x.negA ++ bit x.negB ++ x.ty.code, mod2 := mod2 }

def Raw.ofCvt (opc : BitVec 8) (x : CvtOp) : Raw :=
  { (Raw.base opc x.head).withOps x.ops with
    mod := x.rnd.code ++ bit x.sat ++ 0#5, mod2 := x.dst.code ++ x.src.code }

def Raw.ofPlain (opc : BitVec 8) (x : PlainOp) (mod : BitVec 8 := 0) (mod2 : BitVec 8 := 0) : Raw :=
  { (Raw.base opc x.head).withOps x.ops with mod := mod, mod2 := mod2 }

def Raw.ofMove (opc : BitVec 8) (x : MoveOp) (low : BitVec 4) (mod2 : BitVec 8) : Raw :=
  { (Raw.base opc x.head).withOps x.ops with mod := 0#3 ++ bit x.sgn ++ low, mod2 := mod2 }

def Raw.ofMem (opc : BitVec 8) (x : MemOp) : Raw :=
  { (Raw.base opc x.head).withOps x.ops with
    mod := x.space.code ++ x.width.code ++ x.order.code, mod2 := x.scope ++ bit x.poll ++ bit x.ro ++ bit x.na }

def Raw.ofAtom (opc : BitVec 8) (op : AOp) (ty : AType) (x : MemOp) : Raw :=
  { Raw.ofMem opc x with imm := ty.code ++ op.code }

def Raw.ofScribe (opc : BitVec 8) (x : ScribeOp) : Raw :=
  { (Raw.base opc x.head).withOps x.ops with mod := 0#6 ++ bit x.strict ++ bit x.add }

def Raw.ofCctl (x : PlainOp) (op : BitVec 8) : Raw := { Raw.ofPlain 0x7A x 0x80 with imm := op }

def Raw.ofBr (opc : BitVec 8) (x : BrOp) (mod : BitVec 8 := 0) : Raw :=
  { (Raw.base opc x.head).withTail (x.toff ++ x.tslot ++ x.joff ++ x.jslot) with mod := mod }

/-- The word's fields for an encoded instruction; a step of the device has none. -/
def Instr.toRaw : Instr → Raw
  | .udf => Raw.base 0xFF ⟨false, 0, ⟨false, 7⟩⟩
  | .mov x => .ofInt 0x01 x
  | .iadd x => .ofInt 0x02 x
  | .isub x => .ofInt 0x03 x
  | .imul x => .ofInt 0x04 x
  | .imulh x => .ofInt 0x05 x
  | .imad x => .ofInt 0x06 x
  | .imin x => .ofInt 0x07 x
  | .imax x => .ofInt 0x08 x
  | .iabs x => .ofInt 0x09 x
  | .and x => .ofInt 0x0A x
  | .or x => .ofInt 0x0B x
  | .xor x => .ofInt 0x0C x
  | .not x => .ofInt 0x0D x
  | .shl x => .ofInt 0x0E x
  | .shr x => .ofInt 0x0F x
  | .rot x => .ofInt 0x10 x
  | .popc x => .ofInt 0x11 x
  | .clz x => .ofInt 0x12 x
  | .bfx x => .ofInt 0x13 x
  | .bfi x => .ofInt 0x14 x
  | .sel x => .ofInt 0x16 x
  | .iadd64 x => .ofInt 0x18 x
  | .iaddmin x => .ofInt 0x19 x
  | .imin3 x => .ofInt 0x1A x
  | .fadd x => .ofFp 0x20 x
  | .fsub x => .ofFp 0x21 x
  | .fmul x => .ofFp 0x22 x
  | .ffma x => .ofFp 0x23 x
  | .fmin x => .ofFp 0x24 x
  | .fmax x => .ofFp 0x25 x
  | .faddmin x => .ofFp 0x27 x
  | .frcp x => .ofFp 0x28 x
  | .frsq x => .ofFp 0x29 x
  | .fsqrt x => .ofFp 0x2A x
  | .fexp2 x => .ofFp 0x2B x
  | .flog2 x => .ofFp 0x2C x
  | .fsin x => .ofFp 0x2D x
  | .fcos x => .ofFp 0x2E x
  | .ftanh x => .ofFp 0x2F x
  | .hfma2 x => .ofFp 0x30 x
  | .hadd2 x => .ofFp 0x31 x
  | .hmul2 x => .ofFp 0x32 x
  | .fclass x => .ofFp 0x33 x
  | .frnd x => .ofFp 0x34 x
  | .cvt x => .ofCvt 0x40 x
  | .pack x => .ofCvt 0x41 x
  | .unpk x => .ofCvt 0x42 x
  | .brx x => .ofPlain 0x61 x
  | .trap x => .ofPlain 0x66 x
  | .brk x => .ofPlain 0x68 x
  | .rdsplit x => .ofPlain 0x69 x
  | .nap x => .ofPlain 0x6A x
  | .tdset x => .ofPlain 0x90 x
  | .wload x => .ofPlain 0x91 x
  | .wswap x => .ofPlain 0x92 x
  | .wdrop x => .ofPlain 0x94 x
  | .feed x => .ofPlain 0x95 x
  | .fstop x => .ofPlain 0x96 x
  | .fpos x => .ofPlain 0x97 x
  | .regroup x => .ofPlain 0xA0 x
  | .xshuf x => .ofPlain 0xA2 x
  | .scq x => .ofPlain 0xB5 x
  | .signal x => .ofPlain 0xC3 x
  | .publish x => .ofPlain 0xC4 x
  | .hset x => .ofPlain 0xC5 x
  | .launch x => .ofPlain 0xC6 x
  | .hznq x => .ofPlain 0xC7 x
  | .bind x => .ofPlain 0xD1 x
  | .unbind x => .ofPlain 0xD2 x
  | .scset x => .ofPlain 0xD3 x
  | .bstat x => .ofPlain 0xE5 x
  | .route x => .ofPlain 0xE6 x
  | .rdsr x => .ofPlain 0xF0 x
  | .wrsr x => .ofPlain 0xF1 x
  | .rdbudget x => .ofPlain 0xF2 x
  | .clock x => .ofPlain 0xF3 x
  | .fltrd x => .ofPlain 0xF4 x
  | .nop h => .ofHead 0x00 h
  | .ret h => .ofHead 0x63 h
  | .exit h => .ofHead 0x65 h
  | .tret h => .ofHead 0x67 h
  | .tsync h => .ofHead 0xA3 h
  | .trig h => .ofHead 0xA4 h
  | .ld x => .ofMem 0x70 x
  | .st x => .ofMem 0x71 x
  | .pref x => .ofMem 0x72 x
  | .cas x => .ofMem 0x74 x
  | .wait x => .ofMem 0x76 x
  | .lds x => .ofMem 0x77 x
  | .sts x => .ofMem 0x78 x
  | .ldk x => .ofMem 0x79 x
  | .rst x => .ofMem 0xE0 x
  | .rld x => .ofMem 0xE3 x
  | .rcas x => .ofMem 0xE7 x
  | .atom op ty x => .ofAtom 0x73 op ty x
  | .red op ty x => .ofAtom 0x75 op ty x
  | .rred op ty x => .ofAtom 0xE1 op ty x
  | .ratom op ty x => .ofAtom 0xE2 op ty x
  | .cpy x => .ofScribe 0xB0 x
  | .tile x => .ofScribe 0xB1 x
  | .gather x => .ofScribe 0xB2 x
  | .scatter x => .ofScribe 0xB3 x
  | .fill x => .ofScribe 0xB4 x
  | .icmp cond x => .ofInt 0x15 x cond.code
  | .lea scale x => .ofInt 0x17 x scale
  | .iadds carry x => .ofInt 0x1B x 0 (0#5 ++ carry)
  | .fcmp cond x => .ofFp 0x26 x cond.code
  | .lpick m x => .ofMove 0x50 x 0 m.code
  | .lsh down x => .ofMove 0x51 x 0 (0#7 ++ bit down)
  | .vote m x => .ofMove 0x52 x 0 m.code
  | .redux op flt x => .ofMove 0x53 x (0#3 ++ bit flt) (0#4 ++ op.code)
  | .scan op flt excl x => .ofMove 0x54 x (0#3 ++ bit flt) (0#3 ++ bit excl ++ op.code)
  | .matchLanes all x => .ofMove 0x55 x 0 (0#7 ++ bit all)
  | .rdmask x => .ofMove 0x56 x 0 0
  | .bra div x => .ofBr 0x60 x (0#7 ++ bit div)
  | .call x => .ofBr 0x62 x
  | .join any h => .ofHead 0x64 h (0#7 ++ bit any)
  | .cctlWb x => .ofCctl x 0
  | .cctlInv x => .ofCctl x 1
  | .cctlWbinv x => .ofCctl x 2
  | .cctlIfl x => .ofCctl x 3
  | .mma sat x => .ofPlain 0x93 x (bit sat ++ 0#7)
  | .gbarArrive x => .ofPlain 0xA1 x 0
  | .gbarWait x => .ofPlain 0xA1 x 1
  | .gbarSync x => .ofPlain 0xA1 x 2
  | .yield x => .ofBr 0xA5 x 0
  | .yieldDone x => .ofBr 0xA5 x 1
  | .post rel x => .ofPlain 0xC0 x (0#7 ++ bit rel)
  | .cancel res x => .ofPlain 0xC1 x 0 res
  | .gate res x => .ofPlain 0xC2 x 0 res
  | .fence bl scope h => .ofHead 0xD0 h (0#7 ++ bit bl) (scope ++ 0#3)
  | .bflush h => .ofHead 0xE4 h 0
  | .bflushWait h => .ofHead 0xE4 h 1
  | _ => Raw.base 0xFF ⟨false, 0, ⟨false, 7⟩⟩

/-- The word of a well-formed instruction (R29, R41). -/
def encode (i : Instr) : Insn := i.toRaw.toInsn

end Sys2Proof
end

