-- ==== Sys2Proof/Config.lean ====
section
/-! DEFINITION. Constants of the device and the free values that the manual leaves open. -/
namespace Sys2Proof.Config

/-! ### Constants -/

/-- Clock rate of a package in cycles per microsecond (R346: 1.5 GHz). -/
def cyclesPerUs : Nat := 1500
/-- Cores of a package, numbered 0 to 511 (R10). -/
def coresPerPkg : Nat := 512
/-- Compute dies of a package. -/
def diesPerPkg : Nat := 4
/-- Cores of a die. -/
def coresPerDie : Nat := 128
/-- Cores of a cluster. -/
def coresPerCluster : Nat := 4
/-- Miss entries of a core (R181). -/
def missEntries : Nat := 256
/-- Teams resident on a core (R162). -/
def teamsPerCore : Nat := 32

/-- Default key timeout of a link in cycles: 100 ms (R382). -/
def keyTimeout : Nat := 150000000
/-- Default power limit of a package in nJ per window (R431). -/
def powerLimit : Nat := 2400000000

/-! ### Free values

Each constant below has no body: nothing constrains its value. The first argument is the state's counter `tick`
where a fresh value is drawn each time. -/

/-- Cycles that a step takes beyond the first (notes/assumptions/4). -/
opaque extraCycles : Nat → Nat
/-- A special function's result inside the bound of R77, one per function code and operand, so that R79 holds. -/
opaque special : Nat → Word → Word
/-- Which 32-byte half of a fetched line is read as it was before the latest store (R28). -/
opaque fetchOld : Nat → Nat → Bool
/-- Contents of the result registers after a matrix reset (R217). -/
opaque matrixLeft : Nat → Nat → Word
/-- Passes of an interrupted `mma` that were complete at a matrix reset (R217). -/
opaque passesDone : Nat → Nat → Nat
/-- j2 of a parity error in a plane's scale block, which has no row (R216). -/
opaque scaleFault : Nat → BitVec 32
/-- Victim choice of a full L1 set (08), and of an L2 set (R248). -/
opaque victim : Nat → Nat → Nat
/-- The set of an L2 slice that a line falls into (R248 does not say which address bits choose it). -/
opaque l2Set : Nat → Nat
/-- The bytes of the save area that the driver provides, where in it a save of a tick streams an item of a team, and what
the item holds beyond what R336 states: R336 gives the items and no layout. -/
opaque saveArea : Nat
opaque saveOffset : Nat → Nat → Nat
opaque saveByte : Nat → Nat → BitVec 8
/-- Bytes in which the image holds a trap mark or held trap, or the state of a barrier. -/
opaque saveMarkBytes : Nat
/-- A write-back of a die can still be done before it is fenced (R250). -/
opaque writeBackInTime : Nat → Bool
/-- The SHA-384 digest of a byte string (R427, another standard). -/
opaque sha384 : List (BitVec 8) → BitVec 384
/-- Ed25519 verification: public key, message, signature (R427, another standard). -/
opaque ed25519 : List (BitVec 8) → List (BitVec 8) → List (BitVec 8) → Bool
/-- ML-DSA-65 verification: public key, message, signature (R427, another standard). -/
opaque mlDsa : List (BitVec 8) → List (BitVec 8) → List (BitVec 8) → Bool
/-- The Ed25519 public key of a package's identity, for which its certificate is (R429, R435). -/
opaque identityKey : Nat → BitVec 256
/-- The signatures that a package's identity makes over an attestation report (R429). -/
opaque attestEd : Nat → List (BitVec 8) → List (BitVec 8)
opaque attestMl : Nat → List (BitVec 8) → List (BitVec 8)
/-- What stage 2 of a package chooses as the configuration that extends a measurement register (R428). -/
opaque bootConfig : Nat → Nat → List (BitVec 8)
/-- Flits of a blotter packet beyond those that its elements and tag fill: its header's form is not stated (R377). -/
opaque headerFlits : Nat → Nat
/-- Link-control flits that a port sends before a packet: no rule says when it sends one (R377, R378). -/
opaque controlFlits : Nat → Nat
/-- Which of the older reads still under way a weak `rld.ro` is merged with, by number from 1 (R387); else none. -/
opaque mergeRead : Nat → Nat

/-! ### What the parts of one package hold

The next constants have no body either: fuses and tests of one package decide them. -/

/-- Serial number of a package (Table 24.3). -/
opaque serial : Nat → BitVec 64
/-- Fused rollback counter (R427). -/
opaque rollback : Nat → BitVec 32
/-- Debug access is fused off (Table 24.3). -/
opaque debugOff : Nat → Bool
/-- Fused hashes of the public keys (R427). -/
opaque fusedEd : Nat → BitVec 384
opaque fusedMl : Nat → BitVec 384
/-- The compute die, numbered over the fabric, passes its power-on test (R369). -/
opaque diePasses : Nat → Bool

end Sys2Proof.Config
end

