-- ==== Sys2Proof/Machine/Types.lean ====
section
/-! DEFINITION. The parts of the state: memories, lanes, splits, teams and what a core and a cluster hold. -/
namespace Sys2Proof.Machine

/-! ### Memories -/

/-- Bytes by address, strictly rising, no entry zero: an address not listed reads 0. -/
abbrev Mem := List Host.Cell

/-- A memory whose units can be poisoned: 64-bit words of the unified store, 32-byte sectors of the die scratchpad
(R179, R264). -/
structure Ram where
  cells : Mem := []
  /-- Bytes of a unit. -/
  grain : Nat := 8
  /-- Poisoned units, by number. -/
  poison : List Nat := []
  deriving DecidableEq, Repr

/-! ### Events and entries -/

/-- An event record (Tables 16.1, 16.2). -/
structure EvRec where
  time : DWord := 0
  entity : Word := 0
  handler : BitVec 12 := 0
  cls : BitVec 2 := 0
  short : Bool := false
  gated : Bool := false
  tie : BitVec 16 := 0
  payload : Vector Word 4 := Vector.replicate 4 0
  deriving DecidableEq, Repr

/-- What a team is dispatched with, from a handler entry (Table 16.3) or a launch record (Table 17.1). -/
structure Entry where
  pc : Pc := 0
  trap : Option Pc := none
  preempt : Option Pc := none
  const : Nat := 0
  constw : Nat := 0
  vregs : Nat := 1
  lanes : Nat := 1
  coalesce : Nat := 1
  binTimer : Nat := 1
  energy : Nat := 0
  splitspill : Nat := 0
  planes : Nat := 0
  place : Nat := 0
  dshift : Nat := 0
  dmask : Nat := 0
  pshift : Nat := 0
  pmask : Nat := 0
  log2bar : Nat := 20
  slice : Nat := 0
  scratch : Nat := 0
  deriving DecidableEq, Repr

/-- A launch record (Table 17.1) after its checks. -/
structure LaunchRec where
  entry : Entry
  counts : List DWord
  teams : Nat
  pool : Nat
  prio : Nat
  reissue : Bool
  cgate : Option Word
  wgate : Option Word
  trign : Nat
  /-- Address of the record (R325). -/
  addr : Nat
  deriving DecidableEq, Repr

/-- A record in a launch queue. -/
structure QRec where
  rec' : LaunchRec
  /-- The wait gate has not fired (R323, R330). -/
  waits : Bool
  /-- An indirect count meets a replayable outcome at this address (R325). -/
  page : Option Nat := none
  deriving DecidableEq, Repr

/-! ### Lanes and splits -/

/-- The state of one lane (Tables 5.1, 5.2). -/
structure Lane where
  /-- The lane has not exited (R83, R99). -/
  live : Bool := true
  v : Vector Word 256 := Vector.replicate 256 0
  p : BitVec 7 := 0
  h : Vector Word 8 := Vector.replicate 8 0
  evid : Word := 0
  time : DWord := 0
  entity : Word := 0
  tie : BitVec 16 := 0
  round : Word := 0
  key : Word := 0
  /-- Lane slice, link area included (R146). -/
  slice : Ram := {}
  /-- The event that the lane runs; none for a kernel lane. Its order key, and the die that dispatched it (R294, R306). -/
  event : Option EvRec := none
  order : Nat := 0
  home : Nat := 0
  deriving DecidableEq, Repr

/-- Wait reasons (Table 5.5). -/
inductive Wait where
  | ready | scoreboard | rejected | join | frame | sync | value | fault | trap | nap | order
  deriving DecidableEq, Repr

/-- WAIT code of Table 5.4. -/
def Wait.code : Wait → BitVec 4
  | .ready => 0 | .scoreboard => 1 | .rejected => 2 | .join => 3 | .frame => 4 | .sync => 5 | .value => 6
  | .fault => 7 | .trap => 8 | .nap => 9 | .order => 10

/-- A fault as raised: code, level (Table 7.5), trap window values and the fault record's ADDR (R152, R445). -/
structure Cause where
  code : Nat
  level : Nat := 0
  pc : Pc := 0
  j2 : Word := 0
  j3 : Word := 0
  addr : Nat := 0
  /-- The faulting lanes. -/
  lanes : Mask := 0
  /-- FLAGS bit 3: SLOTS holds an index. -/
  index : Option Nat := none
  /-- FLAGS bit 4 (R236). -/
  noDiag : Bool := false
  resume : Pc := 0
  deriving DecidableEq, Repr

/-- The forms of `gbar` (R227). -/
inductive BarOp where
  | arrive | wait | sync
  deriving DecidableEq, Repr

/-- What a waiting split waits for, beside its reason. -/
inductive Block where
  | none
  /-- A gang barrier's phase to change: `.wait`, or the second half of `.sync` (R228). -/
  | gbarPhase (b : Nat)
  /-- The team's earlier arrival at the barrier to complete; then the form is executed (R228). -/
  | gbarArrived (b : Nat) (op : BarOp)
  /-- The other splits of the team have not executed the barrier (R228); then `.sync` waits. -/
  | gbarTeam (b : Nat)
  /-- A `wait` whose words are below their thresholds (R174). -/
  | value (x : MemOp)
  | tsync
  | regroup
  /-- An exchange, with the contributing lanes (R234). -/
  | xshuf (lanes : Mask)
  /-- `yield.done` with its label (R332). -/
  | yieldDone (target : Pc)
  /-- Replayable translation outcomes (R259): each lane's slot, its address, and the address whose page failed; what
  MARK_FAULT_FATAL raises. -/
  | page (kind : AccKind) (cause : Cause) (lanes : List (Nat × Nat × Nat))
  /-- Page walks of the split's batch to end (R262). -/
  | walks
  /-- Responses of the instruction's requests to other packages (R380, R401). What it does then: the scope and words of
  its acquire; its lanes, where a fault is every one's; lanes that read poison, with their addresses. -/
  | reply (acquire : Option (Nat × List Nat)) (lanes : Option Mask) (bad : List (Nat × Nat))
  /-- The steps of a `route`'s allocation, kept with its command (R410). -/
  | routing (cmd : Nat)
  /-- Queue elements to arrive (R192). -/
  | element
  /-- The instruction cannot issue yet: a register of the team is in use (R87, R108, R206), or the walk of its page finds
  the queue full (R262). -/
  | issue
  /-- A held trap (R90), and further ones that became due with it (R442). -/
  | held (cause : Cause) (more : List Cause)
  /-- The acknowledgement of every die (R320, R364 to R366). -/
  | acks
  /-- A `post` or `gate`, or with no start a `cancel` or `signal`, that stalls since a cycle: j2 of EVENT_OVERFLOW, the
  contributing lanes, H as the instruction read it when it issued (R314, R315, R342). -/
  | stalled (j2 : Word) (start : Option Nat) (lanes : Mask) (h : DWord)
  /-- A `launch` that has passed its checks, with its queue: its wait gate is attached, and the record waits for the
  release and for room (R330). -/
  | launching (r : QRec) (q : Nat)
  deriving DecidableEq, Repr

/-- The mark of a trap handler (R152, R153, R334). -/
structure TrapMark where
  /-- Recorded resume PC. -/
  resume : Pc
  /-- j1 as delivered. -/
  given : Word
  /-- The recorded frame. -/
  join : Pc
  creator : Nat
  lap : BitVec 8
  faulting : Mask
  /-- Set by PREEMPT (R334): `tret` is then illegal. -/
  preempt : Bool := false
  /-- Faults that became due with the one delivered: held until the handler returns (R442). -/
  more : List Cause := []
  deriving DecidableEq, Repr

/-- "No entry" (R91). -/
def noEntry : Nat := 0x1FFF

/-- Queue values of the source fields A, B and C. -/
structure Pops where
  a : List (Nat × Word) := []
  b : List (Nat × Word) := []
  c : List (Nat × Word) := []
  deriving DecidableEq, Repr

/-- A split-table entry (Tables 5.3, 5.4). -/
structure Split where
  id : Nat := 0
  mask : Mask := 0
  pc : Pc := 0
  join : Pc := 0
  creator : Nat := noEntry
  lap : BitVec 8 := 0
  dem : Bool := false
  wait : Wait := .ready
  /-- Frame record. -/
  record : Bool := false
  /-- Held in the split-spill area (R100). -/
  spilled : Bool := false
  /-- The `join` at which the split waits is `join.any` (R97). -/
  joinAny : Bool := false
  /-- The transfer whose target has not been fetched: PC of the transferring instruction (R145). -/
  check : Option Pc := none
  /-- The team's entry PC has not been fetched (R25, R444). -/
  fresh : Bool := false
  trap : Option TrapMark := none
  block : Block := .none
  /-- Cycle at which a nap ends (R150). -/
  napUntil : Nat := 0
  /-- Mask words, or slots of a `post` or `gate`, below this number are done (R182, R317, R318); lanes of later words
  that a request of a word already done has served (R401). -/
  accepted : Nat := 0
  ahead : Mask := 0
  /-- Lanes that met an error of the unified store where they read a register, and the PC of the instruction (R264): they do
  not take part in it, and raise POISON after it. -/
  regBad : Mask × Pc := (0, 0)
  /-- Lanes of accepted passes that read poison (R179). -/
  poisoned : Mask := 0
  /-- A poisoned lane met an error of the unified store (R264). -/
  unified : Bool := false
  /-- A lane of an accepted pass failed (R104, R173). -/
  failed : Bool := false
  /-- Lanes whose access could not be performed: slot, address, code (R380). -/
  lost : List (Nat × Nat × Nat) := []
  /-- The instruction that has issued and is not complete (R87, R108), and what its queues gave it (R191). -/
  op : Option Instr := none
  pops : Option Pops := none
  /-- Slot, address and threshold of a `wait` as it read them at issue (R30, R174). -/
  src : List (Nat × Nat × Nat) := []
  /-- Lines of the instruction's accesses while they are issued and not performed (R184, R186, R260); those of a `fence`
  that is not complete are all (R363). -/
  holds : List Nat := []
  /-- The step at which the instruction issued first; it issues again once what it waits for has come about. -/
  issuedAt : Nat := 0
  again : Bool := false
  /-- The step at which a core last let it try again. -/
  tried : Nat := 0
  /-- Pages whose walk has ended for the instruction (R262). -/
  walked : List Nat := []
  /-- Miss entries, and walk requests, that the rejected pass needs (R182, R183, R262). -/
  needEntries : Nat := 0
  needWalks : Nat := 0
  /-- Barriers executed since the team's last arrival, bit b (R228). -/
  gbarDone : BitVec 16 := 0
  /-- Since when the split has waited: the order that R90 and R100 ask for. -/
  since : Nat := 0
  deriving DecidableEq, Repr

/-! ### Results in flight -/

/-- One register write. Slot `none`: a register of the team. -/
structure RegWrite where
  slot : Option Nat
  reg : Operand
  val : Word
  deriving DecidableEq, Repr

/-- Which step lands a result. -/
inductive LandKind where
  | miss | loc | special | mma
  deriving DecidableEq, Repr

/-- A long-latency instruction whose results have not reached their registers (R30, R106). -/
structure Landing where
  id : Nat
  split : Nat
  kind : LandKind
  /-- Instructions of the shadow that are left. -/
  look : Nat
  writes : List RegWrite
  flags : BitVec 4 := 0
  /-- Miss entries held, one per line (R181). -/
  lines : List Nat := []
  /-- Contributing lanes of an `mma` (R445). -/
  lanes : Mask := 0
  /-- PC of the instruction, and the step at which it issued (R217). -/
  pc : Pc := 0
  at' : Nat := 0
  deriving DecidableEq, Repr

/-! ### Streams (R189 to R195) -/

/-- The outcome of loading one element: a value, a failure, or a replayable translation outcome at an address. -/
inductive ElemLoad where
  | val (w : Word)
  | failed
  | replay (va : Nat)
  deriving DecidableEq, Repr

/-- A run-ahead element of one slot (R192, R194). -/
structure QElem where
  n : Nat
  slot : Nat
  load : ElemLoad
  deriving DecidableEq, Repr

/-- An operand queue: stream descriptor, position and run-ahead elements. -/
structure Stream where
  active : Bool := false
  base : Nat := 0
  lstride : Int := 0
  stride1 : Int := 0
  count1 : Nat := 1
  stride2 : Int := 0
  elem : Nat := 0
  space : Space := .glb
  pos : Word := 0
  queued : List QElem := []
  /-- Pages whose walk has ended for the run-ahead (R262). -/
  walked : List Nat := []
  deriving DecidableEq, Repr

/-! ### Weight planes -/

/-- The weight planes of one pair (R209 to R218). -/
inductive PlaneState where
  | empty | loaded | lost
  deriving DecidableEq, Repr

structure Plane where
  state : PlaneState := .empty
  /-- FMTB of the descriptor that filled it, K and the scale flag (R210, R211). -/
  fmtB : Nat := 0
  kdim : Nat := 0
  scaled : Bool := false
  /-- Element codes, row k then column n. -/
  tile : List (List Nat) := []
  scales : List Nat := []
  /-- Rows whose parity is wrong, and whether that of the scale block is (R216). -/
  badRows : List Nat := []
  badScales : Bool := false
  deriving DecidableEq, Repr

structure PlanePair where
  /-- Team that holds the pair. -/
  owner : Option Nat := none
  active : Plane := {}
  shadow : Plane := {}
  /-- The plane of a `wload` in flight (R211). -/
  loading : Option Plane := none
  deriving DecidableEq, Repr

/-! ### Teams -/

/-- Where a team stands in its life (R332, R336). -/
inductive TeamStatus where
  | resident | saved | parked
  /-- Stopped by `brk` without a trap label (R154). -/
  | held
  deriving DecidableEq, Repr

/-- A pre-emption asked for and not complete (R333 to R335). -/
structure PreemptState where
  /-- PREEMPT has been delivered. -/
  delivered : Bool := false
  /-- Cycle of the deadline. -/
  due : Nat := 0
  cycles : Nat := 0
  deriving DecidableEq, Repr

structure Team where
  /-- %team; with the package the key of the team (R82). -/
  id : Word := 0
  pkg : Nat := 0
  /-- Core id in the package, 0 to 511 (R10). -/
  core : Nat := 0
  ctx : Nat := 0
  entry : Entry := {}
  /-- Handler index of an event team. -/
  handler : Option (BitVec 12) := none
  /-- Launch, gang and rank of a kernel team. -/
  launch : Option Nat := none
  gang : Option Nat := none
  rank : Nat := 0
  lanes : List Lane := []
  s : Vector Word 64 := Vector.replicate 64 0
  k : Vector Word 256 := Vector.replicate 256 0
  j : Vector Word 4 := Vector.replicate 4 0
  fstat : BitVec 4 := 0
  /-- Split-table entries in round-robin order (R103). -/
  splits : List Split := []
  /-- Splits with a held trap, in the order raised (R90). -/
  held : List Nat := []
  landings : List Landing := []
  nextLanding : Nat := 0
  /-- Registers, and spilled entries, with an uncorrectable error of the unified store (R264). -/
  badRegs : List Nat := []
  f : Vector Stream 4 := Vector.replicate 4 {}
  scratch : Ram := {}
  /-- Weight-plane pair held (R207); while the team is saved, its planes (R218). -/
  plane : Option Nat := none
  savedPlanes : PlanePair := {}
  /-- The constant table has been read into k (R88, R444). -/
  constLoaded : Bool := true
  /-- Priority class (R165, R307). -/
  prio : Nat := 0
  /-- Order of placement (R165). -/
  age : Nat := 0
  /-- Since which cycle the team has been a candidate without issuing (R165). -/
  waiting : Option Nat := none
  /-- Rejections counted (R183). -/
  rejections : Nat := 0
  /-- In the reservation queue since (R183). -/
  reserved : Option Nat := none
  /-- Sample latched by `clock` (R346). -/
  clock : Option DWord := none
  /-- Package cycle at which the present residence began; cycles of earlier ones (R344). -/
  placedAt : Nat := 0
  resident : Nat := 0
  /-- Metered picojoules (R338). -/
  metered : Nat := 0
  triggered : Bool := false
  /-- Commands of the team that wrote a fault record, and the elements that failed (R286, R344). -/
  scribeFaults : Nat := 0
  /-- Elements entered by the team so far, and those that failed (R407). -/
  elemFaults : Nat := 0
  preempt : Option PreemptState := none
  /-- A forced save waits for accesses or commands; the team issues nothing (R336). -/
  saving : Bool := false
  status : TeamStatus := .resident
  /-- A saved team was stopped by `brk` (R154). -/
  wasHeld : Bool := false
  /-- Label of `yield.done` at which a parked team resumes (R332). -/
  resumeAt : Pc := 0
  /-- Cycle at which the timer of a waiting `tsync` started (R235). -/
  timer : Option Nat := none
  deriving DecidableEq, Repr

/-! ### Cores and clusters -/

/-- A line of L1 (R160, R187). -/
structure L1Line where
  /-- Physical line number. -/
  pa : Nat
  /-- Mappings through which it has been reached: context and virtual line number (R358). -/
  maps : List (Nat × Nat) := []
  data : Mem := []
  /-- Sectors that hold the home's bytes. -/
  valid : BitVec 4 := 0
  dirty : BitVec 128 := 0
  /-- 64-bit words with an uncorrectable error (R264). -/
  bad : BitVec 16 := 0
  deriving DecidableEq, Repr

/-- A line of an instruction cache. -/
structure ILine where
  ctx : Nat
  va : Nat
  pa : Nat
  bytes : List Byte
  deriving DecidableEq, Repr

/-- A translation held by a TLB (R261). -/
structure TlbEntry where
  ctx : Nat
  /-- Virtual page number at the leaf's level. -/
  page : Nat
  level : Nat
  pte : DWord
  deriving DecidableEq, Repr

/-- A team that has arrived at a regroup (R197). -/
structure RegroupArrival where
  team : Nat
  split : Nat
  /-- The register that receives the lane's slot, and the register with the key. -/
  dst : BitVec 8
  keyReg : BitVec 8
  deriving DecidableEq, Repr

/-- A regroup in progress on a core (R197 to R204). -/
structure Regroup where
  ctx : Nat
  handler : Option (BitVec 12)
  launch : Option Nat
  gang : Option Nat
  /-- Teams, by key, fixed at the first arrival. -/
  participants : List Nat
  arrivals : List RegroupArrival := []
  /-- Cycle of the first arrival (R204). -/
  started : Nat
  /-- Relocation has started, with N_max (R199). -/
  nmax : Option Nat := none
  /-- Participants that have not arrived abort with this j2 when they do (R201). -/
  aborted : Option Nat := none
  deriving DecidableEq, Repr

structure Core where
  /-- Global core number, package × 512 + core id. -/
  id : Nat
  l1 : List L1Line := []
  icache : List ILine := []
  tlb : List TlbEntry := []
  /-- Poster sequence number (R294). -/
  seq : DWord := 0
  planes : List PlanePair := []
  regroups : List Regroup := []
  /-- The model's own: the core's last turn went to a split that tried again (notes/assumptions/3). -/
  retried : Bool := false
  deriving DecidableEq, Repr

/-- A gang barrier (R226). A rank's last arrival is in a phase not completed exactly when its flag is set. -/
structure Barrier where
  phase : Bool := false
  count : Nat := 0
  arrived : BitVec 16 := 0
  /-- Cycle of the phase's first arrival (R235). -/
  timer : Option Nat := none
  deriving DecidableEq, Repr

/-- A gang (R224 to R226). -/
structure Gang where
  id : Nat
  ctx : Nat
  launch : Nat
  index : Nat
  pkg : Nat
  /-- Global cluster number, core number / 4. -/
  cluster : Nat
  expected : Nat
  barriers : List Barrier := []
  /-- Declared pool bytes (R221) and the pool. -/
  poolSize : Nat := 0
  pool : Ram := {}
  triggers : Nat := 0
  /-- %team of the teams that have triggered (R331). -/
  triggeredBy : List Word := []
  /-- It has triggered or retired, counted once (R331, R371). -/
  counted : Bool := false
  /-- It holds a position on its cluster: it is not saved. -/
  placed : Bool := true
  log2bar : Nat := 20
  /-- Estimate debited at dispatch (R338). -/
  estimate : Nat := 0
  deriving DecidableEq, Repr

end Sys2Proof.Machine
end

