-- ==== Sys2Proof/Machine/SysTypes.lean ====
section
/-! DEFINITION. The parts of the state above the core: contexts, dies and packages. -/
namespace Sys2Proof.Machine

/-! ### Contexts -/

/-- A handler-table entry that was written (Table 16.3). Its fields are held whether VALID is set or not. -/
structure HEntry where
  index : BitVec 12
  valid : Bool := true
  entry : Entry
  deriving DecidableEq, Repr

/-- The event control block (Table 16.4). -/
structure Control where
  stop : DWord := 0xFFFFFFFFFFFFFFFF
  lookahead : Word := 1
  calw : Nat := 4
  hold : Bool := true
  deepLim : Nat := 256
  /-- It was written by `hset` at least once (Table 19.9). -/
  written : Bool := false
  deriving DecidableEq, Repr

/-- A programmable scope entry that was written (Table 19.2). -/
structure ScopeEntry where
  index : Nat
  pkgMask : BitVec 512
  coreMask : BitVec 512
  deriving DecidableEq, Repr

/-- A valid binding entry (Table 19.5). -/
structure Binding where
  index : Nat
  base : Nat
  len : Nat
  word : Nat
  deriving DecidableEq, Repr

/-- A route-table entry with VALID set (Table 21.8), as its 32 bytes. -/
structure RouteEntry where
  index : Nat
  image : List Byte
  deriving DecidableEq, Repr

/-- A fault record (Table 7.4). -/
structure FaultRec where
  code : Nat
  level : Nat
  ctx : Nat
  flags : BitVec 8
  core : Nat
  pkg : Nat
  team : Word
  slots : Word
  pc : DWord
  addr : DWord
  event : Option EvRec := none
  deriving DecidableEq, Repr

/-- Why a context ended (R236, R372, R425, R432). -/
inductive EndReason where
  | running | barrierTimeout | dieLost | contextLost | driver | thermal
  deriving DecidableEq, Repr

/-- State of a context (Table 1.2) that is the same on all of its packages. -/
structure Ctx where
  /-- One id for each context of the fabric; its number on its packages, 0 to 63, is id mod 64 (R12). -/
  id : Nat
  /-- Packages with their compute dies occupied, in increasing order (R296). -/
  places : List (Nat × List Nat)
  ptRoot : Nat := 0
  diag : Nat := 0
  diagPos : Nat := 0
  saveArea : Nat := 0
  /-- Cost of each class in pJ (Table 17.4). -/
  classTable : List Nat := []
  /-- Blotter age threshold in nanoseconds (R391). -/
  ageNs : Nat := 2000
  /-- Pre-emption deadline in cycles (R335). -/
  deadline : Nat := 75000
  handlers : List HEntry := []
  control : Control := {}
  scopes : List ScopeEntry := []
  binds : List Binding := []
  routes : List RouteEntry := []
  faultQ : List FaultRec := []
  lost : Bool := false
  /-- The last failure of a launch of the driver, as reported to it: code and j2 (R424). -/
  hostAnswer : Option (Nat × Word) := none
  short : DWord := 0
  routeOverflow : DWord := 0
  /-- H at the root package (R302). -/
  hRoot : DWord := 0
  /-- Latest report of each package at the root: package and minimum (R301). -/
  reports : List (Nat × Option DWord) := []
  ended : EndReason := .running
  deriving DecidableEq, Repr

/-- A launch of the driver that cannot go on yet: its record once read and checked (R424). -/
structure HostLaunch where
  queue : Nat
  record : Nat
  rec' : Option QRec := none
  deriving DecidableEq, Repr

/-- State of a context on one package. -/
structure CtxPkg where
  ctx : Nat
  pkg : Nat
  allowance : Nat := 0
  newAllowance : Option Nat := none
  budget : Int := 0
  /-- td0 to td63 that were written, as 256-bit values (R205). -/
  tds : List (Nat × BitVec 256) := []
  /-- Launch queues 0 to 15 (R323). -/
  queues : List (Nat × List QRec) := []
  /-- Launches of the driver that wait, oldest first (R424). -/
  hostLaunches : List HostLaunch := []
  /-- Queue served last at each level. -/
  served : List (Nat × Nat) := []
  switchedOut : Bool := false
  /-- The master's last REPORT to the root: its value, CSEQ and cycle (R385). -/
  sent : Option DWord := none
  sentSeq : Word := 0
  sentAt : Nat := 0
  /-- REPORTs not acknowledged: CSEQ and value; and since when none has been. -/
  unacked : List (Word × Option DWord) := []
  openSince : Nat := 0
  /-- Cycle of the root's last REPORT_ACK (R386). -/
  ackedAt : Nat := 0
  deriving DecidableEq, Repr

/-- The level of the Reedbed that a record occupies (Table 16.5); runs of the deep store are numbered. -/
inductive RbLevel where
  | front | calendar
  | run (n : Nat)
  deriving DecidableEq, Repr

/-- A pending record with its order key (R294). -/
structure PRec where
  ev : EvRec
  poster : Nat
  seq : DWord
  level : RbLevel := .front
  /-- %round, fixed when the record becomes eligible (R306). -/
  round : Option Word := none
  deriving DecidableEq, Repr

/-- An open bin (R307). -/
structure Bin where
  handler : BitVec 12
  recs : List PRec
  opened : Nat
  deriving DecidableEq, Repr

/-- State of a context on one die; dies are numbered over the fabric, package × 4 + die. -/
structure CtxDie where
  ctx : Nat
  die : Nat
  /-- Die-scratchpad window in bytes (R252). -/
  winBase : Nat := 0
  winSize : Nat := 0
  /-- Near share in records (R298); the deep-store region of DEEPLIM runs that creation reserved, in bytes (R352). -/
  share : Nat := 0
  deep : Nat := 0
  /-- log2 of the calendar's bucket width in force, and the start of its window (R298, R299). -/
  calw : Nat := 4
  window : Nat := 0
  pending : List PRec := []
  bins : List Bin := []
  frozen : List (BitVec 12) := []
  /-- Largest H held (R302). -/
  h : DWord := 0
  /-- Minimum that the die reported last (R301). -/
  reported : Option DWord := none
  nextEvid : Nat := 0
  /-- Exits whose release has elements outstanding: entity, team, core and PLACE (R305, R361). -/
  exits : List (Word × Nat × Nat × Nat) := []
  deriving DecidableEq, Repr

/-! ### The L2 slices and the walkers of a die (R247 to R250, R261, R262) -/

/-- Stored forms of an L2 line (Table 13.2). -/
inductive L2Form where
  | z | b4d1 | b8d2 | u
  deriving DecidableEq, Repr

/-- A tag of an L2 slice with what it names (R248). The slice and set follow from the line. The bytes are those of the
home copy in `State.mem`: forms change timing and capacity only (R249). -/
structure L2Line where
  /-- Physical line number. -/
  line : Nat
  form : L2Form := .z
  /-- Data entry 0 to 11 of the set, and which half of it; form Z has none, form U takes both halves. -/
  entry : Nat := 0
  upper : Bool := false
  /-- Sectors that HBM does not hold yet. -/
  dirty : BitVec 4 := 0
  deriving DecidableEq, Repr

/-- A page-table entry of a level above the leaves' in the walk cache (R261). -/
structure WalkEntry where
  ctx : Nat
  level : Nat
  /-- VA bits above those that the entry maps. -/
  page : Nat
  pte : DWord
  deriving DecidableEq, Repr

/-- Whose instruction or engine asks for walks. -/
inductive WalkOwner where
  | split (team id : Nat)
  /-- The run-ahead of a queue, and the constant table of a team at its creation. -/
  | queue (team f : Nat)
  | constants (team : Nat)
  /-- A scribe or route command of the die. -/
  | command (id : Nat)
  | route (id : Nat)
  deriving DecidableEq, Repr

def WalkOwner.team : WalkOwner → Option Nat
  | .split t _ | .queue t _ | .constants t => some t
  | _ => none

/-- The walk requests of one instruction (R262). -/
structure WalkBatch where
  owner : WalkOwner
  core : Nat
  ctx : Nat
  kind : AccKind
  /-- Cycle at which the batch entered the queue. -/
  since : Nat
  /-- 4 KiB pages whose walk has not ended, each with whether a walker has taken it. -/
  pages : List (Nat × Bool)
  deriving DecidableEq, Repr

/-- What sends or receives a sector over a crossbar: an L2 slice by physical sector, or a die's scratchpad. -/
inductive FlitPlace where
  | home (sector : Nat)
  | dieRam (die sector : Nat)
  deriving DecidableEq, Repr

/-- An error at a place of Table 13.6, or at one that no check covers (R264, R265): an input of the machine. -/
inductive HwError where
  /-- A word of the unified store: of a lane slice, a scratchpad, a pool, an L1 line; a register; a spilled entry. -/
  | sliceWord (team slot word : Nat)
  | scratchWord (team word : Nat)
  | poolWord (gang word : Nat)
  | l1Word (core line word : Nat)
  | register (team slot : Nat) (r : Operand)
  | spill (team id : Nat)
  /-- Data of an L2 line: the sectors that the error covers. -/
  | l2Data (line : Nat) (sectors : BitVec 4)
  | l2Tag (line : Nat)
  | dieRam (die sector : Nat)
  | hbm (sector : Nat)
  /-- The flit of a reply, or of a write, that carries the place's sector next; an odd error of an arbitration buffer
  has the same effect. -/
  | readFlit (p : FlitPlace)
  | writeFlit (p : FlitPlace)
  /-- Errors that no check finds (R265), with what is delivered. The next reply, or write, of a place's sector: an even error of
  an arbitration buffer, or the decompressor's output. An element of a packet as it is assembled. The next bytes of a die's
  swizzle unit. -/
  | wrongRead (p : FlitPlace) (bytes : List Byte)
  | wrongWrite (p : FlitPlace) (bytes : List Byte)
  | wrongElement (die packet index : Nat) (data : DWord)
  | wrongSwizzle (die : Nat) (bytes : List Byte)
  /-- A single-bit error, corrected in place. -/
  | corrected (die : Nat)
  /-- Parity of an operand queue, of a plane's row or of its scale block. -/
  | queue (team : Nat) (f : BitVec 2)
  | planeRow (core pair : Nat) (shadow : Bool) (row : Nat)
  | planeScales (core pair : Nat) (shadow : Bool)
  /-- A replay of the link of a die to another one of its package fails, or brings its flits. -/
  | dieLink (die other : Nat) (ok : Bool)
  deriving DecidableEq, Repr

/-! ### Dies -/

/-- A gate slot in use (Table 16.9). -/
structure Gate where
  slot : Nat
  record : EvRec
  poster : Nat
  seq : DWord
  count : Int := 0
  published : Bool := false
  ctx : Nat
  /-- A launch record is attached (R330). -/
  attached : Bool := false
  deriving DecidableEq, Repr

/-- Where a formed event team's lanes come from: record with its order key, %evid and %round. -/
structure FormedLane where
  ev : EvRec
  evid : Word
  round : Word
  order : Nat
  deriving DecidableEq, Repr

/-- An event team that waits for a place (R327). -/
structure Formed where
  ctx : Nat
  handler : BitVec 12
  entry : Entry
  prio : Nat
  lanes : List FormedLane
  order : Nat
  deriving DecidableEq, Repr

/-- Kinds of blotter element (Table 21.1). -/
inductive ElemKind where
  | store | reduction | post | cancel | signal
  deriving DecidableEq, Repr

/-- A blotter element with what R397 asks to be known of its source. -/
structure Element where
  kind : ElemKind
  /-- Physical address of the aligned unit; handle of a signal. -/
  addr : Nat := 0
  va : Nat := 0
  w64 : Bool := false
  /-- Byte enables of a store. -/
  be : BitVec 8 := 0
  op : AOp := .add
  ty : AType := .u
  data : DWord := 0
  /-- Record of a post or cancel with its order key. -/
  rec' : Option PRec := none
  /-- Scope entry of a signal. -/
  scope : Nat := 0
  team : Nat
  core : Nat
  lane : Nat
  pc : Pc
  /-- Issued by an instruction; else by an engine (R311). -/
  byLane : Bool := true
  /-- The steps at which its instruction issued and at which it entered its slot (R361, R406). -/
  issued : Nat := 0
  entered : Nat := 0
  deriving DecidableEq, Repr

/-- A bound blotter slot (R389). -/
structure BlotterSlot where
  slot : Nat
  ctx : Nat
  /-- Destination die over the fabric. -/
  dst : Nat
  elems : List Element
  /-- Cycle at which the first element entered. -/
  since : Nat
  /-- Something asks it to depart (R391). -/
  push : Bool := false
  /-- Of elements to be sent again: the number of the packet that they left with first (R393). -/
  order : Nat := 0
  deriving DecidableEq, Repr

/-- A packet that has left and is not acknowledged (R395), with the status of its elements once performed. `order`: the
number with which its elements left first. -/
structure Packet where
  id : Nat
  order : Nat
  slot : Nat
  ctx : Nat
  dst : Nat
  elems : List Element
  /-- Status code of each element: 0 performed, 1 refused, else the failure (R396). -/
  status : Option (List Nat) := none
  /-- Least time of a record for which the root has to accept a report first (R301, R386). -/
  needs : Option DWord := none
  /-- The port that it crossed to another package by (R376), and the step at which its acknowledgement was sent. -/
  port : Option Nat := none
  ackAt : Nat := 0
  deriving DecidableEq, Repr

/-! ### Requests of instructions to other packages (R401 to R404) -/

/-- What a request asks of its home; `ro`: a weak `rld.ro` (R387). -/
inductive ReqKind where
  | read (ro : Bool)
  | atom (op : AOp) (ty : AType)
  | cas
  deriving DecidableEq, Repr

/-- A lane of a request: its addresses, and its operands B and C. -/
structure ReqLane where
  slot : Nat
  va : Nat
  pa : Nat
  b : Nat := 0
  c : Nat := 0
  deriving DecidableEq, Repr

inductive ReqState where
  /-- Not arrived at the home. -/
  | sent
  /-- Performed at the home; the response is on its way. -/
  | performed
  | replied
  | failed (code : Nat)
  deriving DecidableEq, Repr

/-- A request for the lanes of a pass that name one line of another package. -/
structure Request where
  /-- Numbered with the packets of its die. -/
  id : Nat
  team : Nat
  split : Nat
  core : Nat
  ctx : Nat
  dst : Nat
  /-- The step at which it issued. -/
  issued : Nat
  kind : ReqKind
  /-- Bytes of an access, and the destination field. -/
  width : Nat
  reg : Operand
  line : Nat
  lanes : List ReqLane
  state : ReqState := .sent
  /-- What the response brings: each lane's words, none where the lane reads poison; whether a lane of an `rcas` failed. -/
  outs : List (Nat × Option (List Word)) := []
  miss : Bool := false
  /-- The line's bytes and poisoned sectors as a read found them. -/
  bytes : List Byte := []
  bad : List Nat := []
  /-- The port that it crossed by, and the step at which its response was sent. -/
  port : Option Nat := none
  ackAt : Nat := 0
  deriving DecidableEq, Repr

/-! ### Scribe commands (R268 to R288) -/

/-- Scribe operations (Table 14.1). -/
inductive ScribeKind where
  | cpy | tile | gather | scatter | fill
  deriving DecidableEq, Repr

/-- A command that has been issued and is not complete. -/
structure ScribeCmd where
  id : Nat
  kind : ScribeKind
  /-- Issuing team: its key and %team; core number over the fabric; context; gang; PC of the instruction. -/
  team : Nat
  teamId : Word
  core : Nat
  ctx : Nat
  gang : Option Nat
  pc : Pc
  add : Bool
  strict : Bool
  value : Nat
  /-- Offset of the completion word. -/
  compl : Option Nat
  /-- Spaces with their base addresses; in `.die` an address of the die scratchpad. -/
  src : Space × Nat
  dst : Space × Nat
  /-- LEN of `cpy` and `fill`, and the pattern. -/
  len : Nat := 0
  pattern : Word := 0
  /-- Row bytes, ROWS, RSTRIDE and SWZ of the descriptor at issue. -/
  rb : Nat := 0
  rows : Nat := 0
  rstride : Nat := 0
  swz : Bool := false
  /-- Index list, index count and table base. -/
  list : Nat := 0
  count : Nat := 0
  table : Nat := 0
  /-- Elements performed, elements counted at the completion word. -/
  next : Nat := 0
  counted : Nat := 0
  stopped : Bool := false
  /-- The scribe that runs it, 0 to 7. -/
  scribe : Option Nat := none
  /-- A failed element has been recorded; the team's count of such commands has risen (R285, R286). -/
  recorded : Bool := false
  noted : Bool := false
  /-- Address of a replayable outcome for which it waits; pages that the driver marked fatal (R259). -/
  page : Option Nat := none
  fatal : List Nat := []
  /-- Pages whose walk has ended for the command (R262), and pages that were translated before it started (R411). -/
  walked : List Nat := []
  pages : List (Nat × AccKind × Nat) := []
  /-- Physical lines written (R270). -/
  lines : List Nat := []
  /-- The old scratchpad of a team that is gone, with its declared bytes (R271). -/
  orphan : Option (Ram × Nat) := none
  deriving DecidableEq, Repr

/-! ### Route commands (R408 to R412) -/

/-- What a lane of a `route` asks for (R409). -/
structure RouteLane where
  slot : Nat
  row : Nat
  first : Nat
  second : Option Nat
  weight : Word
  token : Word
  deriving DecidableEq, Repr

/-- A placed token: its lane, row address, expert with the entry read at issue, choice, receive slot, id and weight. -/
structure RouteToken where
  lane : Nat
  row : Nat
  expert : Nat
  choice : Nat
  buf : Nat
  tags : Nat
  count : Nat
  rowb : Nat
  dpkg : Nat
  index : Nat
  token : Word
  weight : Word
  deriving DecidableEq, Repr

/-- The fields of a valid entry (Table 21.8). -/
structure RouteExpert where
  buf : Nat
  tags : Nat
  count : Nat
  cap : Nat
  rowb : Nat
  dpkg : Nat
  deriving DecidableEq, Repr

/-- An allocation under way: tokens placed, lanes without a place, the choice and the expert that come
next, and the entries as they were read when the checks passed (R408, R410). -/
structure RouteAlloc where
  placed : List RouteToken := []
  left : List RouteLane
  choice : Nat := 0
  next : Nat := 0
  experts : List (Nat × RouteExpert) := []
  deriving DecidableEq, Repr

/-- A packet of a route command. Its header names the source package, the expert, the first slot and the count of the
tokens that follow (R411, R414). -/
structure RoutePacket where
  expert : Nat
  first : Nat
  tokens : List RouteToken
  deriving DecidableEq, Repr

/-- A route command that is not complete. -/
structure RouteCmd where
  id : Nat
  team : Nat
  teamId : Word
  core : Nat
  ctx : Nat
  pc : Pc
  gate : Option Word
  compl : Option Nat
  value : Nat
  /-- Its allocation while that is not complete: the engine does not run it yet. -/
  alloc : Option RouteAlloc := none
  /-- Its packets in the order sent. -/
  packets : List RoutePacket := []
  /-- Pages that its checks translated: virtual page, access, physical address (R411). -/
  pages : List (Nat × AccKind × Nat) := []
  /-- Address of a replayable outcome for which it waits; pages that the driver marked fatal (R259). -/
  page : Option Nat := none
  fatal : List Nat := []
  /-- Pages whose walk has ended for the command (R262). -/
  walked : List Nat := []
  /-- Declared scratchpad bytes of a team that is gone (R271). -/
  orphan : Option Nat := none
  deriving DecidableEq, Repr

/-! ### Rinkway ports (R374 to R382) -/

structure Port where
  /-- Port number, 0 to 31. -/
  no : Nat
  /-- Management has not disabled it (R433). -/
  enabled : Bool := true
  up : Bool := false
  /-- SEQ of the last flit sent, of the last flit received in good order, and of the last ACK received (Table 20.2). -/
  sentSeq : BitVec 16 := 0
  goodSeq : BitVec 16 := 0
  ackSeq : BitVec 16 := 0
  /-- The next flit header sent carries NAK. -/
  nak : Bool := false
  /-- Consecutive resends of the oldest flit, and since when no ACK has advanced (R378). -/
  resends : Nat := 0
  ackAt : Nat := 0
  /-- Flit counters of the two directions (R379). -/
  sent : DWord := 0
  received : DWord := 0
  /-- Keys in use, and the staged ones, per direction (R381, R437). -/
  sendKey : Option LinkKey := none
  recvKey : Option LinkKey := none
  sendStaged : Option LinkKey := none
  recvStaged : Option LinkKey := none
  /-- The key-exchange flit that names the start of the staged key has left, and has arrived. -/
  sendArmed : Bool := false
  recvArmed : Bool := false
  /-- KEY_LOW of each direction has been reported; KEY_EXHAUSTED since a cycle (R381, R382). -/
  sendLow : Bool := false
  recvLow : Bool := false
  exhausted : Option Nat := none
  /-- Flits of the packet at which the counter ran out that had left (R382). -/
  begun : Nat := 0
  /-- SEQ and counter before the packet that is being received; it failed its tag once (R379). -/
  packetSeq : BitVec 16 := 0
  packetCount : DWord := 0
  tagFailed : Bool := false
  deriving DecidableEq, Repr

/-! ### Boot and management (R426 to R437) -/

/-- What is recorded for management, with its level and the port or die. -/
inductive MgmtEvent where
  | tagFailure (port : Nat)
  | keyLow (port : Nat)
  | keyExhausted (port : Nat)
  | dieFenced (die : Nat)
  | thermal
  /-- A flit whose CRC failed, and a tag error of an L2 slice, with the die. -/
  | flitError (die : Nat)
  | tagError (die : Nat)
  deriving DecidableEq, Repr

/-- Level of a management event (R255, R264, R367, R379, R381, R382, R432). -/
def MgmtEvent.level : MgmtEvent → Nat
  | .dieFenced _ | .thermal => 5
  | .flitError _ | .tagError _ => 4
  | _ => 6

/-- The condition of R427 that an image fails. -/
inductive BootFailure where
  | edSignature | mlSignature | edKey | mlKey | rollback
  deriving DecidableEq, Repr

/-- The answer to a management request (Table 24.6). -/
inductive MgmtAnswer where
  | status (tag : Word) (code : Nat)
  | report (tag : Word) (bytes : List Byte)
  deriving DecidableEq, Repr

/-- Boot, management and power state of a package. -/
structure Control24 where
  powered : Bool := false
  /-- Stages whose images passed their check; a stage and the condition that halted boot. -/
  passed : List Nat := []
  halted : Option (Nat × BootFailure) := none
  /-- Measurement registers 0 to 7 (R428). -/
  measures : Vector (BitVec 384) 8 := Vector.replicate 8 0
  /-- Images stored for the next boot, and staging buffers, by stage (R437). -/
  stored : List (Nat × Image) := []
  /-- The images that this boot runs, by stage, where a stored one took effect (R434). -/
  boot : List (Nat × Image) := []
  staging : List (Nat × Mem) := []
  ipv6 : BitVec 128 := 0
  ipv4 : BitVec 32 := 0
  trust : List (BitVec 384) := []
  connected : Bool := false
  /-- The key of the certificate that the device presented on the connection (R435). -/
  presented : Option (BitVec 256) := none
  answer : Option MgmtAnswer := none
  log : List MgmtEvent := []
  /-- Power limit in nJ per window as management set it, a change for the next rollover, thermal steps (R431, R432). -/
  limit : Nat := 2400000000
  newLimit : Option Nat := none
  cuts : Nat := 0
  /-- The highest sensor reading taken last (R432, R433). -/
  celsius : Nat := 0
  /-- Key timeout in cycles as management has set it, 1 ms to 10 s (R382). -/
  keyTimeout : Nat := Config.keyTimeout
  deriving DecidableEq, Repr

/-- Kinds of critical message (Table 20.3). -/
inductive CritKind where
  | report | reportAck | horizon | elect
  deriving DecidableEq, Repr

/-- One copy of a critical message on its way between packages (R383). -/
structure CritMsg where
  id : Nat
  src : Nat
  dst : Nat
  /-- The die of the source package through which it leaves. -/
  via : Nat := 0
  kind : CritKind
  ctx : Nat
  cseq : Word
  /-- None under the NONE flag. -/
  value : Option DWord
  deriving DecidableEq, Repr

/-- A pending arrival at the exchange unit (R234). -/
structure XArrival where
  team : Nat
  split : Nat
  tag : BitVec 8
  dst : BitVec 8
  src : BitVec 8
  lanes : Mask
  look : Nat := 0
  /-- Cycle at which its timer started (R235). -/
  since : Nat := 0
  deriving DecidableEq, Repr

/-- A launch in progress (R325 to R331). -/
structure Launch where
  id : Nat
  ctx : Nat
  pkg : Nat
  rec' : LaunchRec
  x : Nat
  y : Nat
  z : Nat
  /-- Unplaced gangs of each die: die, first index, one past the last; a die can have several ranges (R371). -/
  parts : List (Nat × Nat × Nat)
  /-- Gang indices that have triggered or retired, and the triggers counted for gangs that a lost die held (R331,
  R371). -/
  counted : List Nat := []
  triggers : List (Nat × Nat) := []
  signalled : Bool := false
  /-- Ended teams whose release has elements outstanding, with their dies (R331, R361). -/
  releases : List (Nat × Nat) := []
  deriving DecidableEq, Repr

end Sys2Proof.Machine
end

