-- ==== Sys2Proof/Machine/State.lean ====
section
/-! DEFINITION. The machine's state as plain data, the reasons a step can stop, and the state after reset. -/
namespace Sys2Proof.Machine

/-- A compute die, numbered over the fabric: package × 4 + die. -/
structure Die where
  id : Nat
  /-- Die scratchpad (R252). -/
  ram : Ram := { grain := 32 }
  tlb : List TlbEntry := []
  /-- Lines held by its L2 slices (R248). -/
  l2 : List L2Line := []
  /-- The walk cache and the walk queue (R261, R262). -/
  walkCache : List WalkEntry := []
  walks : List WalkBatch := []
  /-- Failed replays of its links to other dies since one succeeded, by die (R264, R367). -/
  replays : List (Nat × Nat) := []
  /-- Errors corrected in place: for management (R264). -/
  corrected : Nat := 0
  /-- Bytes that the scribes' swizzle unit delivers next in place of the right ones (R265). -/
  wrongSwizzles : List (List Byte) := []
  gates : List Gate := []
  formed : List Formed := []
  xshuf : List XArrival := []
  /-- Bound blotter slots (R389), the resend store (R395), and the next packet's number. -/
  blotters : List BlotterSlot := []
  packets : List Packet := []
  nextPacket : Nat := 0
  /-- Requests of instructions to other packages, until their instruction is complete (R404). -/
  requests : List Request := []
  /-- Elements refused (R393), to be sent again before anything else for their triple. -/
  resend : List BlotterSlot := []
  /-- Scribe commands issued and not complete, oldest first, and the number of the next (R268). -/
  cmds : List ScribeCmd := []
  nextCmd : Nat := 0
  /-- Route commands that are not complete, and the number of the next (R409). -/
  routes : List RouteCmd := []
  nextRoute : Nat := 0
  fenced : Bool := false
  /-- Package cycle of the last heartbeat (R367). -/
  beat : Nat := 0
  deriving DecidableEq, Repr

/-- A cluster, numbered core number / 4 (R261). -/
structure Cluster where
  id : Nat
  tlb : List TlbEntry := []
  deriving DecidableEq, Repr

structure Pkg where
  id : Nat
  /-- Free-running cycle counter (R346). -/
  cycle : Nat := 0
  master : Nat := 0
  nextTeam : Word := 0x40
  /-- Order of placements and of formed work (R165, R327). -/
  nextAge : Nat := 0
  /-- Cycle at which the present energy window began (R338). -/
  window : Nat := 0
  /-- Last CSEQ sent to, and accepted from, each package (R384). -/
  sentSeq : List (Nat × Word) := []
  seenSeq : List (Nat × Word) := []
  /-- Rinkway ports that have been used (R374). -/
  ports : List Port := []
  /-- The master is fenced and no election has ended (R369). -/
  electing : Bool := false
  ctl : Control24 := {}
  deriving DecidableEq, Repr

/-- The instruction that is executing: team, split, PC and word. -/
structure Issue where
  /-- Core that took the last issue turn. -/
  core : Nat := 0
  team : Nat := 0
  split : Nat := 0
  pc : Pc := 0
  word : Insn := 0
  /-- Lanes that do not take part: they met an error of the unified store (R264). -/
  except : Mask := 0
  deriving DecidableEq, Repr

structure State where
  /-- The model's own: the instruction in execution (notes/assumptions/2). -/
  cur : Issue := {}
  /-- The model's own: steps of the device that happen next, in order (notes/assumptions/3). -/
  inbox : List Instr := []
  /-- The model's own: cores in the order in which they take issue turns (notes/assumptions/3). -/
  turns : List Nat := []
  /-- The model's own: the counter that free values are drawn with (notes/assumptions/4). -/
  tick : Nat := 0
  /-- The home copy of every byte of the 48-bit physical space, in the home L2 slice or in HBM (R246, R247). -/
  mem : Mem := []
  /-- Poisoned 32-byte sectors of the home copies, and of HBM underneath them (R179, R250). -/
  poison : List Nat := []
  hbmPoison : List Nat := []
  /-- Sectors whose next reply, or whose next write, has a bad flit (R255). -/
  badReplies : List FlitPlace := []
  badWrites : List FlitPlace := []
  /-- Sectors whose next reply, or whose next write, a soft error changes unseen, with the bytes that arrive (R265). -/
  wrongReplies : List (FlitPlace × List Byte) := []
  wrongWrites : List (FlitPlace × List Byte) := []
  /-- Errors that the coming steps meet, step by step: an input (notes/assumptions/32). -/
  errors : List (List HwError) := []
  pkgs : List Pkg := []
  dies : List Die := []
  clusters : List Cluster := []
  cores : List Core := []
  ctxs : List Ctx := []
  ctxPkgs : List CtxPkg := []
  ctxDies : List CtxDie := []
  teams : List Team := []
  gangs : List Gang := []
  launches : List Launch := []
  /-- Copies of critical messages between packages, and the number of the next (R383). -/
  crit : List CritMsg := []
  nextCrit : Nat := 0
  deriving DecidableEq, Repr

/-- Reasons a step stops with a fault. The manual's faults are traps and records, which are next states. -/
inductive Fault where
  /-- Raised by no step: the faults of the manual are delivered, held or recorded (R152, R156). Safe. -/
  | unreachable
  deriving DecidableEq, Repr

/-- Reasons a step is refused. -/
inductive Refusal where
  /-- Raised by the dispatcher for an instruction without a meaning. Safe. -/
  | notModelled (mnemonic : String)
  /-- Raised by an encoded instruction executed while no split is executing; `step` never does that. Safe. -/
  | noExecutingSplit
  deriving DecidableEq, Repr

/-- The machine right after reset: no context, no team, every list of things that are created is empty, and every
part not listed has the values that its structure states. -/
def State.reset : State := {}

end Sys2Proof.Machine
end

