-- ==== Sys2Proof/Machine/Base.lean ====
section
/-! DEFINITION. Operations over byte memories, tables, masks, registers and the split table. -/
namespace Sys2Proof.Machine

/-! ### Byte memories in canonical form -/

/-- The byte at an address; an address not listed reads 0 (notes/assumptions/5). -/
def Mem.get : Mem → Nat → Byte
  | [], _ => 0
  | (k, b) :: m, a => if k = a then b else if k < a then Mem.get m a else 0

/-- Writes one byte and keeps the form: rising addresses, no zero byte listed. -/
def Mem.set : Mem → Nat → Byte → Mem
  | [], a, b => if b = 0 then [] else [(a, b)]
  | (k, c) :: m, a, b =>
    if k < a then (k, c) :: Mem.set m a b
    else if k = a then if b = 0 then m else (a, b) :: m
    else if b = 0 then (k, c) :: m else (a, b) :: (k, c) :: m

/-- Addresses strictly above `lo` and rising, no zero byte. -/
def Mem.wfFrom : Option Nat → Mem → Bool
  | _, [] => true
  | lo, (k, b) :: m => (match lo with | none => true | some l => decide (l < k)) && b != 0 && Mem.wfFrom (some k) m

/-- The canonical form. -/
def Mem.wf (m : Mem) : Bool := Mem.wfFrom none m

/-- `n` bytes from an address up. -/
def Mem.read (m : Mem) (a : Nat) : Nat → List Byte
  | 0 => []
  | n + 1 => m.get a :: Mem.read m (a + 1) n

/-- Writes consecutive bytes. -/
def Mem.write (m : Mem) (a : Nat) : List Byte → Mem
  | [] => m
  | b :: bs => Mem.write (m.set a b) (a + 1) bs

/-- A set of numbers as a rising list. -/
def insertNat (x : Nat) : List Nat → List Nat
  | [] => [x]
  | y :: ys => if x < y then x :: y :: ys else if x = y then y :: ys else y :: insertNat x ys

/-- Units of `g` bytes that `n` bytes at `a` touch. -/
def unitsOf (g a n : Nat) : List Nat :=
  if n = 0 then [] else (List.range ((a + n - 1) / g - a / g + 1)).map (a / g + ·)

/-- Sectors that `n` bytes at `a` touch. -/
def sectorsOf (a n : Nat) : List Nat := unitsOf 32 a n

/-- What is left poisoned once the bytes in `cover` have been written together: units written whole are clean
(R179, R264). -/
def clearUnits (g : Nat) (p cover : List Nat) : List Nat :=
  p.filter fun u => !((List.range g).all fun i => cover.contains (g * u + i))

def Ram.read (r : Ram) (a n : Nat) : List Byte := r.cells.read a n

/-- Whether some unit of the access is poisoned. -/
def Ram.poisoned (r : Ram) (a n : Nat) : Bool := (unitsOf r.grain a n).any r.poison.contains

/-- Writes bytes; what they cover whole is clean. -/
def Ram.write (r : Ram) (a : Nat) (bs : List Byte) : Ram :=
  { r with
    cells := r.cells.write a bs
    poison := if r.poison.isEmpty then [] else clearUnits r.grain r.poison ((List.range bs.length).map (a + ·)) }

def Ram.clear (r : Ram) (cover : List Nat) : Ram := { r with poison := clearUnits r.grain r.poison cover }

def Ram.poisonUnit (r : Ram) (u : Nat) : Ram := { r with poison := insertNat u r.poison }

/-! ### Tables keyed by a number -/

/-- The entry with a key. -/
def getBy (key : α → Nat) (k : Nat) : List α → Option α
  | [] => none
  | x :: xs => if key x = k then some x else getBy key k xs

/-- Replaces the entry with the same key, or adds it. -/
def putBy (key : α → Nat) (x : α) : List α → List α
  | [] => [x]
  | y :: ys => if key y = key x then x :: ys else y :: putBy key x ys

/-- Replaces the entry with the same key, where there is one. -/
def setBy (key : α → Nat) (x : α) : List α → List α
  | [] => []
  | y :: ys => if key y = key x then x :: ys else y :: setBy key x ys

def delBy (key : α → Nat) (k : Nat) (l : List α) : List α := l.filter fun x => key x != k

def Team.key (t : Team) : Nat := t.pkg * 2 ^ 32 + t.id.toNat
def Team.coreNo (t : Team) : Nat := t.pkg * 512 + t.core
def Team.dieNo (t : Team) : Nat := t.pkg * 4 + t.core / 128
def Team.clusterNo (t : Team) : Nat := t.pkg * 128 + t.core / 4
/-- The cluster id of a core in its die, and the group of a cluster (R10). -/
def clusterId (core : Nat) : Nat := core / 4 % 32
def clusterGroup (cluster : Nat) : Nat := cluster / 8
def CtxPkg.key (c : CtxPkg) : Nat := c.ctx * 512 + c.pkg
def CtxDie.key (c : CtxDie) : Nat := c.ctx * 2048 + c.die

def State.team? (s : State) (k : Nat) : Option Team := getBy Team.key k s.teams
/-- Replaces a team; a team that has ended stays ended. -/
def State.setTeam (s : State) (t : Team) : State := { s with teams := setBy Team.key t s.teams }
def State.core (s : State) (c : Nat) : Core := (getBy Core.id c s.cores).getD { id := c }
def State.setCore (s : State) (c : Core) : State := { s with cores := putBy Core.id c s.cores }
def State.cluster (s : State) (c : Nat) : Cluster := (getBy Cluster.id c s.clusters).getD { id := c }
def State.setCluster (s : State) (c : Cluster) : State := { s with clusters := putBy Cluster.id c s.clusters }
def State.die (s : State) (d : Nat) : Die := (getBy Die.id d s.dies).getD { id := d }
def State.setDie (s : State) (d : Die) : State := { s with dies := putBy Die.id d s.dies }
def State.pkg (s : State) (p : Nat) : Pkg := (getBy Pkg.id p s.pkgs).getD { id := p }
def State.setPkg (s : State) (p : Pkg) : State := { s with pkgs := putBy Pkg.id p s.pkgs }
def State.ctx? (s : State) (c : Nat) : Option Ctx := getBy Ctx.id c s.ctxs
def State.setCtx (s : State) (c : Ctx) : State := { s with ctxs := setBy Ctx.id c s.ctxs }
def State.ctxPkg (s : State) (c p : Nat) : CtxPkg :=
  (getBy CtxPkg.key (c * 512 + p) s.ctxPkgs).getD { ctx := c, pkg := p }
def State.setCtxPkg (s : State) (c : CtxPkg) : State := { s with ctxPkgs := putBy CtxPkg.key c s.ctxPkgs }
def State.ctxDie (s : State) (c d : Nat) : CtxDie :=
  (getBy CtxDie.key (c * 2048 + d) s.ctxDies).getD { ctx := c, die := d }
def State.setCtxDie (s : State) (c : CtxDie) : State := { s with ctxDies := putBy CtxDie.key c s.ctxDies }
def State.gang? (s : State) (g : Nat) : Option Gang := getBy Gang.id g s.gangs
def State.setGang (s : State) (g : Gang) : State := { s with gangs := setBy Gang.id g s.gangs }
def State.launch? (s : State) (l : Nat) : Option Launch := getBy Launch.id l s.launches
def State.setLaunch (s : State) (l : Launch) : State := { s with launches := setBy Launch.id l s.launches }

/-- The package's cycle counter. -/
def State.cycle (s : State) (p : Nat) : Nat := (s.pkg p).cycle

/-- The next value of the counter that free values are drawn with. -/
def State.bump (s : State) : State := { s with tick := s.tick + 1 }

/-! ### Masks (R84) -/

def slotIn (m : Mask) (slot : Nat) : Bool := m.getLsbD slot

/-- Slots of a mask, rising. -/
def maskSlots (m : Mask) : List Nat := (List.range 1024).filter m.getLsbD

def maskOf (l : List Nat) : Mask := l.foldl (fun m i => m ||| (1 <<< i)) 0

/-- Mask word w. -/
def maskWord (m : Mask) (w : Nat) : Word := m.extractLsb' (32 * w) 32

/-- The summary word (R84). -/
def maskSummary (m : Mask) : Word :=
  (List.range 32).foldl (fun acc w => if maskWord m w = 0 then acc else acc ||| (1 <<< w)) 0

/-- The lowest slot. -/
def lowestSlot (m : Mask) : Nat := ((maskSlots m).head?).getD 0

/-! ### Program counters (R23, R33) -/

def pcNext (pc : Pc) : Pc := if pc.extractLsb' 0 3 = 4#3 then (pc &&& ~~~0x3F) + 64 else pc + 1

/-- Line address. -/
def pcLine (pc : Pc) : Pc := pc &&& ~~~0x3F
def pcSlot (pc : Pc) : Nat := (pc.extractLsb' 0 3).toNat

/-- Target of a branch-format instruction at `pc`. -/
def branchTarget (pc : Pc) (off : BitVec 22) (slot : BitVec 3) : Pc :=
  (pcLine pc + (off.signExtend 57 <<< 6)) ||| slot.setWidth 57

/-! ### Registers -/

def Team.lane (t : Team) (slot : Nat) : Lane := (t.lanes[slot]?).getD {}

def setAt (l : List α) (i : Nat) (x : α) : List α := l.set i x

def Team.setLane (t : Team) (slot : Nat) (l : Lane) : Team := { t with lanes := t.lanes.set slot l }

/-- A predicate; p7 reads true. -/
def Lane.pred (l : Lane) (i : BitVec 3) : Bool := i == 7 || l.p.getLsbD i.toNat

def Lane.setPred (l : Lane) (i : BitVec 3) (b : Bool) : Lane :=
  if i = 7 then l else
  let m : BitVec 7 := 1 <<< i.toNat
  { l with p := if b then l.p ||| m else l.p &&& ~~~m }

def guardHolds (l : Lane) (g : Guard) : Bool := g.neg != l.pred g.p

/-- Special registers (Table 5.2). -/
def Team.special (t : Team) (slot : Nat) : Special → Word
  | .slot => BitVec.ofNat 32 slot
  | .team => t.id
  | .lanes => BitVec.ofNat 32 t.lanes.length
  | .evid => (t.lane slot).evid
  | .timeLo => (t.lane slot).time.extractLsb' 0 32
  | .timeHi => (t.lane slot).time.extractLsb' 32 32
  | .entity => (t.lane slot).entity
  | .tie => (t.lane slot).tie.setWidth 32
  | .handler => match t.handler with | some h => h.setWidth 32 | none => 0xFFFFFFFF
  | .round => (t.lane slot).round
  | .core => BitVec.ofNat 32 t.core
  | .cluster => BitVec.ofNat 32 (clusterId t.core)
  | .die => BitVec.ofNat 32 (t.core / 128)
  | .pkg => BitVec.ofNat 32 t.pkg
  | .ctx => BitVec.ofNat 32 (t.ctx % 64)
  | .key => (t.lane slot).key

/-- Register `k` of the group that an operand names, for a slot. IMM8 and queues are given by the reader. -/
def Team.regRead (t : Team) (slot : Nat) (o : Operand) (k : Nat) : Word :=
  match o with
  | .v i => ((t.lane slot).v[i.toNat + k]?).getD 0
  | .s i => (t.s[i.toNat + k]?).getD 0
  | .k i => (t.k[i.toNat + k]?).getD 0
  | .h i => (t.lane slot).h[i.toNat]
  | .j i => t.j[i.toNat]
  | .p i => if (t.lane slot).pred i then 1 else 0
  | .sp r => t.special slot r
  | _ => 0

/-- Writes register `k` of a group. A write to the zero operand is discarded. -/
def Team.regWrite (t : Team) (slot : Nat) (o : Operand) (k : Nat) (w : Word) : Team :=
  match o with
  | .v i => t.setLane slot { t.lane slot with v := (t.lane slot).v.setIfInBounds (i.toNat + k) w }
  | .s i => { t with s := t.s.setIfInBounds (i.toNat + k) w }
  | .k i => { t with k := t.k.setIfInBounds (i.toNat + k) w }
  | .h i => t.setLane slot { t.lane slot with h := (t.lane slot).h.set i.toNat w }
  | .j i => { t with j := t.j.set i.toNat w }
  | .p i => t.setLane slot ((t.lane slot).setPred i (w != 0))
  | _ => t

/-- The operand with its register number advanced: register k of a group. -/
def nthReg (o : Operand) (k : Nat) : Operand :=
  match o with
  | .v i => .v (i + BitVec.ofNat 8 k)
  | .s i => .s (i + BitVec.ofNat 6 k)
  | .k i => .k (i + BitVec.ofNat 8 k)
  | o => if k = 0 then o else .zero

/-- A register as a number: those of a lane with its slot, a bank of 512 for each, then those of the team. p7 is none. -/
def regKey (slot : Nat) : Operand → Option Nat
  | .v i => some (2 ^ 90 + slot * 512 + i.toNat)
  | .p i => if i = 7 then none else some (2 ^ 90 + slot * 512 + 256)
  | .h i => some (2 ^ 90 + slot * 512 + 264 + i.toNat)
  | .s i => some (2 ^ 92 + i.toNat)
  | .k i => some (2 ^ 92 + 2 ^ 10 + i.toNat)
  | .td i => some (2 ^ 92 + 2 ^ 11 + i.toNat)
  | .j i => some (2 ^ 92 + 2 ^ 12 + i.toNat)
  | .f i => some (2 ^ 92 + 2 ^ 13 + i.toNat)
  | _ => none

/-- A register is written: an error of the unified store in it is over (R264). -/
def RegWrite.apply (t : Team) (w : RegWrite) : Team :=
  { t with badRegs := t.badRegs.filter fun k => regKey (w.slot.getD 0) w.reg != some k }.regWrite (w.slot.getD 0) w.reg 0 w.val

def Team.applyWrites (t : Team) (ws : List RegWrite) : Team := ws.foldl RegWrite.apply t

/-! #### Results in flight (R30, R106, R107) -/

/-- One landing reaches its registers; its miss entries are free. -/
def Team.land (t : Team) (l : Landing) : Team :=
  { t.applyWrites l.writes with
    fstat := t.fstat ||| l.flags, landings := t.landings.filter fun m => m.id != l.id }

/-- Landings that satisfy a test reach their registers, in the order of issue. -/
def Team.landWhere (t : Team) (p : Landing → Bool) : Team := (t.landings.filter p).foldl Team.land t

/-- What holds miss entries and brings nothing back: a store, a prefetch, a re-read, a run-ahead load. -/
def Landing.silent (l : Landing) : Bool := l.kind == .miss && l.writes.isEmpty

/-- Results of splits that divide or merge are complete: what follows has no shadow (R30, R107). -/
def Team.landOf (t : Team) (ids : List Nat) : Team := t.landWhere fun l => ids.contains l.split && !l.silent

/-! ### Splits -/

def Team.split? (t : Team) (id : Nat) : Option Split := getBy Split.id id t.splits
def Team.setSplit (t : Team) (x : Split) : Team := { t with splits := setBy Split.id x t.splits }
def Team.delSplit (t : Team) (id : Nat) : Team := { t with splits := delBy Split.id id t.splits }

/-- The lowest id that no entry has (R95). -/
def freeIdFrom (ids : List Nat) : Nat → Nat → Nat
  | 0, i => i
  | n + 1, i => if ids.contains i then freeIdFrom ids n (i + 1) else i
def Team.freeId (t : Team) : Nat := freeIdFrom (t.splits.map Split.id) 8191 0

/-- Puts an entry right after another in round-robin order. -/
def insertAfter (id : Nat) (x : Split) : List Split → List Split
  | [] => [x]
  | y :: ys => if y.id = id then y :: x :: ys else y :: insertAfter id x ys

/-- Entries held on-core. -/
def Team.onCore (t : Team) : Nat := (t.splits.filter fun x => !x.spilled).length
def Team.spilledCount (t : Team) : Nat := (t.splits.filter fun x => x.spilled).length

/-- Of two entries the one that has been waiting longer. -/
def longer (b : Option Split) (x : Split) : Option Split :=
  match b with
  | none => some x
  | some y => if x.since < y.since then some x else some y

/-- The entry that R100 spills: the record with the lowest id, else the split that has been waiting longest, where a
split that waits for no reason but its turn comes after those that wait for one. `keep` stays on-core. -/
def spillChoice (keep : Nat) (l : List Split) : Option Nat :=
  let l := l.filter fun x => !x.spilled && x.id != keep
  match (l.filter Split.record).map Split.id with
  | i :: is => some (is.foldl min i)
  | [] =>
    match (l.filter fun x => x.wait != .ready).foldl longer none with
    | some x => some x.id
    | none => (l.foldl longer none).map Split.id

/-- An entry of the split-spill area as a number, beside those of registers. -/
def spillKey (id : Nat) : Nat := 2 ^ 93 + id

/-- Makes room on-core for the entries above 16 (R100). -/
def spillDown (keep : Nat) (t : Team) : Nat → Team
  | 0 => t
  | n + 1 =>
    if t.onCore ≤ 16 then t
    else match spillChoice keep t.splits with
      | none => t
      | some i =>
        spillDown keep { t with
          splits := t.splits.map fun x => if x.id = i then { x with spilled := true } else x
          badRegs := t.badRegs.filter (· != spillKey i) } n

/-- Room for what a split's instruction adds; the split stays on-core. -/
def Team.makeRoom (t : Team) (keep : Nat) : Team := spillDown keep t t.splits.length

/-- Whether `n` new entries fit (R101). -/
def Team.roomFor (t : Team) (n : Nat) : Bool := decide (t.splits.length + n ≤ 16 + t.entry.splitspill)

/-- Brings an entry on-core before it issues or merges (R100). -/
def Team.bringIn (t : Team) (id : Nat) : Team :=
  match t.split? id with
  | some x => if x.spilled then (t.setSplit { x with spilled := false }).makeRoom id else t
  | none => t

/-- Sends an entry to the end of the round-robin order (R103, R104). -/
def Team.rotate (t : Team) (id : Nat) : Team :=
  match t.split? id with
  | some x => { t with splits := delBy Split.id id t.splits ++ [x] }
  | none => t

/-! #### Reconvergence (R97 to R99) -/

/-- The members of the frame instance of a waiting split. -/
def frameMembers (t : Team) (x : Split) : List Split :=
  t.splits.filter fun y => y.join == x.join && y.creator == x.creator && (x.joinAny || y.lap == x.lap)

/-- Every member is a split that waits with reason 3 at X. -/
def frameReady (t : Team) (x : Split) : Bool :=
  x.wait == .join && x.creator != noEntry &&
    (frameMembers t x).all fun y => !y.record && y.wait == .join && y.pc == x.pc

/-- The merge of R98. M and what is left of the record are on-core (R100). M takes the place in round-robin order of
the first member in that order: R98 says "G's place", and the members can stand at several (notes/assumptions/33). M has the
trap mark of the member that was found waiting, the first in that order: R98 and R153 do not say which mark M has where
members of one frame differ, and a held trap plays no part, since a split that holds one waits with another reason. -/
def mergeFrame (t : Team) (x : Split) : Team :=
  let g := frameMembers t x
  match t.split? x.creator with
  | none => t
  | some c =>
    let mask := g.foldl (fun m y => m ||| y.mask) 0
    let left := c.mask &&& ~~~mask
    let ids := g.map Split.id
    let low := ids.foldl min x.id
    let first := (g.head?.map Split.id).getD x.id
    let m : Split :=
      { id := if left = 0 then c.id else low
        mask := mask, pc := pcNext x.pc, join := c.join, creator := c.creator, lap := c.lap
        trap := x.trap, gbarDone := g.foldl (fun b y => b &&& y.gbarDone) (BitVec.allOnes 16) }
    let placed := t.splits.flatMap fun y =>
      if y.id = first then [m]
      else if ids.contains y.id then []
      else if y.id = c.id then if left = 0 then [] else [{ y with mask := left, spilled := false }]
      else [y]
    ({ t.landOf ids with splits := placed } : Team).makeRoom m.id

/-- Merges until no frame instance is complete. -/
def mergeAll : Nat → Team → Team
  | 0, t => t
  | n + 1, t =>
    match t.splits.find? (frameReady t) with
    | none => t
    | some x => mergeAll n (mergeFrame t x)

def Team.mergeJoins (t : Team) : Team := mergeAll t.splits.length t

/-! #### Division (R95) -/

/-- How many new entries a division takes. -/
structure Division where
  /-- The new frame's join PC; none for siblings in the split's own frame. -/
  frame : Option Pc
  /-- Groups of lanes with their continuation; each with its lap increased or not. -/
  groups : List Split
  deriving DecidableEq, Repr

/-- Gives ids to new entries, lowest free first, in order. -/
def assignIds (t : Team) : List Split → List Split
  | [] => []
  | x :: xs =>
    let x' := { x with id := t.freeId }
    x' :: assignIds { t with splits := t.splits ++ [x'] } xs

/-- The shadows of a split end (R30). -/
def Team.endShadow (t : Team) (id : Nat) : Team :=
  { t with landings := t.landings.map fun l => if l.split = id then { l with look := 0 } else l }

/-- Divides a split. With a frame, the split becomes its record and every group is a new entry; otherwise the first
group stays in the split. The groups come next in round-robin order, as listed. -/
def Team.divide (t : Team) (x : Split) (d : Division) : Team :=
  let others := delBy Split.id x.id t.splits
  match d.frame with
  | some j =>
    let recd : Split := { x with record := true, wait := .frame, pc := j, check := none, dem := false, trap := none }
    let new := assignIds t (d.groups.map fun g => { g with join := j, creator := x.id, trap := x.trap })
    ({ t.landOf [x.id] with splits := new ++ others ++ [recd] } : Team).makeRoom noEntry
  | none =>
    match d.groups with
    | [] => t
    | g :: gs =>
      let keep := { g with id := x.id, join := x.join, creator := x.creator, trap := x.trap }
      let new := assignIds t (gs.map fun g => { g with join := x.join, creator := x.creator, trap := x.trap })
      ({ t.landOf [x.id] with splits := keep :: new ++ others } : Team).makeRoom x.id

/-- New entries that a division needs. -/
def Division.needs (d : Division) : Nat :=
  match d.frame with
  | some _ => d.groups.length
  | none => d.groups.length - 1

/-- Removes lanes from every split and record; empty entries are freed, a spilled record whose mask changes comes back
on-core (R100), and joins are looked at again (R99). -/
def Team.removeLanes (t : Team) (gone : Mask) : Team :=
  let splits := (t.splits.map fun x => { x with
    mask := x.mask &&& ~~~gone
    spilled := x.spilled && !(x.record && x.mask &&& gone != 0) }).filter fun x => x.mask != 0
  let ids := splits.map Split.id
  let t : Team := { t with
    lanes := t.lanes.mapIdx fun i l => if slotIn gone i then { l with live := false, slice := {} } else l
    splits := splits
    held := t.held.filter ids.contains
    landings := t.landings.map fun l => { l with
      look := if ids.contains l.split then l.look else 0
      writes := l.writes.filter fun w => match w.slot with | some i => !slotIn gone i | none => true } }
  (t.makeRoom noEntry).mergeJoins

end Sys2Proof.Machine
end

