-- ==== Sys2Proof/Machine/Codes.lean ====
section
/-! DEFINITION. Fault codes and their levels (25 Table 25.3, Table 7.5). -/
namespace Sys2Proof.Machine

def codeIllegalOpcode : Nat := 0x01
def codeIllegalOperand : Nat := 0x02
def codeIllegalEncoding : Nat := 0x03
def codeIllegalLine : Nat := 0x04
def codeFetchParity : Nat := 0x05
def codeIllegalTarget : Nat := 0x06
def codeMaskPartial : Nat := 0x07
def codeSplitDepth : Nat := 0x08
def codeSoftware : Nat := 0x09
def codeBreakpoint : Nat := 0x0A
def codeDoubleTrap : Nat := 0x0B
def codeTranslation : Nat := 0x10
def codePermission : Nat := 0x11
def codeMisaligned : Nat := 0x12
def codePoison : Nat := 0x13
def codeBounds : Nat := 0x14
def codeWplaneLost : Nat := 0x20
def codeMatrixReset : Nat := 0x21
def codeWplaneParity : Nat := 0x22
def codeFormat : Nat := 0x23
def codeFeedFault : Nat := 0x28
def codeBarrierTimeout : Nat := 0x30
def codeRegroupAbort : Nat := 0x32
def codeScribeFault : Nat := 0x38
def codeEventOverflow : Nat := 0x40
def codeGateFree : Nat := 0x41
def codeHandlerFrozen : Nat := 0x42
def codeRemoteElement : Nat := 0x50
def codeLinkDown : Nat := 0x51
def codeKeyExhausted : Nat := 0x52
def codePreempt : Nat := 0x60
def codeDeadline : Nat := 0x61
def codeDieLost : Nat := 0x62
def codeContextLost : Nat := 0x63
def codeWatchdog : Nat := 0x70

/-- Level of a fault that an instruction raises (Table 25.3). -/
def codeLevel (code : Nat) : Nat :=
  if code = codeMaskPartial ∨ code = codeSplitDepth ∨ code = codeDoubleTrap ∨ code = codeWatchdog then 1
  else if code = codeWplaneLost ∨ code = codeMatrixReset ∨ code = codeWplaneParity ∨ code = codeRegroupAbort then 2
  else if code = codeEventOverflow then 4
  else if code = codeDieLost then 5
  else if code = codeLinkDown then 6
  else 0

end Sys2Proof.Machine
end

