-- ==== Sys2Proof/Machine/Flags.lean ====
section
/-! DEFINITION. Number formats, rounding, the sticky flags, conversions, special functions and the sums of `mma`
(04 R51 to R81). Operands become exact values, results are formed exactly and rounded once (R58). -/
namespace Sys2Proof.Machine

/-! ### Flags and formats -/

/-- Bits [3:0] of FSTAT (Table 4.4). -/
abbrev Flags := BitVec 4
def flagInv : Flags := 1
def flagDz : Flags := 2
def flagOvf : Flags := 4
def flagUnf : Flags := 8

/-- A binary format (Table 4.1). -/
structure Fmt where
  ebits : Nat
  mbits : Nat
  bias : Nat
  maxFin : Nat
  hasInf : Bool
  nan : Nat
  deriving DecidableEq, Repr

def fp32 : Fmt := ⟨8, 23, 127, 0x7F7FFFFF, true, 0x7FC00000⟩
def fp16 : Fmt := ⟨5, 10, 15, 0x7BFF, true, 0x7E00⟩
def bf16 : Fmt := ⟨8, 7, 127, 0x7F7F, true, 0x7FC0⟩
def e4m3 : Fmt := ⟨4, 3, 7, 0x7E, false, 0x7F⟩
def e5m2 : Fmt := ⟨5, 2, 15, 0x7B, true, 0x7C + 3⟩

/-- An exact value: a NaN, an infinity, or (−1)^neg × m × 2^e, zero when m is 0. -/
inductive Ex where
  | nan
  | inf (neg : Bool)
  | fin (neg : Bool) (m : Nat) (e : Int)
  deriving DecidableEq, Repr

/-- The sign bit's place. -/
def Fmt.signBit (f : Fmt) : Nat := 2 ^ (f.ebits + f.mbits)
def Fmt.infBits (f : Fmt) : Nat := (2 ^ f.ebits - 1) * 2 ^ f.mbits
def Fmt.signed (f : Fmt) (neg : Bool) (bits : Nat) : Nat := if neg then f.signBit + bits else bits

/-- The value of a bit pattern (R53). -/
def Fmt.decode (f : Fmt) (x : Nat) : Ex :=
  let neg := x / f.signBit % 2 == 1
  let ef := x / 2 ^ f.mbits % 2 ^ f.ebits
  let fr := x % 2 ^ f.mbits
  if ef = 2 ^ f.ebits - 1 ∧ f.hasInf then if fr = 0 then .inf neg else .nan
  else if ef = 2 ^ f.ebits - 1 ∧ fr = 2 ^ f.mbits - 1 then .nan
  else if ef = 0 then .fin neg fr (1 - f.bias - f.mbits)
  else .fin neg (fr + 2 ^ f.mbits) (ef - f.bias - f.mbits)

/-! ### Rounding (R58, R59) -/

/-- `m` / 2^`s` as an integer, rounded, and whether that is inexact. -/
def roundShift (r : Rnd) (neg : Bool) (m : Nat) (s : Int) : Nat × Bool :=
  if s ≤ 0 then (m * 2 ^ (-s).toNat, false)
  else
    let k := 2 ^ s.toNat
    let q := m / k
    let rem := m % k
    let up := match r with
      | .rne => decide (2 * rem > k) || (decide (2 * rem = k) && q % 2 == 1)
      | .rz => false
      | .rdn => neg && rem != 0
      | .rup => !neg && rem != 0
    (if up then q + 1 else q, rem != 0)

/-- The overflow value of Table 4.3 and R67. -/
def Fmt.overflow (f : Fmt) (r : Rnd) (sat neg : Bool) : Nat :=
  let toInf := match r with
    | .rne => true
    | .rz => false
    | .rdn => neg
    | .rup => !neg
  if toInf && !sat then if f.hasInf then f.signed neg f.infBits else f.nan
  else f.signed neg f.maxFin

/-- Rounds an exact value once and gives OVF and UNF (R58 to R60, R63). -/
def Fmt.round (f : Fmt) (r : Rnd) (sat : Bool := false) (x : Ex) : Nat × Flags :=
  match x with
  | .nan => (f.nan, 0)
  | .inf neg => (if f.hasInf && !sat then f.signed neg f.infBits else f.overflow r sat neg, 0)
  | .fin neg m e =>
    if m = 0 then (f.signed neg 0, 0)
    else
      let top : Int := e + m.log2
      let emin : Int := 1 - f.bias
      let q : Int := max (top - f.mbits) (emin - f.mbits)
      let (mant, inexact) := roundShift r neg m (q - e)
      let bits := (q + f.mbits + f.bias - 1).toNat * 2 ^ f.mbits + mant
      if bits > f.maxFin then (f.overflow r sat neg, flagOvf)
      else (f.signed neg bits, if inexact ∧ top < emin then flagUnf else 0)

/-! ### Exact arithmetic -/

def Ex.isNan : Ex → Bool
  | .nan => true
  | _ => false

def Ex.neg : Ex → Ex
  | .nan => .nan
  | .inf s => .inf (!s)
  | .fin s m e => .fin (!s) m e

def Ex.abs : Ex → Ex
  | .nan => .nan
  | .inf _ => .inf false
  | .fin _ m e => .fin false m e

/-- A signed integer times 2^e. -/
def Ex.ofInt (i : Int) (e : Int) : Ex := .fin (decide (i < 0)) i.natAbs e

def signedNat (neg : Bool) (m : Nat) : Int := if neg then -(m : Int) else m

/-- The exact sum; an exact zero of opposite signs has the sign of Table 4.3. A NaN that neither operand holds is an
invalid operation. -/
def Ex.add (r : Rnd) : Ex → Ex → Ex
  | .nan, _ | _, .nan => .nan
  | .inf s, .inf t => if s = t then .inf s else .nan
  | .inf s, .fin _ _ _ | .fin _ _ _, .inf s => .inf s
  | .fin s m e, .fin t n g =>
    let b := min e g
    let x := signedNat s (m * 2 ^ (e - b).toNat)
    let y := signedNat t (n * 2 ^ (g - b).toNat)
    if x + y = 0 then
      if m = 0 ∧ n = 0 ∧ s = t then .fin s 0 0 else .fin (r == .rdn) 0 0
    else .ofInt (x + y) b

def Ex.mul : Ex → Ex → Ex
  | .nan, _ | _, .nan => .nan
  | .inf s, .inf t => .inf (s != t)
  | .inf s, .fin t n _ | .fin t n _, .inf s => if n = 0 then .nan else .inf (s != t)
  | .fin s m e, .fin t n g => .fin (s != t) (m * n) (e + g)

/-- Order of two values that are not NaN: −0 below +0 when `zeros`, else equal (R61). -/
def Ex.lt (zeros : Bool) : Ex → Ex → Bool
  | .nan, _ | _, .nan => false
  | .inf s, .inf t => s && !t
  | .inf s, .fin _ _ _ => s
  | .fin _ _ _, .inf t => !t
  | .fin s m e, .fin t n g =>
    let b := min e g
    let x := signedNat s (m * 2 ^ (e - b).toNat)
    let y := signedNat t (n * 2 ^ (g - b).toNat)
    decide (x < y) || (zeros && decide (x = y) && m == 0 && s && !t)

def Ex.eq (a b : Ex) : Bool := !a.isNan && !b.isNan && !a.lt false b && !b.lt false a

/-- INV of R63 for an operation: a NaN from operands that are not NaN. -/
def invIf (result : Ex) (operandNan : Bool) : Flags := if result.isNan && !operandNan then flagInv else 0

/-! ### Element operations of 06 Table 6.3 -/

def fAdd (f : Fmt) (r : Rnd) (a b : Ex) : Nat × Flags :=
  let x := a.add r b
  let (bits, fl) := f.round r false x
  (bits, fl ||| invIf x (a.isNan || b.isNan))

def fMul (f : Fmt) (r : Rnd) (a b : Ex) : Nat × Flags :=
  let x := a.mul b
  let (bits, fl) := f.round r false x
  (bits, fl ||| invIf x (a.isNan || b.isNan))

/-- a × b + c with one rounding. R63 leaves INV open where 0 × ∞ meets a NaN c: the model sets it; ∞ − ∞ cannot arise
then (notes/assumptions/37). -/
def fFma (f : Fmt) (r : Rnd) (a b c : Ex) : Nat × Flags :=
  let p := a.mul b
  let x := p.add r c
  let (bits, fl) := f.round r false x
  (bits, fl ||| invIf p (a.isNan || b.isNan) ||| invIf x (a.isNan || b.isNan || c.isNan))

/-- `fmin` and `fmax` (R61). -/
def exMin (a b : Ex) : Ex :=
  match a, b with
  | .nan, y => y
  | x, .nan => x
  | x, y => if y.lt true x then y else x

def exMax (a b : Ex) : Ex :=
  match a, b with
  | .nan, y => y
  | x, .nan => x
  | x, y => if x.lt true y then y else x

def fMin (f : Fmt) (a b : Ex) : Nat × Flags := f.round .rne false (exMin a b)
def fMax (f : Fmt) (a b : Ex) : Nat × Flags := f.round .rne false (exMax a b)

/-- `faddmin` (R125). -/
def fAddMin (f : Fmt) (r : Rnd) (a b c : Ex) : Nat × Flags :=
  let t := a.add r b
  let (bits, fl) := f.round r false (exMin t c)
  (bits, fl ||| invIf t (a.isNan || b.isNan))

/-- a0 × b0 + a1 × b1 + c in FP32 (Table 6.3). R63 leaves INV open where the sum has a NaN of its own beside ∞ − ∞ or
0 × ∞: the model sets it for 0 × ∞ of a product without a NaN, and not for ∞ − ∞ (notes/assumptions/37). -/
def fDot2 (r : Rnd) (a0 b0 a1 b1 c : Ex) : Nat × Flags :=
  let p := a0.mul b0
  let q := a1.mul b1
  let x := (p.add r q).add r c
  let (bits, fl) := fp32.round r false x
  let nan := a0.isNan || b0.isNan || a1.isNan || b1.isNan
  (bits, fl ||| invIf p (a0.isNan || b0.isNan) ||| invIf q (a1.isNan || b1.isNan) ||| invIf x (nan || c.isNan))

/-- a0 + a1 + b. INV is not set for ∞ − ∞ beside a NaN, which R63 leaves open (notes/assumptions/37). -/
def fAdd3 (r : Rnd) (a0 a1 b : Ex) : Nat × Flags :=
  let x := (a0.add r a1).add r b
  let (bits, fl) := fp32.round r false x
  (bits, fl ||| invIf x (a0.isNan || a1.isNan || b.isNan))

/-- `fcmp` (R61, Table 3.12). -/
def fCmp (c : FCond) (a b : Ex) : Bool :=
  let nan := a.isNan || b.isNan
  match c with
  | .eq => !nan && a.eq b
  | .ne => nan || !a.eq b
  | .lt => a.lt false b
  | .le => !nan && !b.lt false a
  | .gt => b.lt false a
  | .ge => !nan && !a.lt false b
  | .num => !nan
  | .nan => nan

/-- `fclass` (Table 6.4): the number of the bit. -/
def fClass (f : Fmt) (x : Ex) : Nat :=
  match x with
  | .nan => 8
  | .inf neg => if neg then 0 else 7
  | .fin neg m e =>
    if m = 0 then if neg then 3 else 4
    else if e + m.log2 < 1 - (f.bias : Int) then if neg then 2 else 5
    else if neg then 1 else 6

/-- `frnd` (R128). -/
def fRnd (f : Fmt) (r : Rnd) (x : Ex) : Nat :=
  match x with
  | .fin neg m e => (f.round r false (.fin neg (roundShift r neg m (-e)).1 0)).1
  | x => (f.round r false x).1

/-! ### LG6 (R55 to R57, R68) -/

/-- T of Table 4.2. -/
def lg6T (q : Int) : Nat :=
  if q % 4 = 0 then 4096 else if q % 4 = 1 then 4871 else if q % 4 = 2 then 5793 else 6889

/-- The value of a code; 0b100000 reads as +0. -/
def lg6Decode (c : Nat) : Ex :=
  let e := c % 32
  if e = 0 then .fin false 0 0
  else .fin (c / 32 % 2 == 1) (lg6T (e - 16)) (Int.fdiv (e - 16) 4 - 12)

/-- Reading 0b100000 is invalid (R55). -/
def lg6Flag (c : Nat) : Flags := if c % 64 = 32 then flagInv else 0

/-- The largest code e with magnitude not above |x|, and whether it is below. -/
def lg6Floor (x : Ex) : Nat :=
  (List.range 32).foldl (fun best e => if e ≠ 0 ∧ !(x.lt false (lg6Decode e)) then e else best) 0

/-- The magnitude half way between two neighbouring codes. -/
def lg6Mid (e : Nat) : Ex := ((lg6Decode e).add .rne (lg6Decode (e + 1))).mul (.fin false 1 (-1))

/-- f32 → lg6 (R68). UNF is never set: LG6 has no smallest normal for R63 to compare with (notes/assumptions/37). -/
def lg6Round (r : Rnd) (x : Ex) : Nat × Flags :=
  match x with
  | .nan => (0, flagInv)
  | .inf neg => ((if neg then 32 else 0) + 31, 0)
  | .fin neg m e =>
    if m = 0 then (0, 0)
    else
      let mag : Ex := .fin false m e
      let lo := lg6Floor mag
      if lo = 31 then
        ((if neg then 32 else 0) + 31, if (lg6Decode 31).lt false mag then flagOvf else 0)
      else
        let exact := !((lg6Decode lo).lt false mag)
        let mid := lg6Mid lo
        let up := !exact && match r with
          | .rne => mid.lt false mag || (!(mag.lt false mid) && lo % 2 == 1)
          | .rz => false
          | .rdn => neg
          | .rup => !neg
        let code := if up then lo + 1 else lo
        (if code = 0 then 0 else (if neg then 32 else 0) + code, 0)

/-! ### Conversions (R65 to R69) -/

def typeFmt : CType → Fmt
  | .bf16 => bf16 | .f16 => fp16 | .e4m3 => e4m3 | .e5m2 => e5m2 | _ => fp32

/-- Width in bits of an element. -/
def typeBits : CType → Nat
  | .f32 | .s32 | .u32 => 32
  | .bf16 | .f16 | .s16 | .u16 => 16
  | .e4m3 | .e5m2 | .s8 | .u8 => 8
  | .lg6 => 6
  | .s64 | .u64 => 64

def typeSigned : CType → Bool
  | .s8 | .s16 | .s32 | .s64 => true
  | _ => false

/-- The signed or unsigned reading of the low `w` bits. -/
def readInt (w : Nat) (sgn : Bool) (x : Nat) : Int :=
  let y := x % 2 ^ w
  if sgn && decide (y ≥ 2 ^ (w - 1)) then (y : Int) - 2 ^ w else y

def intMin (w : Nat) (sgn : Bool) : Int := if sgn then -(2 ^ (w - 1)) else 0
def intMax (w : Nat) (sgn : Bool) : Int := if sgn then 2 ^ (w - 1) - 1 else 2 ^ w - 1
def clampInt (w : Nat) (sgn : Bool) (x : Int) : Int := max (intMin w sgn) (min (intMax w sgn) x)
/-- The residue modulo 2^w. -/
def wrapInt (w : Nat) (x : Int) : Nat := (x % (2 ^ w : Int)).toNat

/-- Float → integer (Table 4.5). -/
def floatToInt (r : Rnd) (w : Nat) (sgn : Bool) (x : Ex) : Int × Flags :=
  match x with
  | .nan => (0, flagInv)
  | .inf neg => (if neg then intMin w sgn else intMax w sgn, flagInv)
  | .fin neg m e =>
    let v := signedNat neg (roundShift r neg m (-e)).1
    (clampInt w sgn v, if clampInt w sgn v = v then 0 else flagInv)

/-- Result bits narrower than 32 are extended in the register: by sign for s8 and s16, else by zero (R65). -/
def extendResult (t : CType) (bits : Nat) : Nat :=
  match t with
  | .s8 => wrapInt 32 (readInt 8 true bits)
  | .s16 => wrapInt 32 (readInt 16 true bits)
  | _ => bits

/-- A source infinity takes the overflow value of the mode (R67). -/
def roundCvt (f : Fmt) (r : Rnd) (sat : Bool) (x : Ex) : Nat × Flags :=
  match x with
  | .inf neg => (f.overflow r sat neg, 0)
  | x => f.round r sat x

/-- `cvt` of one element, to the bits of the destination type before extension (Table 4.5). -/
def cvtElem (r : Rnd) (sat : Bool) (dst src : CType) (x : Nat) : Nat × Flags :=
  if src.isFloat || src == .lg6 then
    let v := if src == .lg6 then lg6Decode (x % 64) else (typeFmt src).decode (x % 2 ^ typeBits src)
    let f0 : Flags := if src == .lg6 then lg6Flag x else 0
    let (bits, fl) :=
      if dst == .lg6 then lg6Round r v
      else if dst.isFloat then roundCvt (typeFmt dst) r sat v
      else
        let (i, fl) := floatToInt r (typeBits dst) (typeSigned dst) v
        (wrapInt (typeBits dst) i, fl)
    (bits, f0 ||| fl)
  else
    let i := readInt (typeBits src) (typeSigned src) x
    if dst.isFloat then (typeFmt dst).round r sat (.ofInt i 0)
    else
      let j := if sat then clampInt (typeBits dst) (typeSigned dst) i else i
      (wrapInt (typeBits dst) j, 0)

/-! ### Special functions (R77 to R79)

The exact result of a non-special input is approached in fixed point with 2^−`prec` resolution. A result is the free
value `Config.special` where that lies inside the bound of Table 4.7, and the correctly rounded value otherwise:
notes/assumptions/11. -/

inductive SpecialFn where
  | rcp | rsq | sqrt | exp2 | log2 | sin | cos | tanh
  deriving DecidableEq, Repr

def SpecialFn.code : SpecialFn → Nat
  | .rcp => 0 | .rsq => 1 | .sqrt => 2 | .exp2 => 3 | .log2 => 4 | .sin => 5 | .cos => 6 | .tanh => 7

def prec : Nat := 96
def one : Nat := 2 ^ prec

/-- Largest integer whose square is not above `n`, by bits from 2^`k` down. -/
def isqrtAux (n : Nat) : Nat → Nat → Nat
  | 0, acc => if (acc + 1) * (acc + 1) ≤ n then acc + 1 else acc
  | k + 1, acc =>
    let t := acc + 2 ^ (k + 1)
    isqrtAux n k (if t * t ≤ n then t else acc)
def isqrt (n : Nat) : Nat := isqrtAux n (n.log2 / 2 + 1) 0

/-- ln 2 in units of 2^−prec: the sum of 1 / (k × 2^k). -/
def ln2 : Nat := (List.range 100).foldl (fun s k => s + one / ((k + 1) * 2 ^ (k + 1))) 0

/-- The Taylor sum of e^y for y in units of 2^−prec, 0 ≤ y < 1. -/
def expFix (y : Nat) : Nat :=
  ((List.range 40).foldl (fun (s, t) k => let t := t * y / one / (k + 1); (s + t, t)) (one, one)).1

/-- log2 of a mantissa in [1, 2), in units of 2^−64, by repeated squaring. -/
def log2Fix : Nat → Nat → Nat → Nat
  | 0, _, acc => acc
  | k + 1, x, acc =>
    let x2 := x * x / one
    if x2 ≥ 2 * one then log2Fix k (x2 / 2) (2 * acc + 1) else log2Fix k x2 (2 * acc)

/-- π in units of 2^−prec (Machin). -/
def atanInv (n : Nat) : Nat :=
  ((List.range 80).foldl (fun (s, p) k =>
    let t : Int := (p / (2 * k + 1) : Nat)
    (if k % 2 = 0 then s + t else s - t, p / (n * n))) ((0 : Int), one / n)).1.toNat
def piFix : Nat := 4 * (4 * atanInv 5 - atanInv 239)

/-- Taylor sums of sine (`odd`) and cosine for 0 ≤ y < 2^prec. -/
def sinCosFix (odd : Bool) (y : Nat) : Int :=
  ((List.range 24).foldl (fun (s, t) k =>
      let n := if odd then 2 * k + 1 else 2 * k
      let s : Int := if k % 2 = 0 then s + (t : Nat) else s - (t : Nat)
      (s, t * y / one * y / one / ((n + 1) * (n + 2)))) ((0 : Int), if odd then y else one)).1

/-- sin (`odd`) or cos of `y` × 2^−prec with y ≥ 0: quarter turns first. -/
def trigFix (odd : Bool) (y : Nat) : Int :=
  let half := piFix / 2
  let k := (y + half / 2) / half
  let rest : Int := (y : Int) - (k * half : Nat)
  let s := (if rest < 0 then -1 else 1) * sinCosFix true rest.natAbs
  let c := sinCosFix false rest.natAbs
  match (if odd then k else k + 1) % 4 with
  | 0 => s | 1 => c | 2 => -s | _ => -c

/-- The value m × 2^e in units of 2^−prec, truncated. -/
def toFix (m : Nat) (e : Int) : Nat := (roundShift .rz false m (-e - prec)).1

/-- The exact result, to about 2^−90 relative, for a finite input that Table 4.7 does not name as special. -/
def specialApprox (fn : SpecialFn) (neg : Bool) (m : Nat) (e : Int) : Ex :=
  match fn with
  | .rcp => .fin neg (2 ^ 120 / m) (-120 - e)
  | .rsq =>
    -- 1 / sqrt(m × 2^e) with an even exponent
    let odd := e % 2 = 1
    let m' := if odd then 2 * m else m
    let e' := if odd then e - 1 else e
    .fin false (isqrt (2 ^ 240 / m')) (-120 - e' / 2)
  | .sqrt =>
    let odd := e % 2 = 1
    let m' := (if odd then 2 * m else m) * 2 ^ 120
    let e' := if odd then e - 1 else e
    let s := isqrt m'
    .fin false (2 * s + if s * s = m' then 0 else 1) (e' / 2 - 61)
  | .exp2 =>
    let whole := roundShift .rdn neg m (-e)
    let i := signedNat neg whole.1
    let x := signedNat neg (m * 2 ^ (e + 160).toNat)
    let frac := (x - i * 2 ^ 160).toNat / 2 ^ (160 - prec)
    .fin false (expFix (frac * ln2 / one)) (i - prec)
  | .log2 =>
    let i : Int := e + m.log2
    let f := log2Fix 80 (m * one / 2 ^ m.log2) 0
    .ofInt (i * 2 ^ 80 + f) (-80)
  | .sin =>
    if e + m.log2 < -20 then
      (Ex.fin neg (6 * m * 2 ^ (-2 * e).toNat - m * m * m) (3 * e)).mul (.fin false (2 ^ 100 / 6) (-100))
    else .ofInt ((if neg then -1 else 1) * trigFix true (toFix m e)) (-prec)
  | .cos => .ofInt (trigFix false (toFix m e)) (-prec)
  | .tanh =>
    -- (1 − q) / (1 + q) with q = e^(−2|x|); a small |x| by its series x − x³/3
    if e + m.log2 < -20 then
      (Ex.fin neg (3 * m * 2 ^ (-2 * e).toNat - m * m * m) (3 * e)).mul (.fin false (2 ^ 100 / 3) (-100))
    else
      let y := toFix m e
      if y ≥ 45 * one then .fin neg 1 0
      else
        let z := 2 * y * one / ln2
        let i := z / one + 1
        let q := expFix ((i * one - z) * ln2 / one) / 2 ^ i
        .fin neg ((one - q) * one / (one + q)) (-prec)

/-- The spacing of FP32 at a value, as a power of two (R77). -/
def ulpExp (x : Ex) : Int :=
  match x with
  | .fin _ m e => if m = 0 then -149 else max (e + m.log2 - 23) (-149)
  | _ => -149

/-- |p − x| ≤ n × 2^u. -/
def withinExp (p x : Ex) (n : Nat) (u : Int) : Bool :=
  match p.add .rne x.neg with
  | .fin _ m e => !((Ex.fin false n u).lt false (.fin false m e))
  | _ => false

/-- The bound of Table 4.7 for a candidate result. -/
def specialBound (fn : SpecialFn) (p x : Ex) : Bool :=
  match fn with
  | .rcp | .rsq => withinExp p x 1 (ulpExp x)
  | .sqrt => false
  | .sin | .cos =>
    withinExp p x 2 (ulpExp x) || ((x.abs).lt false (.fin false 1 (-20)) && withinExp p x 1 (-22))
  | _ => withinExp p x 2 (ulpExp x)

/-- Table 4.7. Where it gives a bound the result is free inside the bound, `fcos` of a zero and `fexp2` far below the
subnormal range included (notes/assumptions/11). -/
def specialResult (fn : SpecialFn) (r : Rnd) (x : Ex) (bits : Word) : Nat × Flags :=
  let free (neg : Bool) (m : Nat) (e : Int) : Nat × Flags :=
    let ap := specialApprox fn neg m e
    let pick := (Config.special fn.code bits).toNat
    let (res, fl) := fp32.round r false ap
    if specialBound fn (fp32.decode pick) ap then (pick, fl) else (res, fl)
  /- A free value about a magnitude that the approximation does not cover, else the value given. -/
  let near (ap : Ex) (res : Nat) (fl : Flags) : Nat × Flags :=
    let pick := (Config.special fn.code bits).toNat
    (if specialBound fn (fp32.decode pick) ap then pick else res, fl)
  match x with
  | .nan => (fp32.nan, 0)
  | .inf neg =>
    match fn with
    | .rcp => (fp32.signed neg 0, 0)
    | .rsq => if neg then (fp32.nan, flagInv) else (0, 0)
    | .sqrt | .log2 => if neg then (fp32.nan, flagInv) else (fp32.infBits, 0)
    | .exp2 => if neg then (0, 0) else (fp32.infBits, 0)
    | .sin | .cos => (fp32.nan, flagInv)
    | .tanh => (fp32.signed neg 0x3F800000, 0)
  | .fin neg m e =>
    if m = 0 then
      match fn with
      | .rcp | .rsq => (fp32.signed neg fp32.infBits, flagDz)
      | .sqrt | .sin | .tanh => (fp32.signed neg 0, 0)
      | .exp2 => (0x3F800000, 0)
      | .cos => near (.fin false 1 0) 0x3F800000 0
      | .log2 => (fp32.signed true fp32.infBits, flagDz)
    else
      match fn with
      | .rsq | .sqrt | .log2 =>
        if neg then (fp32.nan, flagInv)
        else if fn = .log2 ∧ m = 2 ^ m.log2 then fp32.round .rne false (.ofInt (e + m.log2) 0)
        else free neg m e
      | .exp2 =>
        if bits = 0xBF400000 then (0x3F1837F0, 0)
        else if !neg && !((Ex.fin neg m e).lt false (.fin false 128 0)) then (fp32.infBits, flagOvf)
        else if neg && decide (e + m.log2 ≥ 8) then near (.fin false 1 (-256)) 0 flagUnf
        else
          let i := roundShift .rz neg m (-e)
          if !i.2 && (!neg || decide (i.1 ≤ 149)) then fp32.round .rne false (.fin false 1 (signedNat neg i.1))
          else free neg m e
      | .sin | .cos =>
        if (Ex.fin false 1 15).lt false (.fin false m e) then
          -- any value in [−1, 1]
          let pick := fp32.decode (Config.special fn.code bits).toNat
          let ok := !pick.isNan && !((Ex.fin false 1 0).lt false pick.abs)
          (if ok then (Config.special fn.code bits).toNat else 0, 0)
        else free neg m e
      | .rcp | .tanh => free neg m e

/-! ### The sums of `mma` (R70 to R76) -/

def sumEx (l : List Ex) : Ex := l.foldl (Ex.add .rne) (.fin false 0 0)

/-- 2^E ≤ |p| < 2^(E+1) for the largest finite nonzero product. -/
def topExp (l : List Ex) : Option Int :=
  l.foldl (fun acc p =>
    match p with
    | .fin _ m e =>
      if m = 0 then acc else match acc with
        | none => some (e + m.log2)
        | some t => some (max t (e + m.log2))
    | _ => acc) none

/-- Truncation toward zero to a multiple of 2^u (R74). -/
def truncTo (u : Int) : Ex → Ex
  | .fin s m e => .fin s (roundShift .rz s m (u - e)).1 u
  | x => x

/-- The product of two LG6 codes (R57): T of the sum of the exponents, not the product of the values. -/
def lg6Mul (a b : Nat) : Ex :=
  let ea := a % 32
  let eb := b % 32
  let neg := (a / 32 % 2 == 1) != (b / 32 % 2 == 1)
  if ea = 0 ∨ eb = 0 then .fin neg 0 0
  else
    let q : Int := (ea : Int) - 16 + ((eb : Int) - 16)
    .fin neg (lg6T q) (Int.fdiv q 4 - 12)

/-- The sign of a value. -/
def Ex.isNeg : Ex → Bool
  | .nan => false
  | .inf s => s
  | .fin s _ _ => s

/-- R76: a rounded result is −0 only when acc is −0 and the signs of sA and sB differ; else it is +0
(notes/assumptions/14). -/
def mmaZero (scale : Option (Ex × Ex)) (acc : Ex) (bits : Nat) : Nat :=
  let differ := match scale with
    | some (sa, sb) => sa.isNeg != sb.isNeg
    | none => false
  let accNegZero := match acc with
    | .fin true 0 _ => true
    | _ => false
  if bits = 0x80000000 ∧ !(accNegZero && differ) then 0 else bits

/-- One output element for the floating formats (R73, R74, R76). `inputsNan`: some input of the element is NaN. -/
def mmaFloat (window : Bool) (products : List Ex) (inputsNan : Bool) (scale : Option (Ex × Ex)) (acc : Ex) :
    Nat × Flags :=
  let ps := match window, topExp products with
    | true, some t => products.map (truncTo (t - 47))
    | _, _ => products
  let dot := sumEx ps
  let dot := match dot with
    | .fin _ 0 _ => .fin false 0 0
    | d => d
  let scaled := match scale with
    | none => dot
    | some (sa, sb) => (sa.mul sb).mul dot
  let x := if inputsNan then .nan else acc.add .rne scaled
  let (bits, fl) := fp32.round .rne false x
  (mmaZero scale acc bits, (fl &&& flagOvf) ||| if x.isNan then flagInv else 0)

/-- One output element for INT8 (R75). -/
def mmaInt (sat : Bool) (a b : List Int) (acc : Word) : Word :=
  let dot := (List.zipWith (· * ·) a b).foldl (· + ·) 0
  let x := acc.toInt + dot
  BitVec.ofInt 32 (if sat then clampInt 32 true x else x)

end Sys2Proof.Machine
end

