-- ==== Sys2Proof/Machine/Memory.lean ====
section
/-! DEFINITION. The memory path: homes, translation, the L1 of a core, bindings and the five spaces
(08 R163 to R187, 10 R222, 13 R246 to R263, 19 R357 to R368). -/
namespace Sys2Proof.Machine

/-! ### Homes (R246, R247, R250) -/

/-- The home die of a physical address, numbered package × 4 + die. -/
def homeDie (pa : Nat) : Nat := pa / 2 ^ 37
/-- The stack of the home die (field STK of Table 13.1): consecutive 4 KiB pages alternate. -/
def homeStack (pa : Nat) : Nat := pa / 2 ^ 12 % 2
/-- The home L2 slice on the home die (R247). -/
def homeSlice (pa : Nat) : Nat := (pa / 2 ^ 7 % 32) ^^^ (pa / 2 ^ 12 % 32) ^^^ (pa / 2 ^ 17 % 32)

def State.fencedAt (s : State) (pa : Nat) : Bool := (s.die (homeDie pa)).fenced

/-! ### Rinkway ports (R375, R376, R380) -/

def State.portUp (s : State) (pkg no : Nat) : Bool := (s.pkg pkg).ports.any fun p => p.no == no && p.up

/-- The port of stream k towards a die: the first that is up on both packages from its own on. -/
def State.streamPort (s : State) (src dst die k : Nat) : Option Nat :=
  (List.range 8).findSome? fun i =>
    let n := die % 4 * 8 + (k + i) % 8
    if s.portUp src n && s.portUp dst n then some n else none

/-- Stream numbers of a packet's kind (Table 20.1): a blotter packet by its slot; a request of an instruction, a scribe or
a route engine by the issuing cluster; a critical message. -/
def slotStream (slot : Nat) : Nat := slot % 8
def requestStream (core : Nat) : Nat := clusterId (core % 512) % 8
def critStream : Nat := 0

/-- A request of a core reaches a die: one of the package itself, or one to which its stream has a port. -/
def State.reachable (s : State) (core dst : Nat) : Bool :=
  dst / 4 == core / 512 || (s.streamPort (core / 512) (dst / 4) dst (requestStream core)).isSome

/-! #### The L2 slice (R248 to R250) -/

/-- The little-endian words of `k` bytes of a line. -/
def lineWords (k : Nat) (bs : List Byte) : List Nat := (List.range (128 / k)).map fun i => leNat ((bs.drop (k * i)).take k)

/-- Every difference from the first word, modulo 2^w as signed, lies in −bound to bound − 1. -/
def deltasFit (w : Nat) (bound : Int) : List Nat → Bool
  | [] => true
  | x :: xs => xs.all fun y =>
    let d := readInt w true (y + 2 ^ w - x)
    decide (-bound ≤ d) && decide (d < bound)

/-- The first form of Table 13.2 that fits the bytes of a line. -/
def lineForm (poisoned : Bool) (bs : List Byte) : L2Form :=
  if poisoned then .u
  else if bs.all (· == 0) then .z
  else if deltasFit 32 128 (lineWords 4 bs) then .b4d1
  else if deltasFit 64 32768 (lineWords 8 bs) then .b8d2
  else .u

/-- A line takes a half of a data entry of its set. -/
def L2Line.takes (x : L2Line) (entry : Nat) (upper : Bool) : Bool :=
  x.form != .z && x.entry == entry && (x.form == .u || x.upper == upper)

/-- Where a line of a form can be stored beside the others of its set; its present place where that still serves. -/
def l2Place (set : List L2Line) (x : L2Line) : Option L2Line :=
  let free (e : Nat) (u : Bool) : Bool := !set.any fun y => y.takes e u
  let whole (e : Nat) : Bool := free e false && free e true
  match x.form with
  | .z => some x
  | .u => ((x.entry :: List.range 12).find? whole).map fun e => { x with entry := e, upper := false }
  | _ =>
    (((x.entry, x.upper) :: (List.range 12).flatMap fun e => [(e, false), (e, true)]).find? fun p => free p.1 p.2).map
      fun p => { x with entry := p.1, upper := p.2 }

/-- A line that grows to form U while another line has the other half of its entry, and no entry is free: the other line
moves to a free half (R249). -/
def l2Move (set : List L2Line) (old x : L2Line) : Option (List L2Line) :=
  if x.form == .u && (old.form == .b4d1 || old.form == .b8d2) then
    match set.find? fun y => y.takes old.entry (!old.upper) with
    | none => none
    | some y =>
      let rest := set.filter fun z => z.line != y.line
      let free (p : Nat × Bool) : Bool := p.1 != old.entry && !rest.any fun z => z.takes p.1 p.2
      (((List.range 12).flatMap fun e => [(e, false), (e, true)]).find? free).map fun p =>
        { x with entry := old.entry, upper := false } :: { y with entry := p.1, upper := p.2 } :: rest
  else none

/-- Stores a line in its set of 24 tags over 12 data entries; `old`: as the set held it. Where it cannot move, lines are
evicted until there is room. The lines that stay, and those evicted. -/
def l2Store (pick : Nat → Nat) (old x : L2Line) : Nat → List L2Line → List L2Line × List L2Line
  | 0, set => ([x], set)
  | n + 1, set =>
    match if set.length < 24 then ((l2Place set x).map (· :: set)).or (l2Move set old x) else none with
    | some l => (l, [])
    | none =>
      let i := pick set.length % set.length
      let (kept, out) := l2Store pick old x n (set.eraseIdx i)
      (kept, (set[i]?).toList ++ out)

/-- Two lines of one die fall into one set of one slice. -/
def sameL2Set (a b : Nat) : Bool := homeSlice (128 * a) == homeSlice (128 * b) && Config.l2Set a % 2048 == Config.l2Set b % 2048

/-- A line is in its home slice. -/
def State.inL2 (s : State) (line : Nat) : Bool := (s.die (homeDie (128 * line))).l2.any fun x => x.line == line

/-- A line leaves the L2: dirty sectors go to HBM with their poison, the others are as HBM has them (R250). -/
def State.leaveL2 (s : State) (x : L2Line) : State :=
  (List.range 4).foldl (fun (s : State) i =>
    let sec := 4 * x.line + i
    let move (src dst : List Nat) : List Nat := if src.contains sec then insertNat sec dst else dst.filter (· != sec)
    if x.dirty.getLsbD i then { s with hbmPoison := move s.poison s.hbmPoison }
    else { s with poison := move s.hbmPoison s.poison }) s

/-- The slice holds a line and writes it: its form is chosen again (R249). `f` gives the new dirty sectors. -/
def State.useL2 (s : State) (line : Nat) (f : BitVec 4 → BitVec 4) : State :=
  let d := s.die (homeDie (128 * line))
  let old := (getBy L2Line.line line d.l2).getD { line := line }
  let x := { old with
    form := lineForm ((List.range 4).any fun i => s.poison.contains (4 * line + i)) (s.mem.read (128 * line) 128)
    dirty := f old.dirty }
  let others := d.l2.filter fun y => y.line != line
  let (set, rest) := others.partition fun y => sameL2Set y.line line
  let (set, out) := l2Store (fun n => Config.victim (s.tick * 2 ^ 48 + line) n) old x 24 set
  let s := s.setDie { d with l2 := set ++ rest }
  if s.poison.isEmpty && s.hbmPoison.isEmpty then s else out.foldl State.leaveL2 s

/-- A read brings the lines of `n` bytes into their home slice (notes/assumptions/34). -/
def State.touchL2 (s : State) (pa n : Nat) : State :=
  (unitsOf 128 pa n).foldl (fun s l => if s.inL2 l || s.fencedAt (128 * l) then s else s.useL2 l id) s

/-- Records an event for management (R367, R379, R433). -/
def State.logEvent (s : State) (p : Nat) (e : MgmtEvent) : State :=
  let k := s.pkg p
  s.setPkg { k with ctl := { k.ctl with log := k.ctl.log ++ [e] } }

/-! #### Flits whose CRC fails (R255) -/

def FlitPlace.dieNo : FlitPlace → Nat
  | .home sec => homeDie (32 * sec)
  | .dieRam d _ => d

/-- Replies have carried these sectors: the hop records their errors, which are over. -/
def State.flitsArrived (s : State) (ps : List FlitPlace) : State :=
  let s := if s.wrongReplies.isEmpty then s
    else { s with wrongReplies := s.wrongReplies.filter fun w => !ps.contains w.1 }
  if s.badReplies.isEmpty then s
  else
    let hit := s.badReplies.filter ps.contains
    hit.foldl (fun s p => s.logEvent (p.dieNo / 4) (.flitError p.dieNo))
      { s with badReplies := s.badReplies.filter fun p => !hit.contains p }

/-- A written sector whose flit is bad arrives poisoned. -/
def State.writeFlits (s : State) (secs : List Nat) : State :=
  let mine (p : FlitPlace) : Bool := secs.any fun x => p == .home x
  let s := if s.wrongWrites.isEmpty then s
    else { s with wrongWrites := s.wrongWrites.filter fun w => !mine w.1 }
  if s.badWrites.isEmpty then s
  else
    let hit := s.badWrites.filter mine
    hit.foldl (fun s p => s.logEvent (p.dieNo / 4) (.flitError p.dieNo))
      { s with
        badWrites := s.badWrites.filter fun p => !hit.contains p
        poison := (secs.filter fun x => hit.contains (.home x)).foldl (fun l x => insertNat x l) s.poison }

/-! #### Data that no check covers (R265) -/

/-- The byte that arrives where a flit carries a byte of its sector: the byte itself, but for a soft error that no check
finds. -/
def garbled (l : List (FlitPlace × List Byte)) (p : FlitPlace) (i : Nat) (b : Byte) : Byte :=
  match l.find? fun w => w.1 == p with
  | some w => (w.2[i]?).getD b
  | none => b

/-- Bytes at consecutive addresses as they arrive; `place` names the sector of an address. -/
def garble (l : List (FlitPlace × List Byte)) (place : Nat → FlitPlace) (a : Nat) (bs : List Byte) : List Byte :=
  if l.isEmpty then bs else bs.mapIdx fun i b => garbled l (place ((a + i) / 32)) ((a + i) % 32) b

/-- Writes bytes at their homes; what is aimed at a fenced die is not accepted (R367). `alloc`: a line that its slice
lacks enters it; an element is applied in HBM without that (R352). -/
def State.homeWrite (s : State) (pa : Nat) (bs : List Byte) (alloc : Bool := true) : State :=
  if s.fencedAt pa then s
  else
    let secs := sectorsOf pa bs.length
    let bs := garble s.wrongWrites .home pa bs
    let s := { s with mem := s.mem.write pa bs }.writeFlits secs
    (unitsOf 128 pa bs.length).foldl (fun s l =>
      if alloc || s.inL2 l then s.useL2 l fun d =>
        secs.foldl (fun d x => if x / 4 = l then d ||| (1 <<< (x % 4)) else d) d
      else s) s

def State.homeRead (s : State) (pa n : Nat) : List Byte := s.mem.read pa n

/-- The bytes of the home copies as their reply delivers them. -/
def State.replyRead (s : State) (pa n : Nat) : List Byte := garble s.wrongReplies .home pa (s.homeRead pa n)

/-- Whether some sector of the home copies is poisoned. -/
def State.homePoisoned (s : State) (pa n : Nat) : Bool := (sectorsOf pa n).any s.poison.contains

/-- Some sector that a reply carries arrives poisoned: at its home, or by its flit. -/
def State.replyPoisoned (s : State) (pa n : Nat) : Bool :=
  (sectorsOf pa n).any fun x => s.poison.contains x || s.badReplies.contains (.home x)

/-- The slices choose the form of the lines of these sectors again. -/
def State.reform (s : State) (secs : List Nat) : State :=
  ((secs.map (· / 4)).eraseDups).foldl (fun s l => if s.inL2 l then s.useL2 l id else s) s

/-- Clears the poison of every sector whose 32 bytes are all in `cover`, the bytes that one pass writes (R179). -/
def State.clearPoison (s : State) (cover : List Nat) : State :=
  if s.poison.isEmpty then s
  else
    let left := clearUnits 32 s.poison cover
    { s with poison := left }.reform (s.poison.filter fun x => !left.contains x)

/-- Home copies of these sectors are poisoned. -/
def State.poisonHome (s : State) (secs : List Nat) : State :=
  if secs.isEmpty then s else { s with poison := secs.foldl (fun q x => insertNat x q) s.poison }.reform secs

/-! ### Translation (R256 to R263) -/

/-- Outcome of a walk (Table 13.4). -/
inductive WalkResult where
  | ok (pa level : Nat) (pte : DWord)
  | replay
  | fatal
  | permission
  /-- An entry of the walk lies on a fenced die: DIE_LOST; or on a package to which no port is up: LINK_DOWN (R367, R368,
  R380; notes/assumptions/35). -/
  | lost
  | down
  deriving DecidableEq, Repr

def accBit : AccKind → Nat
  | .read => 1 | .write => 2 | .fetch => 3

/-- PA field. -/
def ptePa (pte : DWord) : Nat := (pte.extractLsb' 12 36).toNat * 4096

/-- Bytes of the page of a leaf at a level. -/
def pageBytes (level : Nat) : Nat := 4096 * 512 ^ level

/-- Entries of a 64 KiB page agree (R256). -/
def groupConsistent (s : State) (addr : Nat) : Bool :=
  let base := addr - addr % 128
  let word (i : Nat) : DWord := BitVec.ofNat 64 (leNat (s.homeRead (base + 8 * i) 8))
  (List.range 16).all fun i =>
    (word i).getLsbD 5 && (word i &&& ~~~0xF000) == (word 0 &&& ~~~0xF000)

/-- First row of Table 13.4. -/
def pteMalformed (s : State) (addr level : Nat) (pte : DWord) : Bool :=
  let leaf := pte.getLsbD 4
  pte.extractLsb' 7 5 != 0 || pte.extractLsb' 48 16 != 0 || (leaf && decide (3 ≤ level)) ||
    (leaf && ptePa pte % pageBytes level != 0) || (pte.getLsbD 5 && (level != 0 || !groupConsistent s addr)) ||
    (pte.getLsbD 0 && level == 0 && !leaf)

/-- Permission of a leaf (rows 4 and 5 of Table 13.4). -/
def leafOutcome (pte : DWord) (level va : Nat) (kind : AccKind) : WalkResult :=
  if pte.getLsbD (accBit kind) then .ok (ptePa pte + va % pageBytes level) level pte
  else if pte.getLsbD 6 then .replay
  else if kind = .fetch then .fatal else .permission

/-- An entry of a level 4 to 1 in the walk cache; a leaf only where it allows the access (R261). -/
def walkHit (l : List WalkEntry) (ctx va : Nat) (kind : AccKind) (level : Nat) : Option DWord :=
  (l.find? fun e => level != 0 && e.ctx == ctx && e.level == level && e.page == va / pageBytes level &&
    (!e.pte.getLsbD 4 || e.pte.getLsbD (accBit kind))).map WalkEntry.pte

/-- What a walk comes to: its outcome, the entries of levels 4 to 1 that it passed, and the addresses that it read. -/
structure Walk where
  result : WalkResult
  path : List (Nat × DWord) := []
  reads : List Nat := []
  deriving DecidableEq, Repr

/-- A walk that has passed an entry. -/
def Walk.after (w : Walk) (level : Nat) (pte : DWord) (reads : List Nat) : Walk :=
  { w with path := if level = 0 then w.path else (level, pte) :: w.path, reads := reads ++ w.reads }

/-- One walk from a table at a level. Entries are read from `cache`, else at their home; an entry whose home is on a
fenced die, or on a package that `reach` excludes, cannot be read (R367). -/
def walkFrom (s : State) (reach : Nat → Bool) (cache : Nat → Option DWord) (va : Nat) (kind : AccKind) : Nat → Nat → Walk
  | level, table =>
    let addr := table + 8 * (va / pageBytes level % 512)
    if (cache level).isNone && s.fencedAt addr then { result := .lost }
    else if (cache level).isNone && !reach (homeDie addr) then { result := .down }
    else
      let reads := if (cache level).isNone then [addr] else []
      let pte : DWord := (cache level).getD (BitVec.ofNat 64 (leNat (s.replyRead addr 8)))
      if pteMalformed s addr level pte then { result := .fatal, reads := reads }
      else if !pte.getLsbD 0 then { result := if pte.getLsbD 6 then .replay else .fatal, reads := reads }
      else if pte.getLsbD 4 then ({ result := leafOutcome pte level va kind } : Walk).after level pte reads
      else match level with
        | 0 => { result := .fatal, reads := reads }
        | l + 1 => (walkFrom s reach cache va kind l (ptePa pte)).after level pte reads

/-- A walk for a core by its die's walkers. -/
def State.walk (s : State) (coreNo ctx va : Nat) (kind : AccKind) : Walk :=
  match s.ctx? ctx with
  | none => { result := .fatal }
  | some c =>
    walkFrom s (s.reachable coreNo) (walkHit (s.die (coreNo / 128)).walkCache ctx va kind) va kind 4 c.ptRoot

def TlbEntry.covers (e : TlbEntry) (ctx va : Nat) : Bool := e.ctx == ctx && e.page == va / pageBytes e.level

/-- A hit in the core's, the cluster's or the die's TLB that allows the access. -/
def tlbHit (l : List TlbEntry) (ctx va : Nat) (kind : AccKind) : Option WalkResult :=
  (l.find? fun e => e.covers ctx va && e.pte.getLsbD (accBit kind)).map fun e => leafOutcome e.pte e.level va kind

def tlbFill (l : List TlbEntry) (e : TlbEntry) (cap : Nat) : List TlbEntry := if l.contains e then l else (e :: l).take cap

/-- A fill places the translation in all three levels (R261). -/
def State.fillTlb (s : State) (coreNo : Nat) (e : TlbEntry) : State :=
  let c := s.core coreNo
  let k := s.cluster (coreNo / 4)
  let d := s.die (coreNo / 128)
  ((s.setCore { c with tlb := tlbFill c.tlb e 64 }).setCluster { k with tlb := tlbFill k.tlb e 1024 }).setDie
    { d with tlb := tlbFill d.tlb e 16384 }

/-- The entries of a walk that translated enter the walk cache of 4,096 entries (R261). -/
def State.fillWalkCache (s : State) (die ctx va : Nat) (path : List (Nat × DWord)) : State :=
  let d := s.die die
  s.setDie { d with walkCache := path.foldl (fun l (level, pte) =>
    let e : WalkEntry := ⟨ctx, level, va / pageBytes level, pte⟩
    if l.contains e then l else (e :: l).take 4096) d.walkCache }

/-- The TLBs that a core looks up, in order. -/
def State.tlbs (s : State) (coreNo : Nat) : List TlbEntry :=
  (s.core coreNo).tlb ++ (s.cluster (coreNo / 4)).tlb ++ (s.die (coreNo / 128)).tlb

/-- Walkers read entries through their home slices (R257). -/
def State.walkReads (s : State) (l : List Nat) : State :=
  l.foldl (fun s a => (s.touchL2 a 8).flitsArrived [.home (a / 32)]) s

/-- Translates an address for an access from a core: a TLB hit, else a walk. -/
def State.translate (s : State) (coreNo ctx va : Nat) (kind : AccKind) : State × WalkResult :=
  let fill (s : State) (r : WalkResult) : State :=
    match r with
    | .ok _ level pte => s.fillTlb coreNo ⟨ctx, va / pageBytes level, level, pte⟩
    | _ => s
  match tlbHit (s.tlbs coreNo) ctx va kind with
  | some r => (fill s r, r)
  | none =>
    let w := s.walk coreNo ctx va kind
    let s := s.walkReads w.reads
    match w.result with
    | .ok pa level pte => (fill (s.fillWalkCache (coreNo / 128) ctx va w.path) (.ok pa level pte), .ok pa level pte)
    | r => (s, r)

/-! ### Bindings (R358, R364) -/

def Binding.covers (b : Binding) (va : Nat) : Bool := decide (b.base ≤ va) && decide (va < b.base + b.len)

/-- Bytes that an ordering action covers: unbound bytes, bytes of regions of the words named, or every byte for a
hardware edge (R358, R359). -/
structure Coverage where
  words : List Nat
  all : Bool
  deriving DecidableEq, Repr

def Coverage.covers (c : Coverage) (binds : List Binding) (va : Nat) : Bool :=
  let bs := binds.filter fun b => b.covers va
  c.all || bs.isEmpty || bs.any fun b => c.words.contains b.word

/-- The words that `n` bytes at `va` include whole (R364). -/
def bindWords (binds : List Binding) (va n : Nat) : List Nat :=
  (binds.filter fun b => decide (va ≤ b.word) && decide (b.word + 4 ≤ va + n)).map Binding.word

def State.binds (s : State) (ctx : Nat) : List Binding := ((s.ctx? ctx).map Ctx.binds).getD []

/-! ### The L1 of a core (R160, R187) -/

def l1Find (l : List L1Line) (pa : Nat) : Option L1Line := getBy L1Line.pa pa l

/-- Some mapping of a context through which the line has been reached takes the byte at an offset to an address that
`sel` covers (R358). -/
def L1Line.selected (ln : L1Line) (ctx : Nat) (sel : Nat → Bool) (o : Nat) : Bool :=
  ln.maps.any fun m => m.1 == ctx && sel (m.2 * 128 + o)

/-- Fills a sector from the home without touching dirty bytes. A sector that arrives poisoned is not kept as valid. -/
def fillSector (s : State) (ln : L1Line) (sec : Nat) : L1Line :=
  if ln.valid.getLsbD sec then ln
  else
    let base := ln.pa * 128
    let data := (List.range 32).foldl (fun (m : Mem) i =>
      let o := 32 * sec + i
      if ln.dirty.getLsbD o then m
      else m.set o (garbled s.wrongReplies (.home ((base + o) / 32)) ((base + o) % 32) (s.mem.get (base + o)))) ln.data
    { ln with data := data, valid := if s.replyPoisoned (base + 32 * sec) 32 then ln.valid else ln.valid ||| (1 <<< sec) }

/-- Sectors 0 to 3 of a line that `n` bytes at offset `o` touch. -/
def lineSectors (o n : Nat) : List Nat := sectorsOf o n

/-- Sectors that a read of `n` bytes at offset `o` has to bring: the line does not hold them, and the read needs a byte of
them that is not dirty. -/
def L1Line.lacks (ln : L1Line) (o n : Nat) : List Nat :=
  (lineSectors o n).filter fun sec => !ln.valid.getLsbD sec &&
    (List.range n).any fun i => (o + i) / 32 == sec && !ln.dirty.getLsbD (o + i)

/-- The read meets a word of the line with an error of the unified store. -/
def L1Line.badIn (ln : L1Line) (o n : Nat) : Bool := (unitsOf 8 o n).any ln.bad.getLsbD

/-- Some byte that the read needs is poisoned: in a bad word of the line, or not dirty and in a sector that the line
does not hold and that arrives poisoned. -/
def linePoisoned (s : State) (ln : L1Line) (o n : Nat) : Bool :=
  ln.badIn o n || (List.range n).any fun i =>
    let b := o + i
    !ln.dirty.getLsbD b && !ln.valid.getLsbD (b / 32) && s.replyPoisoned (ln.pa * 128 + b) 1

/-- The bytes of a core's line at dirty positions that `sel` covers go to their home; they are clean afterwards. A sector
with a bad word among them is poisoned there (R250: poison travels with a sector). What cannot reach its home is lost, as
what is aimed at a fenced die is (notes/assumptions/35). -/
def writeBackLine (s : State) (coreNo : Nat) (ln : L1Line) (sel : Nat → Bool) : State × L1Line :=
  let out := (List.range 128).filter fun o => ln.dirty.getLsbD o && sel o
  let bad := (out.filter fun o => ln.bad.getLsbD (o / 8)).map fun o => ln.pa * 4 + o / 32
  (if s.reachable coreNo (homeDie (ln.pa * 128)) then
      (out.foldl (fun s o => s.homeWrite (ln.pa * 128 + o) [ln.data.get o]) s).poisonHome bad
    else s,
    { ln with dirty := out.foldl (fun d o => d &&& ~~~((1 : BitVec 128) <<< o)) ln.dirty })

/-- Sectors with a byte that `sel` covers are dropped but for their dirty bytes; `whole`: a sector with a dirty byte
stays whole (R176). A line that holds nothing is freed. -/
def invalidateLine (whole : Bool) (ln : L1Line) (sel : Nat → Bool) : Option L1Line :=
  let drop := (List.range 4).foldl (fun (v : BitVec 4) sec =>
    let stays := whole && (List.range 32).any fun i => ln.dirty.getLsbD (32 * sec + i)
    if !stays && (List.range 32).any (fun i => sel (32 * sec + i)) then v &&& ~~~((1 : BitVec 4) <<< sec) else v) ln.valid
  let ln := { ln with valid := drop }
  if ln.valid = 0 ∧ ln.dirty = 0 then none else some ln

/-- Writes back, over a core's lines reached by a context, the bytes that `sel` covers. -/
def State.l1WriteBack (s : State) (coreNo ctx : Nat) (sel : Nat → Bool) : State :=
  let (s, lines) := (s.core coreNo).l1.foldl (fun (s, acc) ln =>
    let (s, ln) := writeBackLine s coreNo ln (ln.selected ctx sel)
    (s, acc ++ [ln])) (s, ([] : List L1Line))
  s.setCore { s.core coreNo with l1 := lines }

def State.l1Invalidate (s : State) (whole : Bool) (coreNo ctx : Nat) (sel : Nat → Bool) : State :=
  let c := s.core coreNo
  s.setCore { c with l1 := c.l1.flatMap fun ln => (invalidateLine whole ln (ln.selected ctx sel)).toList }

/-- A scope below 2 asks for no L1 action: the teams that it orders share the L1 (R363). -/
def scopeActs (scope : Nat) : Bool := decide (2 ≤ scope)

/-- The L1 action of a release (R358). -/
def State.releaseL1 (s : State) (coreNo ctx : Nat) (cov : Coverage) : State :=
  s.l1WriteBack coreNo ctx (cov.covers (s.binds ctx))

/-- The L1 action of an acquire (R358). -/
def State.acquireL1 (s : State) (coreNo ctx : Nat) (cov : Coverage) : State :=
  s.l1Invalidate false coreNo ctx (cov.covers (s.binds ctx))

/-- Puts a line into the L1; when all 2,048 are in use a victim is written back first. -/
def State.l1Put (s : State) (coreNo : Nat) (ln : L1Line) : State :=
  let c := s.core coreNo
  if (l1Find c.l1 ln.pa).isNone ∧ 2048 ≤ c.l1.length then
    match c.l1[Config.victim s.tick c.l1.length % 2048]? with
    | none => s
    | some old =>
      let s := (writeBackLine s coreNo old fun _ => true).1
      let c := s.core coreNo
      (s.setCore { c with l1 := putBy L1Line.pa ln (delBy L1Line.pa old.pa c.l1) }).bump
  else s.setCore { c with l1 := putBy L1Line.pa ln c.l1 }

/-- The line as an access through a mapping finds it. Through a mapping by which it has not been reached only its dirty
bytes count: an acquire has dropped what it had to by the mappings that it knows (R358). -/
def L1Line.through (ln : L1Line) (ctx vline : Nat) : L1Line :=
  if ln.maps.contains (ctx, vline) then ln else { ln with maps := ln.maps ++ [(ctx, vline)], valid := 0 }

/-- Own line of a physical line, or a new empty one, with the mapping noted. -/
def State.l1Line (s : State) (coreNo ctx va pa : Nat) : L1Line :=
  ((l1Find (s.core coreNo).l1 (pa / 128)).getD { pa := pa / 128 }).through ctx (va / 128)

/-- The L1 serves an access to `n` bytes of one line: a write where it holds the line, a read where it holds what the
read needs (R181). -/
def State.l1Serves (s : State) (coreNo ctx va pa n : Nat) (write : Bool) : Bool :=
  (l1Find (s.core coreNo).l1 (pa / 128)).isSome && (write || ((s.l1Line coreNo ctx va pa).lacks (pa % 128) n).isEmpty)

/-- A read of bytes within one line: the bytes, and whether some byte is poisoned. -/
def State.l1Read (s : State) (coreNo ctx va pa n : Nat) (na : Bool) : State × List Byte × Bool :=
  let ln := s.l1Line coreNo ctx va pa
  let o := pa % 128
  let bad := linePoisoned s ln o n
  let fill := ln.lacks o n
  let ln := fill.foldl (fillSector s) ln
  let bytes := ln.data.read o n
  let s := if fill.isEmpty then s else s.touchL2 pa 1
  if na ∧ (l1Find (s.core coreNo).l1 (pa / 128)).isNone then (s, bytes, bad) else (s.l1Put coreNo ln, bytes, bad)

/-- A write of bytes within one line. Bytes of a poisoned sector, and of a `.na` store, go to the home. -/
def State.l1Write (s : State) (coreNo ctx va pa : Nat) (bs : List Byte) (na : Bool) : State :=
  let o := pa % 128
  let ln := s.l1Line coreNo ctx va pa
  let held := (l1Find (s.core coreNo).l1 (pa / 128)).isSome
  let direct := na || s.homePoisoned pa bs.length
  let at' := (List.range bs.length).map (o + ·)
  let mask := at'.foldl (fun (m : BitVec 128) i => m ||| (1 <<< i)) 0
  let bad := (List.range 16).foldl (fun (b : BitVec 16) w =>
    if (List.range 8).all fun i => at'.contains (8 * w + i) then b &&& ~~~((1 : BitVec 16) <<< w) else b) ln.bad
  let new := { ln with data := ln.data.write o bs, bad := if ln.bad = 0 then 0 else bad }
  if direct then
    let s := s.homeWrite pa bs
    if held then s.l1Put coreNo { new with dirty := ln.dirty &&& ~~~mask } else s
  else s.l1Put coreNo { new with dirty := ln.dirty ||| mask }

/-- Before an access performed at the home, the core's own dirty bytes of its lines go there and the lines are
dropped, so that the team's order to each byte holds (R185). -/
def State.l1Flush (s : State) (coreNo pa n : Nat) : State :=
  [pa / 128, (pa + n - 1) / 128].foldl (fun s l =>
    match l1Find (s.core coreNo).l1 l with
    | none => s
    | some ln =>
      let s := (writeBackLine s coreNo ln fun _ => true).1
      let c := s.core coreNo
      s.setCore { c with l1 := delBy L1Line.pa l c.l1 }) s

/-! ### Locations in the five spaces (R163, R168, R222, R253) -/

/-- Where an access lands. -/
inductive Loc where
  | slice (slot off : Nat)
  | scratch (off : Nat)
  /-- Consecutive registers of one range of the aperture (Table 8.2). -/
  | regs (slot : Nat) (first : Operand) (n : Nat)
  | pool (gang off : Nat)
  | dieRam (die off : Nat)
  /-- Pieces within one line each: virtual and physical address, length. -/
  | glb (pieces : List (Nat × Nat × Nat))
  deriving DecidableEq, Repr

/-- Why an access is not performed: a fault code, or a page whose outcome is replayable. -/
inductive Denied where
  | fault (code : Nat)
  | replay (va : Nat)
  deriving DecidableEq, Repr

/-- What an access asks of its location. -/
structure Need where
  bytes : Nat
  kind : AccKind
  /-- An element: it goes to a fenced die too, and fails there (R368, R396). -/
  element : Bool := false
  /-- `ld`, `st`, `lds`, `sts`: the only accesses that the aperture takes (R164). -/
  plain : Bool := false
  /-- A misaligned access faults (R177). -/
  aligned : Bool := false
  deriving DecidableEq, Repr

/-- Registers of the aperture at an offset (Table 8.2, R164). -/
def aperture (t : Team) (a n : Nat) (write : Bool) : Except Nat Loc :=
  let words := n / 4
  if n < 4 ∨ a % n ≠ 0 then .error codeBounds
  else if 0x80000000 ≤ a ∧ a < 0x80000000 + 1024 * t.lanes.length then
    let off := a - 0x80000000
    let i := off % 1024 / 4
    if i + words ≤ t.entry.vregs then .ok (.regs (off / 1024) (.v (BitVec.ofNat 8 i)) words) else .error codeBounds
  else if 0x80100000 ≤ a ∧ a + n ≤ 0x80100100 then
    .ok (.regs 0 (.s (BitVec.ofNat 6 ((a - 0x80100000) / 4))) words)
  else if 0x80100100 ≤ a ∧ a + n ≤ 0x80100500 then
    if write then .error codePermission else .ok (.regs 0 (.k (BitVec.ofNat 8 ((a - 0x80100100) / 4))) words)
  else if 0x80110000 ≤ a ∧ a + n ≤ 0x80110000 + 4 * t.lanes.length then
    .ok (.regs ((a - 0x80110000) / 4) (.p 0) words)
  else .error codeBounds

/-- Splits [va, va + n) at line boundaries; `n` is at most 16 for lane accesses. -/
def linePieces : Nat → Nat → Nat → List (Nat × Nat)
  | 0, _, _ => []
  | fuel + 1, va, n =>
    if n = 0 then []
    else
      let here := min n (128 - va % 128)
      (va, here) :: linePieces fuel (va + here) (n - here)

/-- Of two failures of one access the one that decides: TRANSLATION, PERMISSION, a replayable outcome, then DIE_LOST
(R178, R368). -/
def Denied.rank : Denied → Nat
  | .fault c => if c = codeTranslation then 0 else if c = codePermission then 1 else 3
  | .replay _ => 2

def Denied.worse (a b : Denied) : Denied := if b.rank < a.rank then b else a

/-- Translates every piece of a `.glb` access. -/
def State.translatePieces (s : State) (coreNo ctx : Nat) (need : Need) :
    List (Nat × Nat) → State × Except Denied (List (Nat × Nat × Nat))
  | [] => (s, .ok [])
  | (va, n) :: ps =>
    let (s, r) := s.translate coreNo ctx va need.kind
    let (s, rest) := s.translatePieces coreNo ctx need ps
    let here : Except Denied Nat := match r with
      | .ok pa _ _ => if s.fencedAt pa && !need.element then .error (.fault codeDieLost) else .ok pa
      | .replay => .error (.replay va)
      | .fatal => .error (.fault codeTranslation)
      | .permission => .error (.fault codePermission)
      | .lost => .error (.fault codeDieLost)
      | .down => .error (.fault codeLinkDown)
    (s, match here, rest with
      | .ok pa, .ok l => .ok ((va, pa, n) :: l)
      | .ok _, .error e => .error e
      | .error e, .ok _ => .error e
      | .error e, .error e' => .error (e.worse e'))

def State.locateGlb (s : State) (coreNo ctx a : Nat) (need : Need) : State × Except Denied Loc :=
  if need.aligned ∧ a % need.bytes ≠ 0 then (s, .error (.fault codeMisaligned))
  else if a + need.bytes > 2 ^ 57 then (s, .error (.fault codeTranslation))
  else
    match s.translatePieces coreNo ctx need (linePieces (need.bytes / 128 + 2) a need.bytes) with
    | (s, .ok l) => (s, .ok (.glb l))
    | (s, .error e) => (s, .error e)

/-- The gang whose pool a team's `.clu` accesses name (R222). -/
def State.poolGang (s : State) (t : Team) : Option Gang :=
  match t.gang.bind s.gang? with
  | some g => if g.poolSize = 0 then none else some g
  | none => none

def alignedOr (need : Need) (a : Nat) (l : Loc) : Except Denied Loc :=
  if need.aligned ∧ a % need.bytes ≠ 0 then .error (.fault codeMisaligned) else .ok l

/-- Checks one lane's access in the order BOUNDS, MISALIGNED, TRANSLATION, PERMISSION, then DIE_LOST
(R168, R178, R368). -/
def State.locate (s : State) (t : Team) (slot : Nat) (sp : Space) (a : Nat) (need : Need) :
    State × Except Denied Loc :=
  let bounds : State × Except Denied Loc := (s, .error (.fault codeBounds))
  match sp with
  | .lane =>
    if a + need.bytes + 128 ≤ t.entry.slice then (s, alignedOr need a (.slice slot (a + 128))) else bounds
  | .core =>
    if a + need.bytes ≤ t.entry.scratch then (s, alignedOr need a (.scratch a))
    else if need.plain then
      match aperture t a need.bytes (need.kind == .write) with
      | .ok l => (s, .ok l)
      | .error c => (s, .error (.fault c))
    else bounds
  | .clu =>
    match s.poolGang t with
    | some g => if a + need.bytes ≤ g.poolSize then (s, alignedOr need a (.pool g.id a)) else bounds
    | none => bounds
  | .die =>
    let w := s.ctxDie t.ctx t.dieNo
    if a + need.bytes ≤ w.winSize then (s, alignedOr need a (.dieRam t.dieNo (w.winBase + a))) else bounds
  | .glb => s.locateGlb t.coreNo t.ctx a need

/-! #### Banks of the die scratchpad (R253) -/

/-- The bank of a byte at offset `a` of a window, and the byte's offset within the window's share of that bank. -/
def dieBank (a : Nat) : Nat := a / 2 ^ 8 % 32
def dieBankOffset (a : Nat) : Nat := a / 2 ^ 13 * 2 ^ 8 + a % 2 ^ 8

/-! ### Reading and writing a location -/

/-- Four bytes of a register of the aperture. An exited lane reads zero (R164). -/
def apertureRead (t : Team) (slot : Nat) (o : Operand) (k : Nat) : Word :=
  match o with
  | .p _ => if (t.lane (slot + k)).live then (t.lane (slot + k)).p.setWidth 32 else 0
  | .v _ => if (t.lane slot).live then t.regRead slot o k else 0
  | o => t.regRead slot o k

def apertureWrite (t : Team) (slot : Nat) (o : Operand) (k : Nat) (w : Word) : Team :=
  match o with
  | .p _ =>
    let l := t.lane (slot + k)
    if l.live then t.setLane (slot + k) { l with p := w.setWidth 7 } else t
  | .v _ => if (t.lane slot).live then t.regWrite slot o k w else t
  | o => t.regWrite slot o k w

def wordsOf : List Byte → List Word
  | a :: b :: c :: d :: bs => (d ++ c ++ b ++ a) :: wordsOf bs
  | _ => []

def wordBytes (w : Word) : List Byte := leBytes 4 w.toNat

/-- A sector of a die's scratchpad is poisoned, or its next reply has a bad flit. -/
def State.dieReplyPoisoned (s : State) (d off n : Nat) : Bool :=
  (s.die d).ram.poisoned off n || (sectorsOf off n).any fun x => s.badReplies.contains (.dieRam d x)

/-- Writes the die scratchpad; a sector whose flit is bad arrives poisoned (R255). -/
def State.dieWrite (s : State) (d off : Nat) (bs : List Byte) : State :=
  let ram := (s.die d).ram.write off (garble s.wrongWrites (.dieRam d) off bs)
  let s := if s.wrongWrites.isEmpty then s
    else { s with wrongWrites := s.wrongWrites.filter fun w => !(sectorsOf off bs.length).any fun x => w.1 == .dieRam d x }
  let hit := (sectorsOf off bs.length).filter fun x => s.badWrites.contains (.dieRam d x)
  let s := s.setDie { s.die d with ram := hit.foldl Ram.poisonUnit ram }
  if hit.isEmpty then s
  else
    { s with badWrites := s.badWrites.filter fun p => !hit.any fun x => p == FlitPlace.dieRam d x }.logEvent (d / 4)
      (.flitError d)

/-- Reads a location: the bytes, and whether some of them are poisoned (R179, R264). -/
def State.readLoc (s : State) (t : Team) (na : Bool) (n : Nat) : Loc → State × List Byte × Bool
  | .slice slot off => (s, (t.lane slot).slice.read off n, (t.lane slot).slice.poisoned off n)
  | .scratch off => (s, t.scratch.read off n, t.scratch.poisoned off n)
  | .regs slot o k => (s, (List.range k).flatMap fun i => wordBytes (apertureRead t slot o i), false)
  | .pool g off =>
    match s.gang? g with
    | some g => (s, g.pool.read off n, g.pool.poisoned off n)
    | none => (s, List.replicate n 0, false)
  | .dieRam d off => (s, garble s.wrongReplies (.dieRam d) off ((s.die d).ram.read off n), s.dieReplyPoisoned d off n)
  | .glb ps =>
    ps.foldl (fun (s, bs, bad) (va, pa, k) =>
      let (s, b, p) := s.l1Read t.coreNo t.ctx va pa k na
      (s, bs ++ b, bad || p)) (s, [], false)

/-- Bytes that each piece of an access takes. -/
def pieceBytes : List (Nat × Nat × Nat) → List Byte → List (Nat × Nat × List Byte)
  | [], _ => []
  | (va, pa, k) :: ps, bs => (va, pa, bs.take k) :: pieceBytes ps (bs.drop k)

/-- Writes a location. The team is the one that issues; slices, scratchpad and registers are its own. -/
def State.writeLoc (s : State) (t : Team) (na : Bool) (bs : List Byte) : Loc → State × Team
  | .slice slot off =>
    let l := t.lane slot
    (s, t.setLane slot { l with slice := l.slice.write off bs })
  | .scratch off => (s, { t with scratch := t.scratch.write off bs })
  | .regs slot o _ =>
    (s, ((wordsOf bs).zipIdx).foldl (fun t (w, i) => apertureWrite t slot o i w) t)
  | .pool g off =>
    match s.gang? g with
    | some g => (s.setGang { g with pool := g.pool.write off bs }, t)
    | none => (s, t)
  | .dieRam d off => (s.dieWrite d off bs, t)
  | .glb ps => ((pieceBytes ps bs).foldl (fun s (va, pa, b) => s.l1Write t.coreNo t.ctx va pa b na) s, t)

/-- The old bytes of an atomic access, read at the place that performs it (R172, R187, R251). -/
def State.homeReadLoc (s : State) (t : Team) (n : Nat) : Loc → State × List Byte × Bool
  | .glb ps =>
    ps.foldl (fun (s, bs, bad) (_, pa, k) =>
      let s := (s.l1Flush t.coreNo pa k).touchL2 pa k
      (s, bs ++ s.replyRead pa k, bad || s.replyPoisoned pa k)) (s, [], false)
  | l => s.readLoc t false n l

/-- Writes at the home: what atomics, scribes and remote operations do. -/
def State.homeWriteLoc (s : State) (t : Team) (bs : List Byte) : Loc → State × Team
  | .glb ps => ((pieceBytes ps bs).foldl (fun s (_, pa, b) => s.homeWrite pa b) s, t)
  | l => s.writeLoc t false bs l

/-! ### What the accesses of one pass do together (R179, R255, R264) -/

/-- A memory with marks of poison. -/
inductive Place where
  | home
  | dieRam (die : Nat)
  | pool (gang : Nat)
  | scratch
  | slice (slot : Nat)
  deriving DecidableEq, Repr

/-- The bytes that a location of `n` bytes names, with their memory; none in the aperture. -/
def Loc.bytes (n : Nat) : Loc → List (Place × Nat)
  | .glb ps => ps.flatMap fun (_, pa, k) => (List.range k).map fun i => (.home, pa + i)
  | .dieRam d off => (List.range n).map fun i => (.dieRam d, off + i)
  | .pool g off => (List.range n).map fun i => (.pool g, off + i)
  | .scratch off => (List.range n).map fun i => (.scratch, off + i)
  | .slice slot off => (List.range n).map fun i => (.slice slot, off + i)
  | .regs _ _ _ => []

/-- The crossbar flit that carries a byte. -/
def Place.flit : Place × Nat → Option FlitPlace
  | (.home, a) => some (.home (a / 32))
  | (.dieRam d, a) => some (.dieRam d (a / 32))
  | _ => none

/-- Nothing that a store of the team can reach is poisoned. -/
def State.unpoisoned (s : State) (t : Team) : Bool :=
  s.poison.isEmpty && s.dies.all (fun d => d.ram.poison.isEmpty) && s.gangs.all (fun g => g.pool.poison.isEmpty) &&
    t.scratch.poison.isEmpty && t.lanes.all fun l => l.slice.poison.isEmpty

/-- The stores of one pass together wrote these bytes: units that they cover whole are clean, but for a sector whose
flit arrived bad (`kept`). -/
def State.coverPass (s : State) (t : Team) (cover : List (Place × Nat)) (kept : List FlitPlace) : State × Team :=
  if s.unpoisoned t then (s, t)
  else
  let cover := cover.filter fun b => match Place.flit b with | some f => !kept.contains f | none => true
  let at' (p : Place) : List Nat := (cover.filter fun b => b.1 == p).map Prod.snd
  ((cover.map Prod.fst).eraseDups).foldl (fun (s, t) p =>
    match p with
    | .home => (s.clearPoison (at' .home), t)
    | .dieRam d => (s.setDie { s.die d with ram := (s.die d).ram.clear (at' p) }, t)
    | .pool g => (match s.gang? g with | some g => s.setGang { g with pool := g.pool.clear (at' p) } | none => s, t)
    | .scratch => (s, { t with scratch := t.scratch.clear (at' p) })
    | .slice i => (s, t.setLane i { t.lane i with slice := (t.lane i).slice.clear (at' p) })) (s, t)

/-- The sectors that replies to a read of a location carry; `home`: the read is performed at the home. -/
def Loc.flits (s : State) (t : Team) (home : Bool) (n : Nat) : Loc → List FlitPlace
  | .glb ps => ps.flatMap fun (va, pa, k) =>
    (if home then sectorsOf pa k
      else ((s.l1Line t.coreNo t.ctx va pa).lacks (pa % 128) k).map fun sec => pa / 128 * 4 + sec).map .home
  | .dieRam d off => (sectorsOf off n).map (.dieRam d)
  | _ => []

/-- A `.glb` access that the core's L1 cannot serve, and whose home cannot be reached (R247, R380). -/
def Loc.unreached (s : State) (t : Team) (home write : Bool) : Loc → Bool
  | .glb ps => ps.any fun (va, pa, k) =>
    (home || !s.l1Serves t.coreNo t.ctx va pa k write) && !s.reachable t.coreNo (homeDie pa)
  | _ => false

end Sys2Proof.Machine
end

