-- ==== Sys2Proof/Machine/Reedbed.lean ====
section
/-! DEFINITION. Fault queues, the Reedbed's records, gate slots and blotter slots: what exits, traps, posts and signals
act on (07 R157, 16 R294 to R314, 19 R354 to R361, 21 R389 to R397). -/
namespace Sys2Proof.Machine

/-! ### Fault queue (R341) -/

/-- A record that arrives at a full queue is dropped and the lost flag is set. -/
def Ctx.pushFault (c : Ctx) (r : FaultRec) : Ctx :=
  if c.faultQ.length < 1024 then { c with faultQ := c.faultQ ++ [r] } else { c with lost := true }

def State.recordFault (s : State) (r : FaultRec) : State :=
  match s.ctx? r.ctx with
  | some c => s.setCtx (c.pushFault r)
  | none => s

/-! ### Placement of entities (R296) -/

/-- Dies of a context over the fabric, by package and then die. -/
def Ctx.dies (c : Ctx) : List Nat := c.places.flatMap fun (p, ds) => ds.map (p * 4 + ·)

/-- The home die of an entity under an entry; `here` for entity 0. -/
def Ctx.home (c : Ctx) (e : Entry) (entity : Word) (here : Nat) : Nat :=
  if entity = 0 then here
  else
    let u := entity.toNat - 1
    match c.places[((u / 2 ^ e.pshift) &&& e.pmask) % c.places.length]? with
    | none => here
    | some (p, ds) =>
      match ds[((u / 2 ^ e.dshift) &&& e.dmask) % ds.length]? with
      | none => here
      | some d => p * 4 + d

def Ctx.hentry? (c : Ctx) (h : BitVec 12) : Option HEntry := getBy (fun x => x.index.toNat) h.toNat c.handlers
/-- A handler's entry where VALID is set. -/
def Ctx.handler? (c : Ctx) (h : BitVec 12) : Option Entry :=
  match c.hentry? h with
  | some x => if x.valid then some x.entry else none
  | none => none
/-- The fields of a handler's entry as last written, whatever VALID is; zero where nothing was written. -/
def Ctx.handlerFields (c : Ctx) (h : BitVec 12) : Entry := ((c.hentry? h).map HEntry.entry).getD {}

/-! ### Pending records (R294, R298) -/

/-- The order key. -/
def PRec.key (r : PRec) : Nat :=
  ((r.ev.time.toNat * 2 ^ 16 + r.ev.tie.toNat) * 2 ^ 18 + r.poster) * 2 ^ 64 + r.seq.toNat

def insertRec (r : PRec) : List PRec → List PRec
  | [] => [r]
  | x :: xs => if r.key < x.key then r :: x :: xs else x :: insertRec r xs

/-! #### Levels (R298, R299)

A context's share of the 262,144 near places is divided as the whole is: one part in sixteen for the front, the rest
for the calendar (notes/assumptions/36). Levels change no order. -/

def CtxDie.frontCap (d : CtxDie) : Nat := d.share / 16
def CtxDie.calendarCap (d : CtxDie) : Nat := d.share - d.frontCap

def CtxDie.atLevel (d : CtxDie) (p : RbLevel → Bool) : List PRec := d.pending.filter fun r => p r.level

/-- Times inside the calendar window. -/
def CtxDie.inWindow (d : CtxDie) (time : Nat) : Bool := decide (time < d.window + 4096 * 2 ^ d.calw)

/-- The runs that hold records. -/
def CtxDie.runs (d : CtxDie) : List Nat :=
  d.pending.foldl (fun l r => match r.level with | .run n => if l.contains n then l else n :: l | _ => l) []

/-- The run that takes a record: the newest with fewer than 65,536 records, else a new one where DEEPLIM allows it. -/
def CtxDie.runFor (d : CtxDie) (k : Control) : Option RbLevel :=
  match d.runs.find? fun n => decide ((d.atLevel fun l => l == .run n).length < 65536) with
  | some n => some (.run n)
  | none => if d.runs.length < k.deepLim then some (.run (d.runs.foldl max 0 + 1)) else none

/-- Calendar while it has room, else the deep store; the front where neither has (DESIGN CHOICE, notes/assumptions/36: a DEEPLIM
lowered below the runs in use leaves no other place). -/
def CtxDie.outOfFront (d : CtxDie) (k : Control) (time : Nat) : RbLevel :=
  if d.inWindow time && decide ((d.atLevel fun l => l == .calendar).length < d.calendarCap) then .calendar
  else (d.runFor k).getD .front

/-- Where a new record goes: into the front where it sorts below the front's largest record. -/
def CtxDie.levelFor (d : CtxDie) (k : Control) (r : PRec) : RbLevel :=
  let front := d.atLevel fun l => l == .front
  if d.pending.isEmpty || front.any (fun q => decide (r.key < q.key)) || decide (r.ev.time.toNat < d.window) then .front
  else d.outOfFront k r.ev.time.toNat

def CtxDie.relevel (d : CtxDie) (f : PRec → RbLevel) : CtxDie :=
  { d with pending := d.pending.map fun r => { r with level := f r } }

/-- The front falls back to its size: its largest records leave it, one after another. -/
def CtxDie.trimFront (k : Control) : Nat → CtxDie → CtxDie
  | 0, d => d
  | n + 1, d =>
    match (d.atLevel fun l => l == .front).reverse with
    | [] => d
    | r :: rest =>
      if rest.length < d.frontCap then d
      else CtxDie.trimFront k n (d.relevel fun q => if q.key = r.key then d.outOfFront k r.ev.time.toNat else q.level)

def CtxDie.calendarEmpty (d : CtxDie) : Bool := (d.atLevel fun l => l == .calendar).isEmpty

/-- The calendar's window moves to the least record behind the front, or to the front's largest where none stands behind it: runs
give it what lies inside. A new CALW takes effect while the calendar is empty. -/
def CtxDie.moveWindow (d : CtxDie) (k : Control) : CtxDie :=
  let d := if d.calendarEmpty then { d with calw := k.calw } else d
  match (d.atLevel fun l => l != .front).head?.or d.pending.getLast? with
  | none => d
  | some r =>
    let d := { d with window := r.ev.time.toNat / 2 ^ d.calw * 2 ^ d.calw }
    d.pending.foldl (fun (d : CtxDie) q =>
      match q.level with
      | .run _ =>
        if d.outOfFront k q.ev.time.toNat = .calendar then d.relevel fun p => if p.key = q.key then .calendar else p.level
        else d
      | _ => d) d

/-- The front takes the least occupied bucket whole. -/
def CtxDie.drainBucket (d : CtxDie) (k : Control) : CtxDie :=
  let d := d.moveWindow k
  match d.atLevel fun l => l == .calendar with
  | [] => d
  | r :: _ =>
    let bucket (q : PRec) : Nat := q.ev.time.toNat / 2 ^ d.calw
    d.relevel fun q => if q.level = .calendar ∧ bucket q = bucket r then .front else q.level

/-- Buckets drain while the front is below half its size and something stands behind it. -/
def CtxDie.drain (k : Control) : Nat → CtxDie → CtxDie
  | 0, d => d
  | n + 1, d =>
    let front := (d.atLevel fun l => l == .front).length
    if d.frontCap / 2 ≤ front || front == d.pending.length then d else CtxDie.drain k n (d.drainBucket k)

/-- The levels after records came or went. -/
def CtxDie.settleLevels (d : CtxDie) (k : Control) : CtxDie :=
  let d := CtxDie.drain k d.pending.length (CtxDie.trimFront k d.pending.length d)
  if d.calendarEmpty then d.moveWindow k else d

/-- A record joins the pending ones at its order-key position. -/
def CtxDie.put (d : CtxDie) (k : Control) (r : PRec) : CtxDie :=
  let d := if d.calendarEmpty then d.moveWindow k else d
  { d with pending := insertRec { r with level := d.levelFor k r } d.pending }.settleLevels k

/-- Records that the die holds for the context: pending ones and those in open bins. -/
def CtxDie.held (c : CtxDie) : Nat := c.pending.length + (c.bins.map fun b => b.recs.length).sum

/-- Free places (R314). -/
def freePlaces (c : Ctx) (d : CtxDie) : Nat := d.share + c.control.deepLim * 65536 - d.held

def refusing (c : Ctx) (d : CtxDie) : Bool := decide (freePlaces c d < 65536)

/-! #### Eligibility and %round (R303, R306) -/

/-- The conditions of R303 but for entity serialisation. -/
def eligibleBase (c : Ctx) (d : CtxDie) (r : PRec) : Bool :=
  decide (r.ev.time.toNat < d.h.toNat) && decide (r.ev.time.toNat < c.control.stop.toNat) && !c.control.hold &&
    (c.handler? r.ev.handler).isSome && !d.frozen.contains r.ev.handler

/-- Event lanes of an entity that a die has dispatched and that have not exited, by their order keys: each home die
serialises the entity's events on its own (R297). -/
def State.entityLanes (s : State) (ctx die : Nat) (e : Word) : List Nat :=
  (s.teams.flatMap fun t =>
    if t.ctx = ctx ∧ t.handler.isSome then
      (t.lanes.filter fun l => l.live && l.entity == e && l.home == die).map Lane.order
    else []) ++
  (s.die die).formed.flatMap fun f =>
    if f.ctx = ctx then (f.lanes.filter fun l => l.ev.entity == e).map FormedLane.order else []

/-- %round of a record that becomes eligible: the entity's records before it in order-key order that are eligible and
not exited. -/
def State.roundOf (s : State) (c : Ctx) (d : CtxDie) (r : PRec) : Word :=
  if r.ev.entity = 0 then 0
  else
    let waiting := (d.pending ++ d.bins.flatMap Bin.recs).filter fun q =>
      q.ev.entity == r.ev.entity && decide (q.key < r.key) && eligibleBase c d q
    let lanes := (s.entityLanes c.id d.die r.ev.entity).filter fun k => decide (k < r.key)
    BitVec.ofNat 32 (waiting.length + lanes.length)

/-- Fixes %round of the records that have become eligible on a die. -/
def State.markRounds (s : State) (ctx die : Nat) : State :=
  match s.ctx? ctx with
  | none => s
  | some c =>
    let d := s.ctxDie ctx die
    if d.pending.any fun r => r.round.isNone && eligibleBase c d r then
      s.setCtxDie { d with pending := d.pending.map fun r =>
        if r.round.isNone && eligibleBase c d r then { r with round := some (s.roundOf c d r) } else r }
    else s

/-- Records in open bins that are no longer eligible are pending again (R303). -/
def CtxDie.returnBins (d : CtxDie) (c : Ctx) : CtxDie :=
  let out := d.bins.flatMap fun b => b.recs.filter fun r => !eligibleBase c d r
  let bins := (d.bins.map fun b => { b with recs := b.recs.filter (eligibleBase c d) }).filter fun b => !b.recs.isEmpty
  out.foldl (fun d r => d.put c.control r) { d with bins := bins }

/-- The die tests the conditions of eligibility again. -/
def State.retestBins (s : State) (ctx die : Nat) : State :=
  match s.ctx? ctx with
  | none => s
  | some c => (s.setCtxDie ((s.ctxDie ctx die).returnBins c)).markRounds ctx die

/-- The control block of a context. -/
def State.controlOf (s : State) (ctx : Nat) : Control := ((s.ctx? ctx).map Ctx.control).getD {}

/-- Inserts a record at its home die and counts it when SHORT (R304). -/
def State.insertRecord (s : State) (ctx die : Nat) (r : PRec) : State :=
  let s := s.setCtxDie ((s.ctxDie ctx die).put (s.controlOf ctx) r)
  let s := match s.ctx? ctx with
    | some c => if r.ev.short then s.setCtx { c with short := c.short + 1 } else s
    | none => s
  s.markRounds ctx die

/-! ### Scopes (R353, R354) -/

/-- A core is contained in a scope as the team names it. -/
def State.scopeHasCore (s : State) (t : Team) (scope pkg core : Nat) : Bool :=
  match scope with
  | 0 | 1 => pkg == t.pkg && core == t.core
  | 2 => pkg == t.pkg && core / 4 == t.core / 4
  | 3 => pkg == t.pkg && core / 128 == t.core / 128
  | 4 => pkg == t.pkg
  | _ =>
    match s.ctx? t.ctx with
    | none => false
    | some c =>
      let inside := c.places.any fun (p, _) => p == pkg
      match if scope ≤ 5 then none else getBy ScopeEntry.index scope c.scopes with
      | none => inside
      | some e => (inside && e.pkgMask.getLsbD pkg && e.coreMask.getLsbD core) || (pkg == t.pkg && core == t.core)

/-- A destination die is contained when any of its cores is (R354). -/
def State.scopeHasDie (s : State) (t : Team) (scope die : Nat) : Bool :=
  (List.range 128).any fun i => s.scopeHasCore t scope (die / 4) (die % 4 * 128 + i)

/-! ### Blotter slots (R389 to R395) -/

/-- Element bytes (Table 21.2). -/
def Element.size (e : Element) : Nat :=
  match e.kind with
  | .store | .reduction => if e.w64 then 16 else 12
  | .post => 40
  | .cancel => 24
  | .signal => 8

def BlotterSlot.size (b : BlotterSlot) : Nat := (b.elems.map Element.size).sum

/-- A packet of the triple is not acknowledged. -/
def Die.inFlight (d : Die) (ctx dst : Nat) : Bool := d.packets.any fun p => p.ctx == ctx && p.dst == dst

/-- A slot departs when its triple has no packet unacknowledged (R392), nothing of its triple or from its slot number
is to be sent again first (R393), no packet from its slot number that may have to be sent again is on its way to another die
(R266), and the resend store has room (R395). Packets of one slot to one die can follow each other: the die refuses what comes
after a refusal. -/
def Die.canDepart (d : Die) (b : BlotterSlot) : Bool :=
  decide (d.packets.length < 1024) && !d.inFlight b.ctx b.dst && !d.packets.any (fun p => p.slot == b.slot && p.dst != b.dst) &&
    !d.resend.any fun r => r.slot == b.slot || (r.ctx == b.ctx && r.dst == b.dst)

/-- The packet leaves and the slot is free. -/
def Die.depart (d : Die) (b : BlotterSlot) : Die :=
  { d with
    blotters := delBy BlotterSlot.slot b.slot d.blotters
    packets := d.packets ++ [{ id := d.nextPacket, order := d.nextPacket, slot := b.slot, ctx := b.ctx, dst := b.dst, elems := b.elems }]
    nextPacket := d.nextPacket + 1 }

/-- The lowest free slot number. -/
def Die.freeSlot (d : Die) : Option Nat := (List.range 256).find? fun i => !d.blotters.any fun b => b.slot == i

/-- The bound slot whose first element is oldest (R389). -/
def Die.oldest (d : Die) : Option BlotterSlot :=
  d.blotters.foldl (fun o b => match o with
    | none => some b
    | some c => if b.since < c.since then some b else some c) none

/-- Binds the lowest free slot to an element's triple, evicting the oldest where none is free; none while that cannot leave
yet. -/
def Die.bindSlot (d : Die) (ctx dst now : Nat) (e : Element) : Option Die :=
  let put (d : Die) : Option Die :=
    d.freeSlot.map fun i => { d with blotters := d.blotters ++ [{ slot := i, ctx := ctx, dst := dst, elems := [e], since := now }] }
  match d.freeSlot with
  | some _ => put d
  | none => match d.oldest with
    | some b => if d.canDepart b then put (d.depart b) else none
    | none => none

/-- An element enters a slot of its triple; none where it cannot enter yet (R391, R395). -/
def Die.enter (d : Die) (ctx dst now : Nat) (e : Element) : Option Die :=
  match d.blotters.find? fun b => b.ctx == ctx && b.dst == dst with
  | some b =>
    if b.size + e.size ≤ 256 then
      some { d with blotters := d.blotters.map fun c => if c.slot = b.slot then { c with elems := c.elems ++ [e] } else c }
    else if d.canDepart b then (d.depart b).bindSlot ctx dst now e
    else none
  | none => d.bindSlot ctx dst now e

def State.enterElement (s : State) (die ctx dst : Nat) (e : Element) : Option State :=
  ((s.die die).enter ctx dst (s.cycle (die / 4)) { e with entered := s.tick }).map s.setDie

/-- Asks slots to depart: those that may leave do so at once, the others when they can (R391). -/
def Die.pushSlots (d : Die) (which : BlotterSlot → Bool) : Die :=
  (d.blotters.filter which).foldl (fun d b =>
    if d.canDepart b then d.depart b
    else { d with blotters := d.blotters.map fun c => if c.slot = b.slot then { c with push := true } else c }) d

/-- Elements of a team that are entered and not acknowledged, with their destinations. -/
def State.outstanding (s : State) (t : Nat) (die : Nat) : List (Element × Nat) :=
  let d := s.die die
  let of (es : List Element) (dst : Nat) := (es.filter fun e => e.team == t).map fun e => (e, dst)
  d.blotters.flatMap (fun b => of b.elems b.dst) ++ d.packets.flatMap (fun p => of p.elems p.dst) ++
    d.resend.flatMap fun b => of b.elems b.dst

/-! ### Gates (R309 to R312) -/

def gateSlotOf (h : Word) : Nat := h.toNat % 2 ^ 16
/-- The die of a handle, over the fabric: package × 4 + die. -/
def gateDieOf (h : Word) : Nat := h.toNat / 2 ^ 18 % 512 * 4 + h.toNat / 2 ^ 16 % 4
def gateHandle (die slot : Nat) : Word := BitVec.ofNat 32 (die / 4 * 2 ^ 18 + die % 4 * 2 ^ 16 + slot)

def Die.gate? (d : Die) (slot : Nat) : Option Gate := getBy Gate.slot slot d.gates

/-- STATE is 2 and COUNT ≤ 0. -/
def Gate.due (g : Gate) : Bool := g.published && decide (g.count ≤ 0)

/-- The record as a firing posts it (R310). -/
def firedRecord (c : Ctx) (h : DWord) (g : Gate) : PRec :=
  let t0 := h.toNat - c.control.lookahead.toNat
  let ev := { g.record with gated := true }
  { ev := if ev.time.toNat < t0 then { ev with time := BitVec.ofNat 64 t0, short := true } else ev
    poster := g.poster, seq := g.seq }

def QRec.openWait (handle : Word) (r : QRec) : QRec := if r.rec'.wgate = some handle then { r with waits := false } else r

/-- Wait gates of launch records that name a gate become open (R323, R330). -/
def State.openWaits (s : State) (ctx : Nat) (handle : Word) : State :=
  { s with
    ctxPkgs := s.ctxPkgs.map fun cp =>
      if cp.ctx = ctx then { cp with queues := cp.queues.map fun (q, rs) => (q, rs.map (QRec.openWait handle)) } else cp
    teams := s.teams.map fun t =>
      if t.ctx = ctx then
        { t with splits := t.splits.map fun x => match x.block with
            | .launching r q => { x with block := .launching (r.openWait handle) q }
            | _ => x }
      else t }

/-- Fires a gate that is due: the slot is freed and the record is posted, unless its home refuses it (R310, R314). -/
def State.fireGate (s : State) (die slot : Nat) : State :=
  match (s.die die).gate? slot with
  | none => s
  | some g =>
    match s.ctx? g.ctx with
    | none => s
    | some c =>
      if !g.due then s
      else
        let r := firedRecord c (s.ctxDie g.ctx die).h g
        let e := c.handlerFields g.record.handler
        let home := c.home e g.record.entity die
        let free (s : State) : State :=
          (s.setDie { s.die die with gates := delBy Gate.slot slot (s.die die).gates }).openWaits g.ctx
            (gateHandle die slot)
        if home = die then
          if refusing c (s.ctxDie g.ctx die) then s else free (s.insertRecord g.ctx die r)
        else
          match s.enterElement die g.ctx home
              { kind := .post, rec' := some r, team := 0, core := g.poster, lane := 0, pc := 0, byLane := false } with
          | none => s
          | some s => free s

/-- COUNT saturates at 32 bits (R310). -/
def satCount (x : Int) : Int := max (-(2 ^ 31)) (min (2 ^ 31 - 1) x)

/-- The source that a GATE_FREE record names (R311). -/
structure GateSource where
  ctx : Nat
  core : Nat
  pkg : Nat
  team : Word
  pc : Pc
  slots : Word
  deriving DecidableEq, Repr

def gateFree (s : State) (src : GateSource) (handle : Word) : State :=
  s.recordFault { code := codeGateFree, level := 4, ctx := src.ctx, flags := 0x08, core := src.core, pkg := src.pkg
                  team := src.team, slots := src.slots, pc := src.pc.setWidth 64, addr := handle.setWidth 64 }

/-- The handle names a slot of a package of the context. -/
def handleOk (c : Ctx) (h : Word) : Bool :=
  h.extractLsb' 27 5 == 0 && c.places.any fun (p, _) => p == gateDieOf h / 4

/-- The gate at which a signal (`none`) or a publish takes effect; none where it is dropped (R311). -/
def State.gateHit (s : State) (ctx : Nat) (handle : Word) (publish : Bool) : Option Gate :=
  match s.ctx? ctx with
  | none => none
  | some c =>
    match if handleOk c handle then (s.die (gateDieOf handle)).gate? (gateSlotOf handle) else none with
    | none => none
    | some g => if g.ctx ≠ ctx ∨ (publish ∧ g.published) then none else some g

/-- Takes effect at the slot: a signal (`none`) or a publish with its count; dropped under R311. -/
def State.gateAct (s : State) (src : GateSource) (handle : Word) (publish : Option Nat) : State :=
  let die := gateDieOf handle
  match s.gateHit src.ctx handle publish.isSome with
  | none => gateFree s src handle
  | some g =>
    let g' := match publish with
      | none => { g with count := satCount (g.count - 1) }
      | some n => { g with count := satCount (g.count + n), published := true }
    (s.setDie { s.die die with gates := setBy Gate.slot g' (s.die die).gates }).fireGate die g.slot

end Sys2Proof.Machine
end

