-- ==== Sys2Proof/Machine/Operands.lean ====
section
/-! DEFINITION. Operand forms: the part of check 6 that depends on the team, check 7, immediates, queue pops, reading
sources and writing destinations (03 R34 to R40, 06 R112 to R115, 08 R191 to R194). -/
namespace Sys2Proof.Machine

/-! ### Checks 6 and 7 (Table 3.15) -/

/-- One register group against the team: `.vregs`, the trap handler, the planes (Tables 3.9, 3.10, R207). -/
def groupAllowed (t : Team) (inHandler : Bool) (g : RegGroup) : Bool :=
  match g.1 with
  | .v i => decide (i.toNat + g.2 ≤ t.entry.vregs)
  | .h _ | .j _ => inHandler
  | .w i => i == 0 && t.entry.planes == 1
  | _ => true

/-- Check 6 as far as the team decides it. -/
def operandsAllowed (i : Instr) (t : Team) (inHandler : Bool) : Bool :=
  (i.reads ++ i.writes).all (groupAllowed t inHandler)

/-- The types that the entry lists (Table 6.3). -/
def fpTypes : Instr → Option (FType × List FType)
  | .fadd x | .fsub x | .fmul x | .ffma x | .fmin x | .fmax x | .faddmin x | .fclass x | .frnd x =>
    some (x.ty, [.f32, .bf16x2, .f16x2])
  | .fcmp _ x | .frcp x | .frsq x | .fsqrt x | .fexp2 x | .flog2 x | .fsin x | .fcos x | .ftanh x => some (x.ty, [.f32])
  | .hfma2 x | .hadd2 x | .hmul2 x => some (x.ty, [.bf16x2, .f16x2])
  | _ => none

/-- Check 7. -/
def fpTypeOk (i : Instr) : Bool :=
  match fpTypes i with
  | some (t, l) => l.contains t
  | none => true

/-! ### Immediates (R36, R115, R123) -/

/-- IMM8 as an integer operand of a width: extended to the element, placed in every element. -/
def immInt (w : IWidth) (sgn : Bool) (imm : BitVec 8) (k : Nat) : Word :=
  let ext : Word := if sgn then imm.signExtend 32 else imm.setWidth 32
  match w with
  | .w32 => ext
  | .w64 => if k = 0 then ext else if sgn && imm.getLsbD 7 then 0xFFFFFFFF else 0
  | .x16 => let h := ext.extractLsb' 0 16; h ++ h
  | .x8 => imm ++ imm ++ imm ++ imm

/-- E4M3, converted exactly to the type, in both elements of a packed type. -/
def immFp (ty : FType) (imm : BitVec 8) : Word :=
  let x := e4m3.decode imm.toNat
  let two (f : Fmt) : Word := let b : BitVec 16 := BitVec.ofNat 16 (f.round .rne false x).1; b ++ b
  match ty with
  | .bf16x2 => two bf16
  | .f16x2 => two fp16
  | _ => BitVec.ofNat 32 (fp32.round .rne false x).1

/-- IMM8 zero-extended, in every other layout. -/
def immPlain (imm : BitVec 8) (k : Nat) : Word := if k = 0 then imm.setWidth 32 else 0

/-! ### Operand queues (R189 to R194) -/

/-- Byte width of an element. -/
def elemBytes (e : Nat) : Nat := if e = 0 then 4 else if e ≤ 2 then 2 else 1

/-- Extension of an element's bytes (Table 8.6). -/
def elemExtend (e : Nat) (bs : List Byte) : Word :=
  let n := leNat bs
  if e = 2 then BitVec.ofInt 32 (readInt 16 true n)
  else if e = 4 then BitVec.ofInt 32 (readInt 8 true n)
  else BitVec.ofNat 32 n

/-- Address of element n for a slot, modulo 2^64 (R191). -/
def Stream.address (q : Stream) (slot n : Nat) : Nat :=
  wrapInt 64 ((q.base : Int) + slot * q.lstride + (n % q.count1 : Nat) * q.stride1 + (n / q.count1 : Nat) * q.stride2)

/-- A run-ahead load: weak, and silent when it fails (R193, R194). -/
def State.loadElem (s : State) (t : Team) (q : Stream) (slot n : Nat) : State × ElemLoad :=
  let a := q.address slot n
  if q.space ≠ .glb ∧ 2 ^ 32 ≤ a then (s, .failed)
  else
    match s.locate t slot q.space a { bytes := elemBytes q.elem, kind := .read, aligned := true } with
    | (s, .ok l) =>
      if l.unreached s t false false then (s, .failed)
      else
      match s.readLoc t false (elemBytes q.elem) l with
      | (s, bs, bad) => (s, if bad then .failed else .val (elemExtend q.elem bs))
    | (s, .error (.replay va)) => (s, .replay va)
    | (s, .error (.fault _)) => (s, .failed)

/-- What a pop meets, over the contributing slots in order. -/
inductive PopResult where
  | ok (vals : List (Nat × Word))
  /-- FEED_FAULT: address of the lowest failing slot, the failing slots. -/
  | fault (addr : Nat) (slots : List Nat)
  /-- No stream. -/
  | absent
  /-- Replayable outcomes: slot, element address, and the address whose page failed. -/
  | replay (lanes : List (Nat × Nat × Nat))
  /-- Some element has not arrived (R192). -/
  | waiting
  deriving DecidableEq, Repr

/-- Element P of a slot, where it has arrived. -/
def Stream.arrived (q : Stream) (slot : Nat) : Option ElemLoad :=
  (q.queued.find? fun e => e.n == q.pos.toNat && e.slot == slot).map QElem.load

/-- The outcome of a pop by the contributing slots: failed elements first, then replayable ones. -/
def Stream.outcome (q : Stream) (slots : List Nat) : PopResult :=
  let got := slots.map fun i => (i, q.arrived i)
  if got.any fun g => g.2.isNone then .waiting
  else
    match got.filter fun g => g.2 == some .failed with
    | g :: gs => .fault (q.address g.1 q.pos.toNat) ((g :: gs).map Prod.fst)
    | [] =>
      match got.filterMap fun (i, e) => match e with
        | some (.replay va) => some (i, q.address i q.pos.toNat, va)
        | _ => none with
      | w :: ws => .replay (w :: ws)
      | [] => .ok (got.filterMap fun (i, e) => match e with | some (.val w) => some (i, w) | _ => none)

/-- One pop of queue `i` by the contributing slots (R38, R191). P advances only when every slot has its element. -/
def Team.pop (t : Team) (i : BitVec 2) (slots : List Nat) : Team × PopResult :=
  let q := t.f[i.toNat]
  if !q.active then (t, .absent)
  else
    match q.outcome slots with
    | .ok vals =>
      let q' := { q with pos := q.pos + 1, queued := q.queued.filter fun e => e.n != q.pos.toNat }
      ({ t with f := t.f.set i.toNat q' }, .ok vals)
    | r => (t, r)

def popVal (l : List (Nat × Word)) (slot : Nat) : Word := ((l.find? fun e => e.1 == slot).map Prod.snd).getD 0

/-- The queue that a source field pops: an f-queue in a field that is no destination, outside `feed`, `fstop` and
`fpos` (R38). -/
def popsField (i : Instr) (o : Operand) : Option (BitVec 2) :=
  match i, o with
  | .feed _, _ | .fstop _, _ | .fpos _, _ => none
  | _, .f q => some q
  | _, _ => none

/-! ### Sources and destinations -/

/-- A source value of a slot: register `k` of the group in the field. -/
def readField (t : Team) (pop : List (Nat × Word)) (imm : Nat → Word) (slot : Nat) (o : Operand) (k : Nat) : Word :=
  match o with
  | .f _ => if k = 0 then popVal pop slot else 0
  | .imm => imm k
  | o => t.regRead slot o k

/-- A register pair, low word first (R51). -/
def pair (lo hi : Word) : DWord := hi ++ lo

/-- The slots for which an instruction computes: one when the destination is the team's (R35), else every one. -/
def execSlots (d : Operand) (slots : List Nat) : List Nat :=
  match d with
  | .s _ | .k _ => slots.take 1
  | _ => slots

/-- The writes of a result group to a destination. -/
def destWrites (d : Operand) (slot : Nat) (ws : List Word) : List RegWrite :=
  match d with
  | .zero => []
  | .s _ | .k _ | .j _ => ws.zipIdx.map fun (w, i) => ⟨none, nthReg d i, w⟩
  | _ => ws.zipIdx.map fun (w, i) => ⟨some slot, nthReg d i, w⟩

end Sys2Proof.Machine
end

