-- ==== Sys2Proof/Machine/Space.lean ====
section
/-! DEFINITION. The unified store of a core: what teams take, what fits, and the regroups that wait on a core
(08 R160 to R162, 09 R197 to R199, R207, 10 R221). -/
namespace Sys2Proof.Machine

/-! ### Allocations (R160 to R162) -/

/-- Bytes in 1 KiB granules, rounded up. -/
def granules (n : Nat) : Nat := (n + 1023) / 1024

/-- Granules that a team of `l` lanes takes (R161). -/
def Entry.granules (e : Entry) (l : Nat) : Nat :=
  Machine.granules (2048 + l * (4 * e.vregs + 64)) + Machine.granules e.scratch + Machine.granules (l * e.slice) +
    Machine.granules (160 * e.splitspill)

/-- A team that holds a place on its core. -/
def Team.placed (t : Team) : Bool := t.status == .resident || t.status == .held

def State.coreTeams (s : State) (c : Nat) : List Team := s.teams.filter fun t => t.placed && t.coreNo == c

/-- Share of each core in the pool of its cluster, in granules (R221). -/
def poolShare (bytes : Nat) : Nat := (bytes + 4 * 65536 - 1) / (4 * 65536) * 64

def State.clusterPool (s : State) (cluster : Nat) : Nat :=
  (s.gangs.filter fun g => g.cluster == cluster && g.poolSize != 0 && g.placed).foldl (fun m g => max m g.poolSize) 0

/-- Granules of the scratchpads that commands of teams that are gone keep (R271). -/
def State.orphanGranules (s : State) (c : Nat) : Nat :=
  let d := s.die (c / 128)
  let l := (d.cmds.filterMap fun m => if m.core = c then m.orphan.map fun o => (m.team, Machine.granules o.2) else none) ++
    d.routes.filterMap fun m => if m.core = c then m.orphan.map fun o => (m.team, Machine.granules o) else none
  (l.eraseDups.map Prod.snd).sum

/-- The entry that the participants of a regroup share. -/
def State.regroupEntry (s : State) (r : Regroup) : Entry := ((r.participants.head?.bind s.team?).map Team.entry).getD {}

/-- What relocations in progress on a core may still take: an entry for each further team that they counted (R199). -/
def State.relocationTeams (s : State) (c : Nat) : List Entry :=
  (s.core c).regroups.flatMap fun r => match r.nmax with
    | some n => List.replicate (n - r.participants.length) (s.regroupEntry r)
    | none => []

/-- Positions of a core that teams hold, or that a relocation has counted. -/
def State.coreCount (s : State) (c : Nat) : Nat := (s.coreTeams c).length + (s.relocationTeams c).length

/-- Granules of the team region that no resident team holds. -/
def State.coreFree (s : State) (c : Nat) : Nat :=
  1792 - poolShare (s.clusterPool (c / 4)) - ((s.coreTeams c).map fun t => t.entry.granules t.lanes.length).sum -
    ((s.relocationTeams c).map fun e => e.granules e.lanes).sum - s.orphanGranules c

/-- The commands of a team that is gone run on; its scratchpad is theirs (R271). One that is not forked yet is gone. -/
def State.orphanCmds (s : State) (t : Team) : State :=
  let d := s.die t.dieNo
  if (d.cmds.any fun m => m.team == t.key) || d.routes.any fun m => m.team == t.key then
    s.setDie { d with
      cmds := d.cmds.map fun m => if m.team = t.key then { m with orphan := some (t.scratch, t.entry.scratch) } else m
      routes := (d.routes.filter fun m => !(m.team == t.key && m.alloc.isSome)).map fun m => if m.team = t.key then { m with orphan := some t.entry.scratch } else m }
  else s

/-! ### Weight-plane pairs (R207) -/

def Core.pair (c : Core) (i : Nat) : PlanePair := (c.planes[i]?).getD {}

def Core.setPair (c : Core) (i : Nat) (p : PlanePair) : Core :=
  { c with planes := ((List.range 8).map c.pair).set i p }

def Core.freePairs (c : Core) : List Nat := (List.range 8).filter fun i => (c.pair i).owner.isNone

/-- A `wload` in flight completes: the shadow plane is loaded (R211, R213). -/
def PlanePair.settle (p : PlanePair) : PlanePair :=
  match p.loading with
  | some x => { p with shadow := x, loading := none }
  | none => p

/-- Both planes of a team's pair become empty (R210, R214). -/
def State.emptyPair (s : State) (t : Team) : State :=
  match t.plane with
  | none => s
  | some i =>
    let c := s.core t.coreNo
    s.setCore (c.setPair i { c.pair i with active := {}, shadow := {}, loading := none })

/-- Free pairs of a core that no relocation has counted. -/
def State.pairsLeft (s : State) (c : Nat) : Nat :=
  (s.core c).freePairs.length - ((s.relocationTeams c).filter fun e => e.planes == 1).length

/-- A team is placed on a core only when all of this holds (R162, R207); `keep`: positions that stay free, one for event
teams where another kind of team is placed (R315, R327). -/
def State.fitsCore (s : State) (c : Nat) (e : Entry) (l keep : Nat) : Bool :=
  decide (s.coreCount c + keep < Config.teamsPerCore) && decide (e.granules l ≤ s.coreFree c) &&
    (e.planes == 0 || decide (0 < s.pairsLeft c))

/-- Positions that a team leaves free for event teams when it is placed. -/
def Team.keeps (t : Team) : Nat := if t.handler.isSome then 0 else 1

/-- A fresh team id of a package; 0xFFFFFFFF names no team (R242). -/
def State.freshTeam (s : State) (p : Nat) : State × Word :=
  let k := s.pkg p
  let id := if k.nextTeam = 0xFFFFFFFF then 0 else k.nextTeam
  (s.setPkg { k with nextTeam := id + 1 }, id)

/-! ### Regroups that wait (R197, R199, R204) -/

/-- Further teams of the entry's full size that fit beside the resident ones (R199). -/
def State.furtherTeams (s : State) (c : Nat) (e : Entry) : Nat :=
  let n := s.coreCount c
  let byRoom := s.coreFree c / max 1 (e.granules e.lanes)
  let byPairs := if e.planes = 1 then s.pairsLeft c else Config.teamsPerCore
  min (Config.teamsPerCore - n) (min byRoom byPairs)

def State.regroupMax (s : State) (c : Nat) (r : Regroup) : Nat :=
  let n := r.participants.length + s.furtherTeams c (s.regroupEntry r)
  if r.gang.isSome then min n 16 else n

/-- Splits that wait for a regroup of which their team is no arrival issue again. -/
def State.wakeRegroup (s : State) (c : Nat) : State :=
  let arrived := (s.core c).regroups.flatMap fun r => r.arrivals.map RegroupArrival.team
  { s with teams := s.teams.map fun t =>
      if t.coreNo = c ∧ !arrived.contains t.key then
        { t with splits := t.splits.map fun x => if x.block = .regroup then { x with wait := .ready, block := .none, again := true } else x }
      else t }

/-- In a gang every team of it is a participant (R201). -/
def State.wholeGang (s : State) (r : Regroup) : Bool :=
  r.gang.isNone || s.teams.all fun u => u.gang != r.gang || r.participants.contains u.key

/-- When every participant has arrived, relocation starts (R199); a set without participants is gone. -/
def State.settleRegroups (s : State) (c : Nat) : State :=
  let k := s.core c
  let rs := (k.regroups.filter fun r => !r.participants.isEmpty).map fun r =>
    if r.nmax.isNone ∧ r.aborted.isNone ∧ r.arrivals.length = r.participants.length ∧ s.wholeGang r then
      { r with nmax := some (s.regroupMax c r) }
    else r
  (s.setCore { k with regroups := rs }).wakeRegroup c

/-- A team leaves the regroups of its core: it ended, or its arrival is withdrawn. The timer goes on from the first
arrival, also where that is the one withdrawn: DESIGN CHOICE (R204 and R235 do not say; notes/assumptions/18). -/
def State.leaveRegroup (s : State) (t : Team) : State :=
  let k := s.core t.coreNo
  if k.regroups.any fun r => r.participants.contains t.key then
    (s.setCore { k with regroups := k.regroups.map fun r => { r with
      participants := r.participants.filter fun p => p != t.key
      arrivals := r.arrivals.filter fun a => a.team != t.key } }).settleRegroups t.coreNo
  else s

end Sys2Proof.Machine
end

