-- ==== Sys2Proof/Machine/Sync.lean ====
section
/-! DEFINITION. Results in flight, and what splits and teams wait for at `gbar`, `tsync` and `xshuf`
(03 R30, 05 R106, 10 R226 to R235). -/
namespace Sys2Proof.Machine

/-! ### Results in flight (R30, R106, R107) -/

/-- Every earlier instruction of a split completes (R152). -/
def Team.landSplit (t : Team) (id : Nat) : Team := t.landWhere fun l => l.split == id

/-- Every earlier instruction of the team completes. -/
def Team.landAll (t : Team) : Team := t.landWhere fun _ => true

/-! #### Registers by number -/

def groupKeys (slot : Nat) (g : RegGroup) : List Nat := (List.range g.2).filterMap fun k => regKey slot (nthReg g.1 k)

/-- The groups name the register, for a lane of the mask where it is one of a lane. -/
def namesKey (l : List RegGroup) (m : Mask) (k : Nat) : Bool :=
  if 2 ^ 92 ≤ k then l.any fun g => (groupKeys 0 g).contains k
  else slotIn m ((k - 2 ^ 90) / 512) && l.any fun g => (groupKeys 0 g).contains (2 ^ 90 + (k - 2 ^ 90) % 512)

/-- Registers of the team that groups name. -/
def teamKeys (l : List RegGroup) : List Nat := (l.flatMap (groupKeys 0)).filter fun k => decide (2 ^ 92 ≤ k)

/-- The result goes to a register that the groups name. -/
def Landing.meets (l : Landing) (gs : List RegGroup) (m : Mask) : Bool :=
  l.writes.any fun w => (regKey (w.slot.getD 0) w.reg).any (namesKey gs m)

/-- Before a split issues an instruction: each result on which it depends is complete, but one whose shadow covers it; a
shadow loses one instruction, and none where the instruction issues again (R30, R106, R108). -/
def Team.startIssue (t : Team) (x : Split) (gs : List RegGroup) : Team :=
  let t := t.landWhere fun l => !l.silent && !(l.split == x.id && l.look != 0) && l.meets gs x.mask
  if x.again then t
  else { t with landings := t.landings.map fun l => if l.split = x.id then { l with look := l.look - 1 } else l }

/-- Issues a long-latency result: in flight under LOOK, or complete at once in VER 0b01 and with LOOK 0 (R31). -/
def Team.launchResult (t : Team) (split : Nat) (kind : LandKind) (look : Nat) (ws : List RegWrite) (fl : Flags)
    (lines : List Nat) (pc : Pc := 0) (now : Nat := 0) (lanes : Mask := 0) : Team :=
  let l : Landing := { id := t.nextLanding, split := split, kind := kind, look := look, writes := ws, flags := fl
                       lines := lines, lanes := lanes, pc := pc, at' := now }
  { t with landings := t.landings ++ [l], nextLanding := t.nextLanding + 1 }

/-! ### Waking splits -/

/-- What an instruction leaves in its split while it is not complete is cleared. -/
def Split.clear (x : Split) : Split :=
  { x with
    op := none, pops := none, src := [], accepted := 0, ahead := 0, poisoned := 0, unified := false, failed := false, lost := []
    holds := [], again := false, walked := [], needEntries := 0, needWalks := 0 }

/-- A waiting split issues the same instruction again at its PC. -/
def Split.wake (x : Split) : Split := { x with wait := .ready, block := .none, again := true }
/-- A waiting split goes on at the next instruction. -/
def Split.pass (x : Split) : Split := { x.clear with wait := .ready, block := .none, pc := pcNext x.pc }

/-- A split whose page is translated again: an access issues again, a fetch is made again. -/
def Split.retranslate (x : Split) : Split :=
  match x.block with
  | .page .fetch _ _ => { x with wait := .ready, block := .none, walked := [] }
  | _ => { x.wake with walked := [] }

/-! ### Accesses that are issued and not performed (R184 to R186, R260, R363) -/

/-- The key by which a fetch that waits holds back other fetches from its page; keys of accesses are below (R260). -/
def fetchKey (va : Nat) : Nat := 2 ^ 100 + va / 4096

/-- The key by which a fence that is not complete holds back every later access (R363). -/
def fenceKey : Nat := 2 ^ 101

/-- Instructions that make blotter elements. -/
def makesElements : Instr → Bool
  | .rst _ | .rred _ _ _ | .post _ _ | .cancel _ _ | .signal _ => true
  | _ => false

/-- The instruction of the split has issued and is not complete: a rejected pass, a `wait`, an ordering stall, walks, or
one that goes on again. One that waits on a page issues again (R178); of those only `tdset` stays here (R206). -/
def Split.inFlight (x : Split) : Option Instr :=
  match x.wait, x.block with
  | .rejected, _ | .value, _ | .order, _ | .fault, _ | .scoreboard, .walks | .scoreboard, .reply _ _ _ | .scoreboard, .routing _ =>
    x.op
  | .ready, _ | .scoreboard, .issue => if x.again then x.op else none
  | _, _ => none

/-- Elements of the split's instruction have still to enter their slots. -/
def Split.elementsDue (x : Split) : Bool := x.inFlight.any makesElements

/-- The split has an access that is issued and not performed, elements aside. -/
def Split.accessOpen (x : Split) : Bool :=
  !x.op.any makesElements && x.holds.any fun h => decide (h < 2 ^ 100)

/-- An instruction that a save lets complete: an issued access that is not performed. A `wait` and a rejected pass are
abandoned (R188); so is what waits for a page, for room at a die or for a release before it takes effect. -/
def Split.mustFinish (x : Split) : Bool :=
  match x.wait, x.block with
  | .rejected, _ | .value, _ | .fault, _ | .order, .stalled _ _ _ _ | .order, .launching _ _ => false
  | .scoreboard, .routing _ => true
  | _, _ => x.inFlight.isSome && (x.accessOpen || x.elementsDue)

/-- Some other split has an open access that was issued earlier (R186, R229, R355); `elements`: or elements that have
still to enter (R361). -/
def Team.openBefore (t : Team) (x : Split) (elements : Bool) : Bool :=
  t.splits.any fun y => y.id != x.id && decide (y.issuedAt < x.issuedAt) && (y.accessOpen || (elements && y.elementsDue))

/-- An open access of another split that was issued earlier, or a fence, holds the access back. -/
def Team.heldBack (t : Team) (x : Split) (keys : List Nat) : Bool :=
  t.splits.any fun y => y.id != x.id && decide (y.issuedAt < x.issuedAt) &&
    (keys.any y.holds.contains || (!keys.isEmpty && y.holds.contains fenceKey))

/-- A fence of another split that issued earlier is not complete (R363). -/
def Team.fenced (t : Team) (x : Split) : Bool :=
  t.splits.any fun y => y.id != x.id && decide (y.issuedAt < x.issuedAt) && y.holds.contains fenceKey

/-! ### Registers that open instructions have still to read or write (R87, R108, R164, R206) -/

/-- A queue that a source names moves on, until its values are kept. -/
def keysWritten (i : Instr) (popped : Bool) : List Nat :=
  teamKeys i.writes ++ if popped then [] else (teamKeys i.reads).filter fun k => decide (2 ^ 92 + 2 ^ 13 ≤ k)

/-- Team registers that the split's open instruction will write, and those that it will read: a `wait` has read its
sources, a `launch` whose record waits has none left. -/
def Split.toWrite (x : Split) : List Nat := (x.inFlight.map fun i => keysWritten i x.pops.isSome).getD []
def Split.toRead (x : Split) : List RegGroup :=
  match x.wait, x.block with
  | .value, _ | .order, .launching _ _ | .scoreboard, .reply _ _ _ => []
  | _, _ => (x.inFlight.map Instr.reads).getD []

/-- Registers that an open aperture access of the split names (R164). -/
def Split.apertureKeys (x : Split) : List Nat := x.holds.filter fun h => decide (2 ^ 90 ≤ h) && decide (h < 2 ^ 100)

/-- The instruction uses a register that an open instruction of another split has still to read or write. -/
def Team.regHeld (t : Team) (x : Split) (i : Instr) : Bool :=
  t.splits.any fun y => y.id != x.id &&
    ((y.toWrite.any fun k => (teamKeys i.reads ++ keysWritten i false).contains k) ||
      (teamKeys y.toRead).any (keysWritten i false).contains || y.apertureKeys.any (namesKey (i.reads ++ i.writes) x.mask))

/-- Registers that an aperture access names are still to be read or written by an earlier instruction of another split. -/
def Team.regsOpen (t : Team) (x : Split) (keys : List Nat) : Bool :=
  t.splits.any fun y => y.id != x.id && decide (y.issuedAt < x.issuedAt) &&
    keys.any (namesKey (y.toRead ++ (y.inFlight.map Instr.writes).getD []) y.mask)

/-! ### Gang barriers (R226 to R229, R243) -/

def Gang.barrier (g : Gang) (b : Nat) : Barrier := (g.barriers[b]?).getD {}
def Gang.setBarrier (g : Gang) (b : Nat) (x : Barrier) : Gang :=
  { g with barriers := ((List.range 16).map g.barrier).set b x }

/-- The split has executed `gbar` on b. -/
def Split.ranBarrier (x : Split) (b : Nat) : Split := { x with gbarDone := x.gbarDone ||| ((1 : BitVec 16) <<< b) }

/-- A split when the phase of b changes: a wait is over; a form that was held back by the earlier arrival is executed. -/
def Split.phaseChange (b : Nat) (x : Split) : Split :=
  match x.block with
  | .gbarPhase c => if c = b then x.pass else x
  | .gbarArrived c op =>
    if c ≠ b then x
    else match op with
      | .arrive => (x.ranBarrier b).pass
      | _ => { x.ranBarrier b with block := .gbarTeam b }
  | _ => x

/-- The phase of barrier b has completed: waiting splits of the gang go on after an acquire at scope 2. -/
def State.phaseDone (s : State) (gang b : Nat) : State :=
  let woken := s.teams.filter fun t => t.gang == some gang && t.splits.any fun x => x.block == .gbarPhase b
  let s := { s with teams := s.teams.map fun t =>
    if t.gang = some gang then { t with splits := t.splits.map (Split.phaseChange b) } else t }
  woken.foldl (fun s t => s.acquireL1 t.coreNo t.ctx ⟨[], false⟩) s

/-- Every live split of the team has executed `gbar` on b since the team's last arrival (R228), and every access that
the team issued is performed (R229). -/
def Team.reached (t : Team) (b : Nat) : Bool :=
  !t.splits.isEmpty && (t.splits.all fun x => x.record || x.gbarDone.getLsbD b) && !t.splits.any Split.accessOpen

/-- The timer of the phase has expired in an earlier cycle: no arrival counts any more (R243). -/
def Barrier.expired (x : Barrier) (log2bar now : Nat) : Bool :=
  match x.timer with
  | some n => decide (n + 2 ^ log2bar < now)
  | none => false

/-- The arrival of a team: its earlier accesses are performed, the flag is set, the count rises. The last one changes
the phase. -/
def State.arriveBarrier (s : State) (t : Team) (g : Gang) (b : Nat) : State :=
  let s := s.releaseL1 t.coreNo t.ctx ⟨[], false⟩
  let s := s.setTeam { t with splits := t.splits.map fun x =>
    { x with
      gbarDone := x.gbarDone &&& ~~~((1 : BitVec 16) <<< b)
      block := if x.block = .gbarTeam b then .gbarPhase b else x.block } }
  let x := g.barrier b
  if x.count + 1 = g.expected then
    (s.setGang (g.setBarrier b { phase := !x.phase, count := 0, arrived := 0, timer := none })).phaseDone g.id b
  else
    s.setGang (g.setBarrier b { x with
      count := x.count + 1, arrived := x.arrived ||| ((1 : BitVec 16) <<< t.rank)
      timer := if x.count = 0 then some (s.cycle t.pkg) else x.timer })

/-- Makes the arrival at b that is due, if any; after a change of phase also the arrivals of the gang that it held
back. -/
def settleBarriers (b : Nat) : Nat → State → Nat → State
  | 0, s, _ => s
  | n + 1, s, key =>
    match s.team? key with
    | none => s
    | some t =>
      match t.gang.bind s.gang? with
      | none => s
      | some g =>
        let x := g.barrier b
        if t.reached b && !x.arrived.getLsbD t.rank && !x.expired g.log2bar (s.cycle g.pkg) then
          let s := s.arriveBarrier t g b
          if x.count + 1 = g.expected then
            ((s.teams.filter fun u => u.gang == some g.id).map Team.key).foldl (settleBarriers b n) s
          else s
        else s

def State.settleBarrier (s : State) (key b : Nat) : State := settleBarriers b 3 s key

/-- Every arrival that is due: the accesses that it waited for have been performed, have faulted, or are no more. -/
def State.settleArrivals (s : State) : State :=
  (s.teams.filter fun t => t.gang.isSome).foldl
    (fun s t => (List.range 16).foldl (fun s b => s.settleBarrier t.key b) s) s

/-! ### `tsync` (R232) -/

/-- When every live split waits at a `tsync`, each goes on after its own; earlier accesses are performed. -/
def State.settleTsync (s : State) (key : Nat) : State :=
  match s.team? key with
  | none => s
  | some t =>
    let at' (x : Split) : Bool := x.block == .tsync
    if t.splits.any at' && t.splits.all (fun x => x.record || at' x) then
      s.setTeam { t.landAll with timer := none, splits := t.splits.map fun x => if at' x then x.pass else x }
    else s

/-- What is due for a team once its splits have changed. -/
def State.settleSync (s : State) (key : Nat) : State :=
  (List.range 16).foldl (fun s b => s.settleBarrier key b) (s.settleTsync key)

/-! ### `xshuf` (R234) -/

/-- The split waits at an `xshuf`. -/
def Split.atXshuf (x : Split) : Bool := match x.block with | .xshuf _ => true | _ => false

/-- The split has the team's pending arrival. -/
def State.xshufArrival (s : State) (t : Team) (x : Split) : Bool :=
  x.atXshuf && (s.die t.dieNo).xshuf.any fun a => a.team == t.key && a.split == x.id

/-- Splits of a team that wait for an exchange issue again. -/
def Team.wakeXshuf (t : Team) : Team :=
  { t with splits := t.splits.map fun x => if x.atXshuf then x.wake else x }

/-- A pending arrival of a split is withdrawn; other splits of the team issue their `xshuf` again. -/
def State.withdrawXshuf (s : State) (t : Team) (x : Split) : State × Team :=
  if s.xshufArrival t x then
    let d := s.die t.dieNo
    (s.setDie { d with xshuf := d.xshuf.filter fun a => a.team != t.key }, t.wakeXshuf)
  else (s, t)

end Sys2Proof.Machine
end

