-- ==== Sys2Proof/Machine/Save.lean ====
section
/-! DEFINITION. Saving a team or gang and bringing it back: the forced save, its restore, and the end of a placement by
`yield.done` (05 R107, R109, 08 R188, 09 R204, R218, 10 R223, R231, R235, 17 R332 to R337). -/
namespace Sys2Proof.Machine

/-! ### Who is saved together (R231, R336) -/

/-- The team, or every team of its gang. -/
def State.unit (s : State) (t : Team) : List Team :=
  match t.gang with
  | some g => s.teams.filter fun u => u.gang == some g
  | none => [t]

/-- A scribe or route command of the team is not complete (R288, R412). -/
def State.commandsOpen (s : State) (t : Team) : Bool :=
  let d := s.die t.dieNo
  (d.cmds.any fun c => c.team == t.key) || d.routes.any fun r => r.team == t.key

/-- Every access of the team is performed, and its commands are complete. -/
def State.quiet (s : State) (t : Team) : Bool := !s.commandsOpen t && (s.outstanding t.key t.dieNo).isEmpty

/-- The slots that hold elements of these teams are pushed. -/
def State.pushTeams (s : State) (l : List Team) : State :=
  l.foldl (fun s t => s.setDie ((s.die t.dieNo).pushSlots fun b => b.elems.any fun e => e.team == t.key)) s

/-- A relocation that has started holds the team (R204). -/
def State.relocating (s : State) (t : Team) : Bool :=
  (s.core t.coreNo).regroups.any fun r => r.nmax.isSome && r.participants.contains t.key

/-- A team that a save can take now: it has a place, no relocation holds it, no instruction waits for dies, every issued
access is performed (R188). -/
def State.savable (s : State) (t : Team) : Bool :=
  t.placed && !(s.die t.dieNo).fenced && !s.relocating t && !(t.splits.any fun x => x.block == .acks || x.mustFinish) &&
    s.quiet t

/-! ### Leaving the core -/

/-- A plane as it is saved: one with a parity error is empty (R216). -/
def Plane.saved (p : Plane) : Plane := if p.badRows.isEmpty && !p.badScales then p else {}

/-- The planes of the pair as they are saved, a `wload` in flight complete (R218). -/
def PlanePair.saved (p : PlanePair) : PlanePair :=
  let q := p.settle
  { owner := none, active := q.active.saved, shadow := q.shadow.saved }

/-- The pair of a team is free. -/
def State.freePair (s : State) (t : Team) : State :=
  let c := s.core t.coreNo
  s.setCore { c with planes := c.planes.map fun p => if p.owner = some t.key then {} else p }

/-- The pending exchange of a team is withdrawn (R234). -/
def State.dropXshuf (s : State) (t : Team) : State :=
  let d := s.die t.dieNo
  s.setDie { d with xshuf := d.xshuf.filter fun a => a.team != t.key }

/-- The walks that a team has asked for are withdrawn. -/
def State.dropWalks (s : State) (t : Team) : State :=
  let d := s.die t.dieNo
  if d.walks.any fun b => b.owner.team == some t.key then
    s.setDie { d with walks := d.walks.filter fun b => b.owner.team != some t.key }
  else s

/-- A split across a save: a nap ends (R150); `wait`, a rejected pass and what else is not an access under way are
abandoned and issue again, as do `gbar`, `tsync`, an exchange and a regroup (R188, R231, R232, R234, R204). A `gbar.sync`
whose arrival has been counted arrives no second time: `accepted` 1 says so; one whose team has not arrived counts for
the arrival when it has issued again. -/
def Split.saved (x : Split) : Split :=
  match x.wait, x.block with
  | .nap, _ => { x with wait := .ready }
  | .sync, .gbarPhase _ => { x.wake with accepted := 1 }
  | .sync, .gbarTeam b => { x.wake with gbarDone := x.gbarDone &&& ~~~((1 : BitVec 16) <<< b) }
  | .sync, .yieldDone _ | .sync, .acks | .order, .launching _ _ => x
  | .scoreboard, .element | .scoreboard, .issue => { x with wait := .ready, block := .none }
  | .value, _ => { x.wake with op := none, src := [] }
  | .scoreboard, _ | .rejected, _ | .order, _ | .sync, _ => x.wake
  | _, _ => x

/-! #### The image (R336)

Items with the bytes that the spec states; what it leaves open is free, and so is the place of every item in the save
area (notes/assumptions/18). -/

/-- An entry of the split table (Tables 5.3, 5.4). -/
def Split.image (x : Split) : List Byte :=
  let status : Word := (((x.lap.setWidth 32 : Word) ||| (if x.dem then 0x100 else 0)) ||| ((x.wait.code.setWidth 32 : Word) <<< 9)) |||
    (if x.record then 0x2000 else 0)
  leBytes 128 x.mask.toNat ++ wordBytes (maskSummary x.mask) ++ leBytes 2 x.id ++ leBytes 2 x.creator ++ wordBytes status ++
    leBytes 4 0 ++ leBytes 8 x.pc.toNat ++ leBytes 8 x.join.toNat

/-- A loaded plane, 1,088 bytes: its tile in element form, and its scales (R218). -/
def Plane.image (p : Plane) : List Byte :=
  (p.tile.flatMap fun row => row.flatMap (leBytes (if p.fmtB = 1 then 2 else 1))) ++ p.scales.flatMap (leBytes 2)

/-- Bytes of one lane of the register window (R161). -/
def Team.laneImage (t : Team) (slot : Nat) : List Byte :=
  let l := t.lane slot
  ((List.range t.entry.vregs).map (fun i => (l.v[i]?).getD 0) ++ l.h.toList ++ [l.p.setWidth 32] ++
    [Special.evid, .timeLo, .timeHi, .entity, .tie, .round, .key].map (t.special slot)).flatMap wordBytes

/-- The items of a team, for a save of a tick. -/
def Team.saveItems (t : Team) (planes : PlanePair) (tick : Nat) : List (List Byte) :=
  let open' (n : Nat) : List Byte := (List.range n).map (Config.saveByte tick)
  let team := (t.s.toList ++ t.k.toList ++ t.j.toList ++ [t.fstat.setWidth 32] ++
    [Special.team, .lanes, .handler, .core, .cluster, .die, .pkg, .ctx].map (t.special 0)).flatMap wordBytes
  let traps := t.splits.filter fun x => x.trap.isSome || t.held.contains x.id
  [team ++ open' (2048 - team.length)] ++ (List.range t.lanes.length).map t.laneImage ++ t.splits.map Split.image ++
    traps.map (fun _ => open' Config.saveMarkBytes) ++ [t.scratch.read 0 t.entry.scratch] ++
    t.lanes.map (fun l => l.slice.read 0 t.entry.slice) ++
    ([planes.active, planes.shadow].filter fun p => p.state == .loaded).map Plane.image

/-- The items of a gang: its pool below the declared size, and its barriers (R223, R231). -/
def Gang.saveItems (g : Gang) (tick : Nat) : List (List Byte) :=
  [g.pool.read 0 g.poolSize, (List.range (16 * Config.saveMarkBytes)).map (Config.saveByte tick)]

/-- The save engine's stores into the context's save area. -/
def State.streamSave (s : State) (coreNo ctx : Nat) (items : Nat → List (List Byte)) : State :=
  match s.ctx? ctx with
  | none => s
  | some c =>
    let tick := s.tick
    (items tick).zipIdx.foldl (fun (s : State) (bs, i) =>
      let a := c.saveArea + Config.saveOffset tick i % max 1 Config.saveArea
      match s.locateGlb coreNo ctx a { bytes := bs.length, kind := .write } with
      | (s, .ok (.glb ps)) => (pieceBytes ps bs).foldl (fun s (_, pa, b) => s.homeWrite pa b) s
      | (s, _) => s) s.bump

/-- The split with the lowest entry id. -/
def Team.lowestSplit (t : Team) : Option Split :=
  t.splits.foldl (fun (b : Option Split) x =>
    if x.record then b
    else match b with
      | none => some x
      | some y => if x.id < y.id then some x else some y) none

/-- The record of a passed deadline. -/
def deadlineRecord (t : Team) (p : PreemptState) : FaultRec :=
  { code := codeDeadline, level := 5, ctx := t.ctx, flags := 0, core := t.core, pkg := t.pkg, team := t.id, slots := 0
    pc := ((t.lowestSplit.map Split.pc).getD 0).setWidth 64, addr := BitVec.ofNat 64 p.cycles }

/-- A team whose pre-emption deadline has passed is saved with a record (R335). -/
def State.recordDeadline (s : State) (t : Team) : State :=
  match t.preempt with
  | some p => if p.due ≤ s.cycle t.pkg then s.recordFault (deadlineRecord t p) else s
  | none => s

/-- One team leaves its core with all its state. -/
def State.saveTeam (s : State) (key : Nat) : State :=
  match s.team? key with
  | none => s
  | some t =>
    let s := (((s.dropXshuf t).dropWalks t).leaveRegroup t).releaseL1 t.coreNo t.ctx ⟨[], true⟩
    let planes := match t.plane with | some i => ((s.core t.coreNo).pair i).saved | none => {}
    let t := t.landAll
    (((s.streamSave t.coreNo t.ctx (t.saveItems planes)).freePair t).recordDeadline t).setTeam { t with
      splits := t.splits.map Split.saved
      f := t.f.map fun q => { q with queued := [] }
      savedPlanes := planes, plane := none, preempt := none, timer := none, reserved := none, waiting := none
      saving := false
      resident := t.resident + (s.cycle t.pkg - t.placedAt)
      wasHeld := t.status == .held, status := .saved }

/-- The gang gives up its position; its timers stop (R235). -/
def State.unplaceGang (s : State) (g : Option Nat) (fresh : Bool) : State :=
  match g.bind s.gang? with
  | none => s
  | some g =>
    s.setGang { g with
      placed := false
      barriers := if fresh then [] else g.barriers.map fun b => { b with timer := none }
      pool := if fresh then {} else g.pool }

/-- The forced save of a team or of its whole gang (R336); none where something has to complete first. -/
def State.forcedSave (s : State) (t : Team) : Option State :=
  let l := s.unit t
  if l.all s.savable then
    let s := l.foldl (fun s u => s.saveTeam u.key) s
    some ((match t.gang.bind s.gang? with
      | some g => s.streamSave t.coreNo t.ctx g.saveItems
      | none => s).unplaceGang t.gang false)
  else none

/-- A save is asked for: it is taken, or issue stops and what has to complete first is pushed (R333, R336). -/
def State.askSave (s : State) (t : Team) : State :=
  match s.forcedSave t with
  | some s => s
  | none =>
    if t.placed then (s.unit t).foldl (fun s u => s.setTeam { u with saving := true }) (s.pushTeams (s.unit t)) else s

/-- Saves that wait are taken once they can be. -/
def State.settleSaves (s : State) : State :=
  ((s.teams.filter Team.saving).map Team.key).foldl (fun s k => match s.team? k with
    | some t => if t.saving then (s.forcedSave t).getD s else s
    | none => s) s

/-! ### `yield.done` (R109, R332) -/

/-- The lane at the label: payload and special registers; every other register is zero, and so is the slice. -/
def Lane.parked (l : Lane) : Lane :=
  { l with
    v := match l.event with
      | some e => (List.finRange 4).foldl (fun v i => v.setIfInBounds i.val (e.payload[i])) (Vector.replicate 256 0)
      | none => Vector.replicate 256 0
    p := 0, h := Vector.replicate 8 0, slice := {} }

/-- Where the team's splits wait at `yield.done`: its label and the PC of the instruction. -/
def Team.yieldLabel (t : Team) : Option (Pc × Pc) :=
  t.splits.findSome? fun x => match x.block with | .yieldDone target => some (target, x.pc) | _ => none

/-- Every split of the team has executed `yield.done`; records are no splits. -/
def Team.gathered (t : Team) : Bool :=
  t.status == .resident && !t.splits.isEmpty && t.splits.all fun x =>
    x.record || match x.block with | .yieldDone _ => true | _ => false

/-- The end of a placement. -/
def State.parkTeam (s : State) (key : Nat) : State :=
  match s.team? key with
  | none => s
  | some t =>
    let s := (s.releaseL1 t.coreNo t.ctx ⟨[], true⟩).freePair t
    let mask := t.splits.foldl (fun (m : Mask) x => m ||| x.mask) 0
    let (target, pc) := t.yieldLabel.getD (0, 0)
    s.setTeam { t with
      lanes := t.lanes.map Lane.parked
      s := Vector.replicate 64 0, k := Vector.replicate 256 0, j := Vector.replicate 4 0, fstat := 0
      splits := [{ mask := mask, pc := target, check := some pc }]
      held := [], landings := [], f := Vector.replicate 4 {}, scratch := {}, plane := none, savedPlanes := {}
      preempt := none, timer := none, reserved := none, rejections := 0, waiting := none, clock := none, saving := false
      resident := t.resident + (s.cycle t.pkg - t.placedAt)
      resumeAt := target, status := .parked }

/-- When a team, and for a gang every team of it, is gathered and quiet, its placement ends, unless a save has been asked
for: the team is then saved as it stands (R335). -/
def State.settleYield (s : State) (key : Nat) : State :=
  match s.team? key with
  | none => s
  | some t =>
    let l := s.unit t
    if l.all Team.gathered && !l.any Team.saving then
      if l.all s.quiet then (l.foldl (fun s u => s.parkTeam u.key) s).unplaceGang t.gang true else s.pushTeams l
    else s

/-! ### Coming back (R224, R336) -/

/-- Puts a saved or parked team on a core; none where it does not fit. -/
def State.returnTeam (s : State) (key core : Nat) : Option State :=
  match s.team? key with
  | none => none
  | some t =>
    if !s.fitsCore core t.entry t.lanes.length t.keeps then none
    else
      let p := core / 512
      let k := s.core core
      let plane := if t.entry.planes = 1 then k.freePairs.head? else none
      let s := match plane with
        | some i => s.setCore (k.setPair i { t.savedPlanes with owner := some key })
        | none => s
      let age := (s.pkg p).nextAge
      let s := s.setPkg { s.pkg p with nextAge := age + 1 }
      let now := s.cycle p
      let t := { t with
        core := core % 512, plane := plane, savedPlanes := {}, age := age, placedAt := now
        status := if t.wasHeld then .held else .resident, wasHeld := false
        splits := t.splits.map fun x => if x.wait = .fault then x.retranslate else x }
      some ((s.acquireL1 core t.ctx ⟨[], true⟩).setTeam t)

/-- Puts teams on cores, each on the first that has room. -/
def State.returnAll (s : State) (cores : List Nat) : List Team → Option State
  | [] => some s
  | t :: ts => match cores.findSome? fun c => s.returnTeam t.key c with
    | some s => s.returnAll cores ts
    | none => none

/-- The gang has a position on a cluster again, and room for its pool; its timers start from zero. -/
def State.replaceGang (s : State) (g : Gang) (cluster : Nat) : Option State :=
  let positions := (s.gangs.filter fun h => h.cluster == cluster && h.placed).length
  let cores := (List.range 4).map (cluster * 4 + ·)
  if 32 ≤ positions ∨ (g.poolSize ≠ 0 ∧ (s.clusterPool cluster ≠ 0 ∨ cores.any fun c => decide (s.coreFree c < poolShare g.poolSize))) then
    none
  else
    some (s.setGang { g with
      cluster := cluster, placed := true
      barriers := g.barriers.map fun b => { b with timer := if b.count = 0 then none else some (s.cycle g.pkg) } })

/-- Brings a team or its gang back on a core, or on the core's cluster: one core for all where they fit. -/
def State.bringBack (s : State) (t : Team) (core : Nat) : Option State :=
  match t.gang.bind s.gang? with
  | none => s.returnTeam t.key core
  | some g =>
    match s.replaceGang g (core / 4) with
    | none => none
    | some s =>
      let cores := (List.range 4).map (core / 4 * 4 + ·)
      let ts := s.unit t
      match cores.findSome? fun c => s.returnAll [c] ts with
      | some s => some s
      | none => s.returnAll cores ts

end Sys2Proof.Machine
end

