-- ==== Sys2Proof/Machine/Ops.lean ====
section
/-! DEFINITION. The shared operations of the machine: taking a trap and returning from one, ending a
team, release and acquire, and the frame in which every instruction is issued. -/
namespace Sys2Proof.Machine

/-! ### Fault records (Table 7.4) -/

/-- The record of a fault of a team. `bits`: FLAGS bits 0 and 1. -/
def faultRecord (t : Team) (c : Cause) (bits : BitVec 8) : FaultRec :=
  let low := lowestSlot c.lanes
  let w := low / 32
  let ev := (t.lane low).event
  { code := c.code, level := c.level, ctx := t.ctx
    flags := bits ||| (if t.handler.isSome then 4 else 0) ||| (if c.index.isSome then 8 else 0) |||
      (if c.noDiag then 16 else 0)
    core := t.core, pkg := t.pkg, team := t.id
    slots := match c.index with | some i => BitVec.ofNat 32 i | none => maskWord c.lanes w
    pc := c.pc.setWidth 64 ||| BitVec.ofNat 64 (if c.index.isSome then 0 else w * 2 ^ 57)
    addr := BitVec.ofNat 64 c.addr, event := ev }

/-! ### The end of teams, gangs and launches (R111, R331, R338) -/

/-- Signals the completion gate of a launch once (R331). -/
def State.signalCompletion (s : State) (l : Launch) : State :=
  match l.rec'.cgate with
  | none => s
  | some h =>
    if l.signalled then s
    else
      let m := (s.pkg l.pkg).master
      (s.setLaunch { l with signalled := true }).gateAct
        ⟨l.ctx, 128 * m, l.pkg, 0xFFFFFFFF, 0, 0xFFFFFFFF⟩ h none

/-- Once every gang has triggered or retired, and what the ended teams released has been performed, the completion
gate is signalled; a launch without gangs, placed or to be placed again, is gone (R331, R361, R371). -/
def State.settleLaunch (s : State) (id : Nat) : State :=
  match s.launch? id with
  | none => s
  | some l =>
    if l.counted.length = l.x * l.y * l.z ∧ l.releases.all fun (k, d) => (s.outstanding k d).isEmpty then
      let s := s.signalCompletion l
      if (s.gangs.any fun g => g.launch == id) || l.parts.any fun p => decide (p.2.1 < p.2.2) then s
      else { s with launches := delBy Launch.id id s.launches }
    else s

/-- Counts a gang index of a launch as triggered or retired, once (R331, R371). -/
def State.countGang (s : State) (launch index : Nat) : State :=
  match s.launch? launch with
  | none => s
  | some l =>
    let l := if l.counted.contains index then l else { l with counted := l.counted ++ [index] }
    (s.setLaunch l).settleLaunch launch

/-- A gang whose teams have all ended retires: its pool, barriers and position are free (R221, R224, R331). A barrier
that waits for an arrival is left with its timer, which ends the context (R230, R236). -/
def State.retireGang (s : State) (gang : Nat) : State :=
  match s.gang? gang with
  | none => s
  | some g =>
    match s.teams.find? fun t => t.gang == some gang with
    | some t => s.settleYield t.key
    | none =>
      (if g.barriers.any fun b => b.timer.isSome then s.setGang { g with placed := false, poolSize := 0, pool := {} }
        else { s with gangs := delBy Gang.id gang s.gangs }).countGang g.launch g.index

/-- The release of an ended kernel team is complete once its elements are acknowledged. -/
def State.noteRelease (s : State) (t : Team) : State :=
  match t.launch.bind s.launch? with
  | none => s
  | some l =>
    if (s.outstanding t.key t.dieNo).isEmpty then s
    else s.setLaunch { l with releases := l.releases ++ [(t.key, t.dieNo)] }

/-- The exit of an event lane of a nonzero entity whose team has elements outstanding: the entity's next record on the die
that dispatched the lane waits for those in scope (R297, R305, R361). -/
def State.noteExit (s : State) (t : Team) (slots : List Nat) : State :=
  if t.handler.isNone ∨ (s.outstanding t.key t.dieNo).isEmpty then s
  else slots.foldl (fun s i =>
    let l := t.lane i
    if l.live && l.entity != 0 then
      let d := s.ctxDie t.ctx l.home
      s.setCtxDie { d with exits := putBy (fun e => e.1.toNat) (l.entity, t.key, t.coreNo, t.entry.place) d.exits }
    else s) s

/-- Credits the estimate and debits what was metered (R338). -/
def State.settleEnergy (s : State) (t : Team) : State :=
  let c := s.ctxPkg t.ctx t.pkg
  s.setCtxPkg { c with budget := c.budget + (t.entry.energy * t.lanes.length : Nat) - (t.metered / 1000 : Nat) }

/-- The end of a team, whatever ended it: a release of its accesses (R305, R331), then everything it held is free. -/
def State.endTeam (s : State) (t : Team) : State :=
  let s := (s.releaseL1 t.coreNo t.ctx ⟨[], true⟩).noteRelease t
  let s := (s.noteExit t (List.range t.lanes.length)).orphanCmds t
  let s := { s with teams := delBy Team.key t.key s.teams }
  let core := s.core t.coreNo
  let s := s.setCore { core with planes := core.planes.map fun p => if p.owner = some t.key then {} else p }
  let s := s.leaveRegroup t
  let d := s.die t.dieNo
  let s := s.setDie { d with xshuf := d.xshuf.filter fun a => a.team != t.key }
  let s := s.settleEnergy t
  match t.gang with
  | some g => s.retireGang g
  | none => s

/-- Freezes a handler's bin on a die: its records are pending again (R308). -/
def State.freezeBin (s : State) (t : Team) (h : BitVec 12) (c : Cause) : State :=
  let d := s.ctxDie t.ctx t.dieNo
  let mine := d.bins.filter fun b => b.handler == h
  let d : CtxDie := { d with
    bins := d.bins.filter fun b => b.handler != h
    frozen := if d.frozen.contains h then d.frozen else d.frozen ++ [h] }
  let s := s.setCtxDie ((mine.flatMap Bin.recs).foldl (fun d r => d.put (s.controlOf t.ctx) r) d)
  s.recordFault { code := codeHandlerFrozen, level := 4, ctx := t.ctx, flags := 0x08, core := t.core, pkg := t.pkg
                  team := t.id, slots := h.setWidth 32, pc := c.pc.setWidth 64, addr := 0 }

/-- A fatal fault (R156): the team is terminated, the record written, an event team's bin frozen. -/
def State.fatal (s : State) (t : Team) (c : Cause) : State :=
  let s := (s.recordFault (faultRecord t c 1)).endTeam t.landAll
  match t.handler with
  | some h => s.freezeBin t h c
  | none => s

/-! ### Taking a trap (R90, R152 to R156, R445) -/

/-- Some split of the team is in a trap handler. -/
def Team.inHandler (t : Team) : Bool := t.splits.any fun x => x.trap.isSome

/-- Delivers a trap to the label: the window, the recorded resume PC and frame, the mark, the new PC. Every stream's
queued elements are discarded (R195). `more`: what became due with it (R442). -/
def Team.deliver (t : Team) (x : Split) (label : Pc) (c : Cause) (more : List Cause := []) : Team :=
  let j := ((((t.j.set 0 (BitVec.ofNat 32 c.code)).set 1 (c.pc.setWidth 32)).set 2 c.j2).set 3 c.j3)
  let x' := { x.clear with
    trap := some ⟨c.resume, c.pc.setWidth 32, x.join, x.creator, x.lap, c.lanes, false, more⟩
    pc := label, check := some c.pc, wait := .ready, block := .none }
  { t.setSplit x' with j := j, f := t.f.map fun q => { q with queued := [] } }

/-- Takes a fault of a split. Earlier instructions of the split complete first. In a handler it is DOUBLE_TRAP; without
a label it is fatal, but a BREAKPOINT stops the team; while another split is in a handler it is held. `more`: further faults
that are due for the split in the same cycle, in the order of R442. -/
def State.raise (s : State) (t : Team) (x : Split) (c : Cause) (more : List Cause := []) : State :=
  let (s, t) := s.withdrawXshuf (t.landSplit x.id) x
  match x.trap with
  | some _ =>
    s.fatal t { c with code := codeDoubleTrap, level := 1, addr := c.code, j2 := 0, index := none }
  | none =>
    match t.entry.trap with
    | none =>
      if c.code = codeBreakpoint then
        (s.setTeam { t.setSplit { x.clear with pc := c.resume } with status := .held }).recordFault (faultRecord t c 2)
      else s.fatal t c
    | some label =>
      if t.inHandler || !t.held.isEmpty then
        s.setTeam { t.setSplit { x.clear with wait := .trap, block := .held c more, since := s.tick } with
          held := t.held ++ [x.id] }
      else s.setTeam (t.deliver x label c more)

/-- Once no split carries the mark, the next held trap is delivered (R90, R153). -/
def Team.deliverHeld (t : Team) : Team :=
  if t.inHandler then t
  else match t.held, t.entry.trap with
    | id :: rest, some label =>
      match t.split? id with
      | some x =>
        match x.block with
        | .held c more => { (t.landSplit id).deliver x label c more with held := rest }
        | _ => { t with held := rest }
      | none => { t with held := rest }
    | _, _ => t

/-- Delivers the next held trap of a team; the delivery of a WPLANE_LOST with j2 = 1 empties the planes (R210). -/
def State.deliverNext (s : State) (t : Team) : State × Team :=
  let t' := t.deliverHeld
  let c := ((t.held.head?.bind t.split?).map Split.block).getD .none
  let lost := match c with
    | .held c _ => c.code == codeWplaneLost && c.j2 == 1
    | _ => false
  if decide (t'.held.length < t.held.length) && lost then (s.emptyPair t, t') else (s, t')

/-- `tret` of a marked split in the recorded frame: the mark is cleared and the lanes continue at the PC that j1 and
the recorded resume PC form; j1 as delivered gives the recorded resume PC itself (R153, R441). A fault of some of its lanes
that became due with the one delivered is then the next held trap, and resumes where the handler returned to (R442,
notes/assumptions/40). -/
def Team.trapReturn (t : Team) (x : Split) (m : TrapMark) (pc : Pc) : Team :=
  let j1 := t.j[1]
  let back : Pc := if j1 = m.given then m.resume else m.resume.extractLsb' 32 25 ++ j1
  let x' := { x with
    trap := none, pc := back, join := m.join, creator := m.creator, lap := m.lap, wait := .ready
    check := if back = m.resume then none else some pc }
  match m.more.filter fun c => c.lanes &&& x.mask != 0 with
  | [] => t.setSplit x'
  | c :: more =>
    { t.setSplit { x' with wait := .trap, block := .held { c with lanes := c.lanes &&& x.mask, resume := back } more } with
      held := x.id :: t.held }

/-! ### Lanes that exit (R99, R149) -/

/-- Removes lanes; the exit of an event lane is a release. When no lane is left the team ends. -/
def State.exitLanes (s : State) (t : Team) (gone : Mask) : State :=
  let (s, t') := s.deliverNext (t.removeLanes gone)
  let s := if t.handler.isSome then (s.releaseL1 t.coreNo t.ctx ⟨[], true⟩).noteExit t (maskSlots gone) else s
  if t'.splits.isEmpty then s.endTeam t' else ((s.setTeam t').settleSync t'.key).settleYield t'.key

/-! ### Energy (R338, Table 17.4) -/

/-- Charges a number of units of a class to the team. -/
def State.charge (s : State) (t : Team) (cls units : Nat) : Team :=
  let cost := (((s.ctx? t.ctx).map fun c => c.classTable[cls]?.getD 0).getD 0)
  { t with metered := t.metered + cost * units }

/-- Passes of an instruction: the nonzero words of the split's mask (R85). -/
def passes (m : Mask) : Nat := ((List.range 32).filter fun w => maskWord m w != 0).length

/-! ### Releases (R186, R361) -/

/-- Bytes that an element writes (R390). -/
def Element.bytes (e : Element) : Nat := ((List.range 8).filter fun i => e.be.getLsbD i).length

/-- A store or reduction element into a region that a release covers (R361). -/
def State.intoRegion (s : State) (ctx : Nat) (cov : Coverage) (e : Element) : Bool :=
  (e.kind == .store || e.kind == .reduction) &&
    (s.binds ctx).any fun b => (cov.all || cov.words.contains b.word) &&
      (List.range (max 1 e.bytes)).any fun i => b.covers (e.va + i)

/-- A release that issued at step `before` waits for the element: it entered earlier, to a destination in scope or into a
region that the release covers (R312, R361). -/
def State.waitsFor (s : State) (t : Team) (inScope : Nat → Bool) (cov : Coverage) (before : Nat) (e : Element) (dst : Nat) :
    Bool :=
  e.team == t.key && e.byLane && decide (e.issued < before) && (inScope dst || s.intoRegion t.ctx cov e)

/-- Some element that the release waits for has not been acknowledged. -/
def State.elementsIn (s : State) (t : Team) (inScope : Nat → Bool) (cov : Coverage) (before : Nat) : Bool :=
  (s.outstanding t.key t.dieNo).any fun (e, dst) => s.waitsFor t inScope cov before e dst

def State.elementsOpen (s : State) (t : Team) (scope : Nat) (cov : Coverage) (before : Nat) : Bool :=
  s.elementsIn t (s.scopeHasDie t scope) cov before

/-- The slots that hold elements which the release waits for are pushed (R391). -/
def State.pushFor (s : State) (t : Team) (inScope : Nat → Bool) (cov : Coverage) (before : Nat) : State :=
  s.setDie ((s.die t.dieNo).pushSlots fun b => b.elems.any fun e => s.waitsFor t inScope cov before e b.dst)

/-- `bflush` pushes every slot that holds an element of the team (R406). -/
def State.pushAll (s : State) (t : Team) : State :=
  s.setDie ((s.die t.dieNo).pushSlots fun b => b.elems.any fun e => e.team == t.key)

/-- The split waits with reason 10 at the same instruction. -/
def State.stall (s : State) (t : Team) (x : Split) : State :=
  s.setTeam (t.setSplit { x with wait := .order, since := s.tick, again := true })

/-! ### The frame of an instruction -/

/-- What an encoded instruction executes with. -/
structure Ex1 where
  t : Team
  x : Split
  pc : Pc
  word : Insn
  /-- Contributing slots, rising: active in the split, guard true (06). -/
  slots : List Nat
  deriving DecidableEq, Repr

def Ex1.mask (e : Ex1) : Mask := maskOf e.slots
def Ex1.low (e : Ex1) : Nat := (e.slots.head?).getD 0

/-- The split goes on at the next instruction. -/
def Ex1.advance (e : Ex1) (t : Team) : Team :=
  match t.split? e.x.id with
  | some x => t.setSplit { x.clear with pc := pcNext e.pc, wait := .ready, block := .none }
  | none => t

/-- A fault of the instruction that resumes at itself, over given lanes. -/
def Ex1.cause (e : Ex1) (code : Nat) (j2 : Word) (j3 : Nat) (lanes : Mask) (addr : Nat := 0) : Cause :=
  { code := code, level := codeLevel code, pc := e.pc, j2 := j2, j3 := BitVec.ofNat 32 j3, addr := addr, lanes := lanes
    resume := e.pc }

/-- Raises a fault whose lanes are the contributing ones. -/
def Ex1.fault (e : Ex1) (s : State) (code : Nat) (j2 : Word := 0) (addr : Nat := 0) : State :=
  s.raise e.t e.x (e.cause code j2 e.low e.mask addr)

/-- A decode fault: j2 = instruction bits [95:64] (R40). It states no address: ADDR is 0 (R157; DEDUCED, notes/assumptions/40). -/
def Ex1.decodeFault (e : Ex1) (s : State) (code : Nat) : State := e.fault s code (e.word.extractLsb' 64 32)

/-- The executing split, found from `cur`. -/
def State.current (s : State) (g : Guard) : Option Ex1 :=
  match s.team? s.cur.team with
  | none => none
  | some t =>
    match t.split? s.cur.split with
    | none => none
    | some x =>
      some { t := t, x := x, pc := s.cur.pc, word := s.cur.word
             slots := (maskSlots x.mask).filter fun i => guardHolds (t.lane i) g && !slotIn s.cur.except i }

/-- Issues an encoded instruction (R40): with no contributing lane it is a no-op; checks 6 and 7; then its effect. -/
def issue (i : Instr) (s : State) (body : Ex1 → State → State) : Host.Outcome State Fault Refusal :=
  match i.fields with
  | none => .refused .noExecutingSplit
  | some (h, _) =>
    match s.current h.guard with
    | none => .refused .noExecutingSplit
    | some e =>
      .next (
        if e.slots.isEmpty then s.setTeam (e.advance e.t)
        else if !operandsAllowed i e.t e.x.trap.isSome then e.decodeFault s codeIllegalOperand
        else if !fpTypeOk i then e.decodeFault s codeFormat
        else body e s)

/-- The split waits and issues the same instruction again: nothing else of the instruction stays. -/
def Ex1.await (e : Ex1) (s : State) (f : Split → Split) : State :=
  match s.team? e.t.key with
  | none => s
  | some t =>
    match t.split? e.x.id with
    | none => s
    | some x => s.setTeam (t.setSplit { f x with since := s.tick, again := true })

/-- The cause that lanes whose page fails raise, of those in a list of slots with their addresses (R178, R259). -/
def Cause.at' (c : Cause) : List (Nat × Nat) → Cause
  | [] => c
  | (slot, a) :: r =>
    { c with
      j2 := BitVec.ofNat 32 a, j3 := BitVec.ofNat 32 slot, addr := a, lanes := maskOf (slot :: r.map Prod.fst) }

/-- What a pop that gives no values leads to: FEED_FAULT, or a wait for elements or for a page, before which the
instruction has not issued (R192, R194). -/
def Ex1.popStop (e : Ex1) (s : State) : PopResult → State
  | .ok _ | .waiting => e.await s fun x => { x.clear with wait := .scoreboard, block := .element }
  | .absent => e.fault s codeFeedFault 0xFFFFFFFF
  | .fault addr bad =>
    s.raise e.t e.x (e.cause codeFeedFault (BitVec.ofNat 32 addr) (bad.head?.getD 0) (maskOf bad) addr)
  | .replay lanes =>
    e.await s fun x => { x.clear with wait := .fault, block := .page .read (e.cause codeFeedFault 0 0 0) lanes }

/-- One source field: a queue gives the values of the slots and moves on; otherwise nothing happens. -/
def popField (slots : List Nat) (i : Instr) (f : Operand) (t : Team) : Except PopResult (Team × List (Nat × Word)) :=
  match popsField i f with
  | none => .ok (t, [])
  | some q =>
    match t.pop q slots with
    | (t, .ok vals) => .ok (t, vals)
    | (_, r) => .error r

/-- Pops the queues that the source fields name, in field order A, B, C, for the slots given (R38, R191). Where one
gives no values, no queue has moved (R194). -/
def popFields (slots : List Nat) (i : Instr) (o : Ops) (t : Team) : Except PopResult (Team × Pops) :=
  match popField slots i o.a t with
  | .error r => .error r
  | .ok (t, a) =>
    match popField slots i o.b t with
    | .error r => .error r
    | .ok (t, b) =>
      match popField slots i o.c t with
      | .error r => .error r
      | .ok (t, c) => .ok (t, ⟨a, b, c⟩)

/-- Goes on with what the queues give. -/
def withPopsOn (slots : List Nat) (i : Instr) (o : Ops) (e : Ex1) (s : State) (k : Ex1 → Pops → State → State) :
    State :=
  match popFields slots i o e.t with
  | .ok (t, p) => k { e with t := t } p s
  | .error r => e.popStop s r

/-- The same for an instruction that may issue again: what its queues gave is kept, so that each is popped once (R191). -/
def withKeptPops (slots : List Nat) (i : Instr) (o : Ops) (e : Ex1) (s : State) (k : Ex1 → Pops → State → State) :
    State :=
  match e.x.pops with
  | some p => k e p s
  | none => withPopsOn slots i o e s fun e p s =>
    let x := { e.x with pops := some p }
    k { e with x := x, t := e.t.setSplit x } p s

/-- Pops for the slots that compute. -/
def withPops (i : Instr) (o : Ops) (e : Ex1) (s : State) (k : Ex1 → Pops → State → State) : State :=
  withPopsOn (execSlots o.d e.slots) i o e s k

/-- The operand values of one lane. -/
structure Src where
  slot : Nat
  a : Nat → Word
  b : Nat → Word
  c : Nat → Word

def sources (t : Team) (o : Ops) (pops : Pops) (imm : Nat → Word) (slot : Nat) : Src :=
  ⟨slot, readField t pops.a imm slot o.a, readField t pops.b imm slot o.b, readField t pops.c imm slot o.c⟩

/-- Every computing lane's register writes and flags, from sources read before any write (R112). -/
def laneResults (t : Team) (o : Ops) (pops : Pops) (imm : Nat → Word) (slots : List Nat)
    (f : Src → List RegWrite × Flags) : List RegWrite × Flags :=
  slots.foldl (fun (ws, fl) slot =>
    let (r, g) := f (sources t o pops imm slot)
    (ws ++ r, fl ||| g)) ([], 0)

/-- A lane instruction by the register writes of each lane: flags are ORed into FSTAT (R63, R112). `cls`: its class
of Table 17.4. -/
def execLaneWrites (i : Instr) (o : Ops) (imm : Nat → Word) (cls : Nat) (s : State) (f : Src → List RegWrite × Flags) :
    Host.Outcome State Fault Refusal :=
  issue i s fun e s =>
    withPops i o e s fun e pops s =>
      let (ws, fl) := laneResults e.t o pops imm (execSlots o.d e.slots) f
      let t := e.t.applyWrites ws
      let t := s.charge { t with fstat := t.fstat ||| fl } cls (passes e.x.mask)
      s.setTeam (e.advance t)

/-- A lane instruction by the result words of each lane, written to D. -/
def execLane (i : Instr) (o : Ops) (imm : Nat → Word) (cls : Nat) (s : State) (f : Src → List Word × Flags) :
    Host.Outcome State Fault Refusal :=
  execLaneWrites i o imm cls s fun r => let (ws, fl) := f r; (destWrites o.d r.slot ws, fl)

end Sys2Proof.Machine
end

