-- ==== Sys2Proof/Machine/Fetch.lean ====
section
/-! DEFINITION. Fetching a line: translation, the instruction cache, parity and the line word (03 R22 to R28,
07 R145); and the walks that fetches and accesses ask for (13 R262). -/
namespace Sys2Proof.Machine

/-! ### The walk queue (R262) -/

/-- What a team's rejected pass needs: miss entries and walk requests. -/
def Team.needs (t : Team) : Option (Nat × Nat) :=
  (t.splits.find? fun x => x.needEntries != 0 || x.needWalks != 0).map fun x => (x.needEntries, x.needWalks)

/-- The team at the head of the core's reservation queue (R183). -/
def State.reservation (s : State) (coreNo : Nat) : Option Team :=
  (s.teams.filter fun t => t.coreNo == coreNo && t.reserved.isSome && t.needs.isSome).foldl (fun (b : Option Team) t =>
    match b with
    | none => some t
    | some u => if t.reserved.getD 0 < u.reserved.getD 0 then some t else some u) none

/-- Requests in a die's walk queue (R262). -/
def Die.walkRequests (d : Die) : Nat := (d.walks.map fun b => b.pages.length).sum

/-- The walk queue of the team's die has room for its requests, beside those held for teams of the die that are at the
head of their reservation queues and went there before it. -/
def State.walkRoom (s : State) (t : Team) (n : Nat) : Bool :=
  let heads := ((List.range 128).filterMap fun i => s.reservation (t.dieNo * 128 + i)).filter fun u => u.key != t.key &&
    match t.reserved with
    | some m => decide (u.reserved.getD 0 < m)
    | none => true
  decide ((s.die t.dieNo).walkRequests + n + (heads.map fun u => (u.needs.map Prod.snd).getD 0).sum ≤ 2048)

/-- The queue of a die has room for requests of an engine. -/
def State.engineWalkRoom (s : State) (die n : Nat) : Bool :=
  let heads := (List.range 128).filterMap fun i => s.reservation (die * 128 + i)
  decide ((s.die die).walkRequests + n + (heads.map fun u => (u.needs.map Prod.snd).getD 0).sum ≤ 2048)

/-- Pages of the accesses that no TLB translates and whose walk has not ended. -/
def State.pagesToWalk (s : State) (t : Team) (walked : List Nat) (need : Need) (addrs : List Nat) : List Nat :=
  let pages := addrs.flatMap fun a =>
    if a + need.bytes > 2 ^ 57 ∨ (need.aligned ∧ a % need.bytes ≠ 0) then [] else unitsOf 4096 a need.bytes
  pages.eraseDups.filter fun p =>
    !walked.contains p && (tlbHit (s.tlbs t.coreNo) t.ctx (4096 * p) need.kind).isNone

/-- Walk requests enter the queue of a core's die as one batch. -/
def State.askWalks (s : State) (o : WalkOwner) (coreNo ctx : Nat) (kind : AccKind) (pages : List Nat) : State :=
  let d := s.die (coreNo / 128)
  s.setDie { d with walks := d.walks ++ [{ owner := o, core := coreNo, ctx := ctx, kind := kind, since := s.cycle (coreNo / 512)
                                           pages := pages.map fun p => (p, false) }] }

/-- A split cannot issue: it waits until what it needs is free. -/
def State.holdIssue (s : State) (t : Team) (x : Split) : State :=
  s.setTeam (t.setSplit { x with wait := .scoreboard, block := .issue, since := s.tick })

/-- The walk that a split's fetch from a page needs first: it enters the queue; with a full queue the fetch waits. -/
def State.fetchWalk (s : State) (t : Team) (x : Split) (va : Nat) : Option State :=
  let pages := s.pagesToWalk t x.walked { bytes := 1, kind := .fetch } [va]
  if pages.isEmpty then none
  else some (if s.walkRoom t pages.length then
      (s.askWalks (.split t.key x.id) t.coreNo t.ctx .fetch pages).setTeam
        (t.setSplit { x with wait := .scoreboard, block := .walks, since := s.tick })
    else s.holdIssue t x)

/-! ### The line -/

/-- Whether `n` bits of `x` from bit `lo` up hold an odd number of ones. -/
def oddOnes (x lo n : Nat) : Bool := (List.range n).foldl (fun b i => b != x.testBit (lo + i)) false

/-- The line word of 64 bytes (R22). -/
def lineWord (bs : List Byte) : Word := BitVec.ofNat 32 (leNat (bs.drop 60))

/-- Every 60-bit group with its parity bit holds an even number of ones (R27). -/
def parityOk (bs : List Byte) : Bool :=
  let x := leNat bs
  let w := lineWord bs
  (List.range 8).all fun j => oddOnes x (60 * j) 60 == w.getLsbD (24 + j)

/-- Bits [23:9] of the line word are zero (R24). -/
def reservedOk (bs : List Byte) : Bool := (lineWord bs).extractLsb' 9 15 == 0

/-- TGT bit of a slot. -/
def tgtBit (bs : List Byte) (slot : Nat) : Bool := decide (slot ≤ 4) && (lineWord bs).getLsbD slot

/-- The word of a slot. -/
def slotWord (bs : List Byte) (slot : Nat) : Insn := insnOfBytes ((bs.drop (12 * slot)).take 12)

/-- What a fetch of a line gives. -/
inductive LineFetch where
  | ok (bytes : List Byte)
  /-- The page has no translation for a fetch. -/
  | fatal
  | replay
  | dieLost
  /-- The home, or a page-table entry, is on a package to which no port is up (R380). -/
  | linkDown
  /-- Parity fails after one refetch; the bytes. -/
  | parity (bytes : List Byte)
  | reserved (bytes : List Byte)
  deriving DecidableEq, Repr

/-- A line's bytes come from its home by a reply (R255, R264); none where the home cannot be reached (R380). What is
poisoned is used as it arrives: no rule gives a fetch of it a fault, and its parity is checked (notes/assumptions/41). -/
def State.lineFromHome (s : State) (coreNo pa : Nat) : State × Option (List Byte) :=
  if !s.reachable coreNo (homeDie pa) then (s, none)
  else ((s.touchL2 pa 64).flitsArrived ((sectorsOf pa 64).map .home), some (s.replyRead pa 64))

/-- The bytes that a fetch sees: a cached line may show each half as it was or as it is (R28). -/
def State.lineBytes (s : State) (coreNo ctx va pa : Nat) : State × Option (List Byte) :=
  let now := s.homeRead pa 64
  let c := s.core coreNo
  match c.icache.find? fun l => l.ctx == ctx && l.va == va with
  | none =>
    match s.lineFromHome coreNo pa with
    | (s, none) => (s, none)
    | (s, some bs) => (s.setCore { c with icache := { ctx := ctx, va := va, pa := pa, bytes := bs } :: c.icache }, some bs)
  | some l =>
    if l.bytes = now then (s, some now)
    else
      let half (i : Nat) : List Byte :=
        ((if Config.fetchOld s.tick i then l.bytes else now).drop (32 * i)).take 32
      let seen := half 0 ++ half 1
      ((s.setCore { c with icache := c.icache.map fun m => if m.ctx = ctx ∧ m.va = va then { l with bytes := seen } else m }).bump,
        some seen)

/-- The parity fails: the line is fetched once more, from L2 (R27). -/
def State.refetch (s : State) (coreNo pa : Nat) (bs : List Byte) : State × List Byte :=
  if parityOk bs then (s, bs)
  else
    let (s, r) := s.lineFromHome coreNo pa
    (s, r.getD bs)

/-- Fetches the line of an address: translation, then checks 1 and 2 of Table 3.15. A parity failure refetches the
line once from L2. -/
def State.fetchLine (s : State) (coreNo ctx va : Nat) : State × LineFetch :=
  match s.translate coreNo ctx va .fetch with
  | (s, .replay) => (s, .replay)
  | (s, .fatal) | (s, .permission) => (s, .fatal)
  | (s, .lost) => (s, .dieLost)
  | (s, .down) => (s, .linkDown)
  | (s, .ok pa _ _) =>
    if s.fencedAt pa then (s, .dieLost)
    else
      match s.lineBytes coreNo ctx va pa with
      | (s, none) => (s, .linkDown)
      | (s, some bs) =>
        let (s, bs) := s.refetch coreNo pa bs
        if !parityOk bs then (s, .parity bs)
        else if !reservedOk bs then (s, .reserved bs)
        else (s, .ok bs)

end Sys2Proof.Machine
end

