-- ==== Sys2Proof/Machine/Control.lean ====
section
/-! DEFINITION. Control flow: opcodes 0x60 to 0x6A, the target check and the end of a nap (07 R142 to R155). -/
namespace Sys2Proof.Machine

/-- The value of a uniform operand (R113). -/
def Ex1.uniform (e : Ex1) (o : Operand) (imm : BitVec 8) : Word := readField e.t [] (immPlain imm) e.low o 0

/-- A pass of class 4 for each nonzero mask word (Table 17.4). -/
def Ex1.charged (e : Ex1) (s : State) : Ex1 := { e with t := s.charge e.t 4 (passes e.x.mask) }

/-! ### Transfers and divisions (R95, R96, R101, R143) -/

/-- SPLIT_DEPTH: j2 = live entries, j3 = lowest active slot of the split. It states no address: ADDR is 0 (R157; DEDUCED,
notes/assumptions/40). -/
def Ex1.tooDeep (e : Ex1) (s : State) : State :=
  s.raise e.t e.x
    (e.cause codeSplitDepth (BitVec.ofNat 32 e.t.splits.length) (lowestSlot e.x.mask) e.mask)

/-- The split at its next PC, with what its last instruction left in it cleared. -/
def Split.goTo (x : Split) (pc : Pc) : Split :=
  { x.clear with pc := pc, wait := .ready, block := .none }

/-- The split after a transfer: its target is checked when it is first fetched (R145). -/
def Split.jump (x : Split) (fromPc target : Pc) : Split := { x.goTo target with check := some fromPc }

/-- A transfer to a PC not after the branch's own increases the lap (R96). -/
def Split.lapTo (x : Split) (fromPc target : Pc) : Split :=
  if target.toNat ≤ fromPc.toNat then { x with lap := x.lap + 1 } else x

/-- A transfer that raises a lap takes lanes out of a frame instance, and its other members may then be complete (R96,
R97; notes/assumptions/30). -/
def Team.afterLap (t : Team) (raised : Bool) : Team := if raised then t.mergeJoins else t

/-- The whole split transfers; a taken branch ends its shadow. -/
def Ex1.jumpAll (e : Ex1) (x : Split) : Team := (e.t.setSplit x).endShadow x.id

/-- R143: with a guard that holds for some active lanes only, those lanes stay in the split and the others go on in a
sibling. -/
def Ex1.carve (e : Ex1) (s : State) (k : Ex1 → State → State) : State :=
  let rest := e.x.mask &&& ~~~e.mask
  if rest = 0 then k e s
  else if !e.t.roomFor 1 then e.tooDeep s
  else
    let a := { e.x with mask := e.mask }
    let b := { e.x.goTo (pcNext e.pc) with mask := rest }
    let t := e.t.divide e.x ⟨none, [a, b]⟩
    k { e with t := t, x := (t.split? e.x.id).getD a } s

/-- The split's lanes go to the groups given, in a new frame or in the split's own. One group creates no split. -/
def Ex1.scatter (e : Ex1) (s : State) (frame : Option Pc) (groups : List Split) : State :=
  let d : Division := ⟨frame, groups⟩
  if e.t.roomFor d.needs then
    s.setTeam ((e.t.divide e.x d).afterLap (frame.isNone && groups.any fun g => g.lap != e.x.lap))
  else e.tooDeep s

/-- The PC that a byte offset names, and whether bits [5:3] are zero and the slot is 0 to 4 (R144). -/
def offsetTarget (pc : Pc) (off : Word) : Pc := pcLine pc + off.signExtend 57
def targetOk (pc : Pc) : Bool := pc.extractLsb' 3 3 == 0#3 && decide (pcSlot pc ≤ 4)

/-- The slot's TGT bit is clear. A line that cannot be read counts as marked (notes/assumptions/15). -/
def tgtClear (s : State) (t : Team) (pc : Pc) : State × Bool :=
  match s.fetchLine t.coreNo t.ctx (pcLine pc).toNat with
  | (s, .ok bs) => (s, !tgtBit bs (pcSlot pc))
  | (s, _) => (s, false)

/-- The join of a division that makes a frame is no slot that may be entered (R25, R144). -/
def Ex1.badJoin (e : Ex1) (s : State) (j : Pc) : State × Bool := if targetOk j then tgtClear s e.t j else (s, true)

/-- Groups of slots by PC, lowest first. -/
def groupByPc (l : List (Nat × Pc)) : List (Pc × Mask) :=
  l.foldl (fun acc (slot, pc) =>
    let rec ins : List (Pc × Mask) → List (Pc × Mask)
      | [] => [(pc, maskOf [slot])]
      | (q, m) :: r =>
        if q = pc then (q, m ||| maskOf [slot]) :: r
        else if pc.toNat < q.toNat then (pc, maskOf [slot]) :: (q, m) :: r
        else (q, m) :: ins r
    ins acc) []

/-! ### Branches -/

/-- The frame that a join makes: none where it is the split's own (R95). -/
def Ex1.frame (e : Ex1) (join : Option Pc) : Option Pc := join.bind fun j => if j = e.x.join then none else some j

/-- The join of a new frame is looked at before the division: where it may not be entered the whole split raises
ILLEGAL_TARGET at the instruction, its contributing lanes faulting (R25, R144; notes/assumptions/15). The walk of its page
comes first (R262). -/
def Ex1.withJoin (e : Ex1) (s : State) (join : Option Pc) (k : State → State) : State :=
  match join with
  | none => k s
  | some j =>
    match if targetOk j then s.fetchWalk e.t { e.x with again := true } (pcLine j).toNat else none with
    | some s => s
    | none =>
      let (s, bad) := e.badJoin s j
      if bad then e.fault s codeIllegalTarget (j.setWidth 32) j.toNat else k s

/-- The division or transfer of a `bra` (R95). -/
def Ex1.branch (e : Ex1) (s : State) (target : Pc) (join : Option Pc) : State :=
  let rest := e.x.mask &&& ~~~e.mask
  let back := decide (target.toNat ≤ e.pc.toNat)
  let a := (e.x.jump e.pc target).lapTo e.pc target
  if rest = 0 then s.setTeam ((e.jumpAll a).afterLap back)
  else
    let frame := e.frame join
    e.withJoin s frame fun s =>
      let d : Division := ⟨frame, [{ a with mask := e.mask }, { e.x.goTo (pcNext e.pc) with mask := rest }]⟩
      if e.t.roomFor d.needs then s.setTeam ((e.t.divide e.x d).afterLap (back && frame.isNone)) else e.tooDeep s

/-- `bra`, `bra.div` (R95, R96). -/
def execBra (div : Bool) (x : BrOp) (s : State) : Host.Outcome State Fault Refusal :=
  issue (.bra div x) s fun e s =>
    let e := e.charged s
    e.branch s (branchTarget e.pc x.toff x.tslot)
      (if div then some (branchTarget e.pc x.joff x.jslot) else none)

/-- The groups of a `brx`: valid targets in increasing order, then the lanes whose offset is bad. Of these the lowest
slot's target is the one that the fault names, and their lap stays (notes/assumptions/15). -/
def brxGroups (e : Ex1) (offs : List (Nat × Word)) : List Split :=
  let targets := offs.map fun (slot, off) => (slot, offsetTarget e.pc off)
  let good := groupByPc (targets.filter fun p => targetOk p.2)
  let bad := targets.filter fun p => !targetOk p.2
  good.map (fun (pc, m) => { (e.x.jump e.pc pc).lapTo e.pc pc with mask := m }) ++
    match bad with
    | [] => []
    | (slot, pc) :: r => [{ e.x.jump e.pc pc with mask := maskOf (slot :: r.map Prod.fst) }]

/-- `brx` (R144). -/
def execBrx (x : PlainOp) (s : State) : Host.Outcome State Fault Refusal :=
  issue (.brx x) s fun e s =>
    let e := e.charged s
    let join : Option Pc := if x.b = .zero then none else some (offsetTarget e.pc (e.uniform x.b x.imm))
    e.withJoin s join fun s =>
      e.carve s fun e s =>
        match brxGroups e (e.slots.map fun i => (i, e.t.regRead i x.a 0)) with
        | [g] =>
          if targetOk g.pc then s.setTeam ((e.jumpAll g).afterLap (g.lap != e.x.lap)) else e.scatter s (e.frame join) [g]
        | gs => e.scatter s (e.frame join) gs

/-! ### Calls (R146, R147, Table 7.2) -/

def Lane.depth (l : Lane) : Nat := leNat (l.slice.read 0 4)
def Lane.ret (l : Lane) (i : Nat) : Pc := BitVec.ofNat 57 (leNat (l.slice.read (8 + 8 * i) 8))
def Lane.setDepth (l : Lane) (d : Nat) : Lane := { l with slice := l.slice.write 0 (leBytes 4 d) }
def Lane.pushRet (l : Lane) (pc : Pc) : Lane :=
  let d := l.depth
  ({ l with slice := l.slice.write (8 + 8 * d) (leBytes 8 pc.toNat) }).setDepth (d + 1)

/-- `call` (R147). -/
def execCall (x : BrOp) (s : State) : Host.Outcome State Fault Refusal :=
  issue (.call x) s fun e s =>
    let e := e.charged s
    e.carve s fun e s =>
      match e.slots.find? fun i => decide (e.t.entry.slice < 128) || (e.t.lane i).depth == 15 with
      | some i => s.raise e.t e.x (e.cause codeBounds 0 i e.mask)
      | none =>
        let t := e.slots.foldl (fun t i => t.setLane i ((t.lane i).pushRet (pcNext e.pc))) e.t
        s.setTeam ({ e with t := t }.jumpAll (e.x.jump e.pc (branchTarget e.pc x.toff x.tslot)))

/-- `ret` (R147). A link-area word with an uncorrectable error is used as it stands: DESIGN CHOICE, R147 names no trap for it and
R264 traps loads and stores of a slice (notes/assumptions/32). -/
def execRet (h : Head) (s : State) : Host.Outcome State Fault Refusal :=
  issue (.ret h) s fun e s =>
    let e := e.charged s
    e.carve s fun e s =>
      match e.slots.find? fun i => decide (e.t.entry.slice < 128) || (e.t.lane i).depth == 0 with
      | some i => s.raise e.t e.x (e.cause codeIllegalTarget 0 i e.mask)
      | none =>
        let groups := groupByPc (e.slots.map fun i => (i, (e.t.lane i).ret ((e.t.lane i).depth - 1)))
        let pop (t : Team) : Team := e.slots.foldl (fun t i => t.setLane i ((t.lane i).setDepth ((t.lane i).depth - 1))) t
        let gs := groups.map fun (pc, m) => { e.x.jump e.pc pc with mask := m }
        if e.t.roomFor (gs.length - 1) then ({ e with t := pop e.t }).scatter s none gs else e.tooDeep s

/-! ### Join and exit -/

/-- `join`, `join.any` (R97, R98, R148). -/
def execJoin (any : Bool) (h : Head) (s : State) : Host.Outcome State Fault Refusal :=
  issue (.join any h) s fun e s =>
    let t := (e.charged s).t
    if e.x.creator = noEntry ∨ e.x.join ≠ e.pc then s.setTeam (e.advance t)
    else s.setTeam (t.setSplit { e.x with wait := .join, joinAny := any, since := s.tick }).mergeJoins

/-- `exit` (R99, R143, R149). -/
def execExit (h : Head) (s : State) : Host.Outcome State Fault Refusal :=
  issue (.exit h) s fun e s =>
    let e := e.charged s
    e.carve s fun e s => s.exitLanes e.t e.mask

/-! ### Traps (R152 to R155) -/

/-- `trap` and `brk`: j2 = u32(a) of the lowest trapping slot, resume at the next instruction. -/
def execSoftware (i : Instr) (x : PlainOp) (code : Nat) (s : State) : Host.Outcome State Fault Refusal :=
  issue i s fun e s =>
    let e := e.charged s
    e.carve s fun e s =>
      withPopsOn e.slots i x.ops e s fun e pops s =>
        let a := readField e.t pops.a (immPlain x.imm) e.low x.a 0
        s.raise e.t e.x { e.cause code a e.low e.mask a.toNat with resume := pcNext e.pc }

def execTrap (x : PlainOp) (s : State) : Host.Outcome State Fault Refusal := execSoftware (.trap x) x codeSoftware s
def execBrk (x : PlainOp) (s : State) : Host.Outcome State Fault Refusal := execSoftware (.brk x) x codeBreakpoint s

/-- `tret` (R153, R334). -/
def execTret (h : Head) (s : State) : Host.Outcome State Fault Refusal :=
  issue (.tret h) s fun e s =>
    let e := e.charged s
    match e.x.trap with
    | none => e.fault s codeIllegalOpcode
    | some m =>
      if m.preempt then e.fault s codeIllegalOpcode
      else if e.x.join = m.join ∧ e.x.creator = m.creator ∧ e.x.lap = m.lap then
        let (s, t) := s.deliverNext (e.t.trapReturn e.x m e.pc)
        s.setTeam t
      else e.fault s codeDoubleTrap

/-! ### Reading the split table, pausing -/

/-- The status word (Table 5.4). -/
def Split.status (x : Split) : Word :=
  x.lap.setWidth 32 ||| ((if x.dem then 1 else 0 : Word) <<< 8) ||| (x.wait.code.setWidth 32 <<< 9) |||
    ((if x.record then 1 else 0 : Word) <<< 13)

/-- Table 7.3. -/
def rdsplitValue (t : Team) (x : Split) (slot : Nat) (sel : Nat) : Word :=
  match sel with
  | 0 => BitVec.ofNat 32 (x.id + x.creator * 2 ^ 16)
  | 1 => x.status
  | 2 => x.join.setWidth 32
  | 3 => BitVec.ofNat 32 t.splits.length
  | 4 => BitVec.ofNat 32 t.spilledCount
  | 5 => BitVec.ofNat 32 (t.lane slot).depth
  | 6 => match x.trap with | some m => if slotIn m.faulting slot then 1 else 0 | none => 0
  | _ => 0

/-- `rdsplit` (R151). -/
def execRdsplit (x : PlainOp) (s : State) : Host.Outcome State Fault Refusal :=
  issue (.rdsplit x) s fun e s =>
    let sel := (e.uniform x.a x.imm).toNat
    let ws := (execSlots x.d e.slots).flatMap fun i => destWrites x.d i [rdsplitValue e.t e.x i sel]
    s.setTeam (e.advance ((e.charged s).t.applyWrites ws))

/-- `nap` (R150). -/
def execNap (x : PlainOp) (s : State) : Host.Outcome State Fault Refusal :=
  issue (.nap x) s fun e s =>
    let n := (e.uniform x.a x.imm).toNat
    let t := e.advance (e.charged s).t
    match t.split? e.x.id with
    | some y => s.setTeam (if n = 0 then t else t.setSplit { y with wait := .nap, since := s.tick, napUntil := s.cycle t.pkg + n })
    | none => s.setTeam t

/-- The package's clock is at least at a cycle. -/
def State.clockTo (s : State) (p n : Nat) : State :=
  if (s.pkg p).cycle < n then s.setPkg { s.pkg p with cycle := n } else s

/-- A nap ends: not before its cycle, to which the clock moves (R150). -/
def execNapExpiry (team split : Nat) (s : State) : Host.Outcome State Fault Refusal :=
  .next (match s.team? team with
    | none => s
    | some t =>
      match t.split? split with
      | none => s
      | some x =>
        if x.wait = .nap then (s.clockTo t.pkg x.napUntil).setTeam (t.setSplit { x with wait := .ready }) else s)

/-! ### The first fetch of a target (R25, R145, R444) -/

/-- A fault at a creation: fatal whatever the label, of level 0 (R444); a constant word on a fenced die or behind links that
are down, which R444 does not name, has the level of its code (Table 25.3). -/
def State.creationFault (s : State) (t : Team) (code addr : Nat) : State :=
  let m := maskOf (List.range t.lanes.length)
  let level := if code = codeDieLost ∨ code = codeLinkDown then codeLevel code else 0
  s.fatal t { code := code, level := level, pc := t.entry.pc, addr := addr, lanes := m &&& 0xFFFFFFFF }

/-- Faults of a fetch that every fetch of a line can meet: translation, the fence of a die, parity, the line word.
`from'`: the PC that translation faults report. ADDR is the PC fetched from (DEDUCED from R157, notes/assumptions/40: the spec
states j2 for FETCH_PARITY and ILLEGAL_LINE and no address). -/
def State.fetchFault (s : State) (t : Team) (x : Split) (fromPc : Pc) (r : LineFetch) : State :=
  let c (code : Nat) (pc : Pc) (j2 : Word) : Cause :=
    { code := code, level := codeLevel code, pc := pc, j2 := j2, j3 := BitVec.ofNat 32 (lowestSlot x.mask)
      addr := x.pc.toNat, lanes := x.mask, resume := pc }
  match r with
  | .ok _ => s
  | .fatal => s.raise t x (c codeTranslation fromPc (x.pc.setWidth 32))
  | .dieLost => s.raise t x (c codeDieLost fromPc (x.pc.setWidth 32))
  | .linkDown => s.raise t x (c codeLinkDown fromPc (x.pc.setWidth 32))
  | .replay =>
    s.setTeam (t.setSplit { x with
      wait := .fault, since := s.tick, holds := fetchKey (pcLine x.pc).toNat :: x.holds
      block := .page .fetch (c codeTranslation fromPc (x.pc.setWidth 32))
        [(lowestSlot x.mask, x.pc.toNat, (pcLine x.pc).toNat)] })
  | .parity bs => s.raise t x (c codeFetchParity x.pc (lineWord bs))
  | .reserved bs => s.raise t x (c codeIllegalLine x.pc (lineWord bs))

/-- TARGET_CHECK. -/
def execTargetCheck (team split : Nat) (s : State) : Host.Outcome State Fault Refusal :=
  .next (match s.team? team with
    | none => s
    | some t =>
      match t.split? split with
      | none => s
      | some x =>
        match x.check with
        | none => s
        | some fromPc =>
          let done := { x with check := none, fresh := false }
          let illegal (s : State) : State :=
            if x.fresh then s.creationFault t codeIllegalTarget x.pc.toNat
            else s.raise t done
              { code := codeIllegalTarget, level := 0, pc := fromPc, j2 := x.pc.setWidth 32
                j3 := BitVec.ofNat 32 (lowestSlot x.mask), addr := x.pc.toNat, lanes := x.mask, resume := fromPc }
          if !targetOk x.pc then illegal s
          else
            match s.fetchWalk t x (pcLine x.pc).toNat with
            | some s => s
            | none =>
            match s.fetchLine t.coreNo t.ctx (pcLine x.pc).toNat with
            | (s, .ok bs) => if tgtBit bs (pcSlot x.pc) then s.setTeam (t.setSplit done) else illegal s
            | (s, .replay) => s.fetchFault t x fromPc .replay
            | (s, r) => s.fetchFault t done fromPc r)

end Sys2Proof.Machine
end

