-- ==== Sys2Proof/Machine/MemIssue.lean ====
section
/-! DEFINITION. The frame of a memory instruction: addresses, the checks of every lane, passes and miss entries,
release and acquire, poison (08 R167 to R188). -/
namespace Sys2Proof.Machine

/-- One lane's access with its address and place. -/
structure Acc where
  slot : Nat
  addr : Nat
  loc : Loc
  deriving DecidableEq, Repr

/-! ### Addresses (R36, R37, R168, R170) -/

/-- A + B × w + disp × w modulo 2^64. -/
def memAddr (t : Team) (x : MemOp) (indexed : Bool) (slot : Nat) : Nat :=
  let get (o : Operand) : Int := (readField t [] (immPlain x.imm) slot o 0).toNat
  let w : Int := x.width.bytes
  let disp : Int := if x.b = .imm ∨ x.c = .imm then 0 else x.imm.toInt
  wrapInt 64 (get x.a + (if indexed then get x.b * w else 0) + disp * w)

/-- A uniform access is performed once (R170). -/
def memUniform (x : MemOp) : Bool :=
  x.space != .lane && x.a.isUniform && x.b.isUniform && x.c.isUniform &&
    match x.d with
    | .v _ => false
    | _ => true

/-- Locates the accesses of a list of slots. -/
def State.locateAll (s : State) (t : Team) (sp : Space) (need : Need) :
    List (Nat × Nat) → State × List (Nat × Nat × Except Denied Loc)
  | [] => (s, [])
  | (slot, a) :: r =>
    let (s, d) := s.locate t slot sp a need
    let (s, l) := s.locateAll t sp need r
    (s, (slot, a, d) :: l)

/-- Outcome of the checks of every lane (R178). -/
structure Checked where
  good : List Acc := []
  /-- Slot, address and code. -/
  bad : List (Nat × Nat × Nat) := []
  lost : List (Nat × Nat × Nat) := []
  /-- Slot, address, and the address whose page is replayable. -/
  waits : List (Nat × Nat × Nat) := []
  deriving DecidableEq, Repr

def Checked.add (c : Checked) : Nat × Nat × Except Denied Loc → Checked
  | (slot, a, .ok l) => { c with good := c.good ++ [⟨slot, a, l⟩] }
  | (slot, a, .error (.replay va)) => { c with waits := c.waits ++ [(slot, a, va)] }
  | (slot, a, .error (.fault code)) =>
    if code = codeDieLost ∨ code = codeLinkDown then { c with lost := c.lost ++ [(slot, a, code)] }
    else { c with bad := c.bad ++ [(slot, a, code)] }

/-! ### What an access is held back by (R184, R185, R260) -/

/-- Keys of the lines that `n` bytes at a virtual address of `.glb` name; keys of places are `Loc.keys`. -/
def vaKeys (a n : Nat) : List Nat := (unitsOf 128 a n).map (2 ^ 80 + ·)

/-- Keys of the lines of a place, apart by space: the team's own slices and scratchpad, its pool, its die, `.glb` by
physical and virtual line, and the registers of the aperture. -/
def Loc.keys (n : Nat) : Loc → List Nat
  | .glb ps => ps.flatMap fun (va, pa, k) => unitsOf 128 pa k ++ vaKeys va k
  | .dieRam d off => (unitsOf 128 off n).map (2 ^ 50 + d * 2 ^ 20 + ·)
  | .pool g off => (unitsOf 128 off n).map (2 ^ 60 + g * 2 ^ 20 + ·)
  | .scratch off => (unitsOf 128 off n).map (2 ^ 70 + ·)
  | .slice slot off => (unitsOf 128 off n).map (2 ^ 75 + slot * 2 ^ 20 + ·)
  | .regs slot (.p _) k => (List.range k).filterMap fun i => regKey (slot + i) (.p 0)
  | .regs slot o k => groupKeys slot (o, k)

/-- The instruction's accesses name these lines from now on. -/
def Ex1.holding (e : Ex1) (keys : List Nat) : Ex1 :=
  let x := { e.x with holds := keys }
  { e with x := x, t := e.t.setSplit x }

/-- The accesses go ahead once no earlier one of the team holds them back; until then the split waits (R185, R260). -/
def Ex1.ordered (e : Ex1) (keys : List Nat) (s : State) (k : Ex1 → State → State) : State :=
  let e := e.holding keys
  if e.t.heldBack e.x keys then s.stall e.t e.x else k e s

/-! ### Miss entries and rejection (R181 to R184) -/

/-- How an instruction's accesses use miss entries. -/
structure LineUse where
  /-- Every `.glb` access takes entries, whatever the L1 holds. -/
  home : Bool := false
  na : Bool := false
  /-- It writes: a line that the L1 holds takes the bytes. -/
  write : Bool := false
  /-- `atom`, `cas`, `red`, and a `wait` that reads again: also in the team's own scratchpad. -/
  atomic : Bool := false
  /-- `lds`, `sts`: never in the pool (R171). -/
  short : Bool := false
  deriving DecidableEq, Repr

/-- Lines, numbered as `Loc.keys` numbers them, that an access takes entries for (R181, R223). -/
def Loc.lines (s : State) (t : Team) (u : LineUse) (n : Nat) : Loc → List Nat
  | .glb ps =>
    (ps.filter fun (va, pa, k) => u.home || u.na || !s.l1Serves t.coreNo t.ctx va pa k u.write).map fun (_, pa, _) => pa / 128
  | .dieRam d off => (Loc.dieRam d off).keys n
  | .pool g off =>
    if u.short then []
    else ((unitsOf 128 off n).filter fun q => q / 2 % 4 != t.core % 4).map (2 ^ 60 + g * 2 ^ 20 + ·)
  | .scratch off => if u.atomic then (Loc.scratch off).keys n else []
  | _ => []

/-- The response of a request has not come. -/
def Request.isOpen (r : Request) : Bool := r.state == .sent || r.state == .performed

/-- Entries of a core that wait for replies. -/
def State.entriesUsed (s : State) (coreNo : Nat) : Nat :=
  (s.teams.map fun t =>
    if t.coreNo = coreNo then (t.landings.map fun l => l.lines.length).sum else 0).sum +
  ((s.die (coreNo / 128)).requests.filter fun r => r.core == coreNo && r.isOpen).length

/-- Entries for all lines of a pass are free for a team, beside those held for the head of the queue. -/
def State.accepts (s : State) (t : Team) (lines : Nat) : Bool :=
  let free := Config.missEntries - s.entriesUsed t.coreNo
  lines = 0 || match s.reservation t.coreNo with
    | some u =>
      if u.key = t.key then decide (lines ≤ free) else decide (lines + (u.needs.map Prod.fst).getD 0 ≤ free)
    | none => decide (lines ≤ free)

/-- What the passes of an instruction have come to. -/
structure Run where
  /-- Lanes that read poison, and whether one met an error of the unified store. -/
  bad : Mask := 0
  unified : Bool := false
  failed : Bool := false
  /-- Lanes of later words that are served. -/
  ahead : Mask := 0
  /-- Lanes whose access could not be performed: slot, address, code. -/
  lost : List (Nat × Nat × Nat) := []
  deriving DecidableEq, Repr

/-- What an instruction that issues again has done so far. -/
def Split.run (x : Split) : Run := ⟨x.poisoned, x.unified, x.failed, x.ahead, x.lost⟩
def Split.keep (x : Split) (r : Run) : Split :=
  { x with poisoned := r.bad, unified := r.unified, failed := r.failed, ahead := r.ahead, lost := r.lost }

/-- A rejected pass: reason 2, the count, the reservation at the 16th (R182, R183). `need`: entries and walk requests. -/
def State.reject (s : State) (t : Team) (x : Split) (word : Nat) (need : Nat × Nat) (r : Run) : State :=
  let n := t.rejections + 1
  let t := { t with rejections := n, reserved := if n < 16 ∨ t.reserved.isSome then t.reserved else some s.tick }
  s.setTeam (t.setSplit { x.keep r with
    wait := .rejected, block := .none, since := s.tick, again := true, accepted := word
    needEntries := need.1, needWalks := need.2 })

/-- A pass of a team is accepted: when it was rejected before and the team had queued, the team leaves the queue and
its count is zero. -/
def Team.accepted (t : Team) (x : Split) : Team :=
  if t.reserved.isSome && (x.needEntries != 0 || x.needWalks != 0) then { t with reserved := none, rejections := 0 } else t

/-! ### Translation of the lanes (R178, R259 to R262) -/

/-- The walks that the accesses need enter the queue as one batch, and the split waits for them; a full queue rejects
the pass (R262). Without any it goes on. -/
def Ex1.withWalks (e : Ex1) (need : Need) (addrs : List Nat) (s : State) (k : State → State) : State :=
  let pages := s.pagesToWalk e.t e.x.walked need addrs
  if pages.isEmpty then k s
  else
    let e := if need.kind = .fetch then e else e.holding (addrs.flatMap fun a => vaKeys a need.bytes)
    if s.walkRoom e.t pages.length then
      (s.askWalks (.split e.t.key e.x.id) e.t.coreNo e.t.ctx need.kind pages).setTeam ((e.t.accepted e.x).setSplit { e.x with
        wait := .scoreboard, block := .walks, since := s.tick, again := true, needWalks := 0 })
    else s.reject e.t e.x e.x.accepted (0, pages.length) e.x.run

/-- The lanes that failed wait in a split of their own at the same instruction; the others go on. -/
def Ex1.splitWaiting (e : Ex1) (kind : AccKind) (bytes : Nat) (waits : List (Nat × Nat × Nat)) (s : State)
    (k : Ex1 → State → State) : State :=
  if waits.isEmpty then k e s
  else
    let m := maskOf (waits.map Prod.fst)
    let rest := e.x.mask &&& ~~~m
    let w : Split := { e.x with
      mask := m, wait := .fault, since := s.tick, again := true, src := []
      poisoned := e.x.poisoned &&& m, lost := e.x.lost.filter fun l => slotIn m l.1
      op := e.x.op.filter fun i => i.writes.any fun g => match g.1 with | .td _ => true | _ => false
      block := .page kind (e.cause codeTranslation 0 0 0) waits
      holds := waits.flatMap fun (_, a, _) => vaKeys a bytes }
    if rest = 0 then s.setTeam (e.t.setSplit w)
    else if !e.t.roomFor 1 then e.tooDeep s
    else
      let t := e.t.divide e.x ⟨none, [{ e.x with
        mask := rest, poisoned := e.x.poisoned &&& rest, lost := e.x.lost.filter fun l => slotIn rest l.1 }, w]⟩
      let e' := { e with t := t, x := (t.split? e.x.id).getD e.x, slots := e.slots.filter fun i => !slotIn m i }
      if e'.slots.isEmpty then s.setTeam (e'.advance t) else k e' s

/-! ### Energy of an access (Table 17.4) -/

/-- Rinkway flits for a line of another package: a reply of 128 bytes with its tag, and a request with its own; what a
header takes beyond is not stated (R377, notes/assumptions/22). -/
def State.lineFlits (s : State) : Nat := 4 + Config.headerFlits s.tick

/-- Units of classes 5 to 9 for the accesses of one pass. -/
def State.chargePass (s : State) (t : Team) (u : LineUse) (accs : List Acc) : State × Team :=
  let local' := accs.any fun a => match a.loc with | .glb _ | .dieRam _ _ => false | _ => true
  let dieLines := (accs.filterMap fun a => match a.loc with | .dieRam _ o => some (o / 128) | _ => none).eraseDups
  let lines := (accs.flatMap fun a => match a.loc with | .glb ps => ps.map fun (_, pa, _) => pa / 128 | _ => []).eraseDups
  let missed := (accs.flatMap fun a => match a.loc with
    | .glb ps => (ps.filter fun (va, pa, k) => u.home || !s.l1Serves t.coreNo t.ctx va pa k u.write).map fun (_, pa, _) => pa / 128
    | _ => []).eraseDups
  let t := if local' || missed.length < lines.length then s.charge t 5 1 else t
  let t := s.charge t 6 dieLines.length
  let t := missed.foldl (fun t l =>
    let t := s.charge t (if s.inL2 l then 6 else 7) 1
    let home := homeDie (l * 128)
    if home = t.dieNo then t else if home / 4 = t.pkg then s.charge t 8 1 else s.charge t 9 s.lineFlits) t
  (if missed.isEmpty then s else s.bump, t)

/-! ### Passes -/

/-- What an access gives: for the lanes that it serves their register words, none where the lane reads poison; and
whether it failed (`cas`). -/
structure AccOut where
  s : State
  t : Team
  outs : List (Nat × Option (List Word)) := []
  failed : Bool := false

/-- How a memory instruction performs its accesses. -/
structure Plan where
  i : Instr
  x : MemOp
  /-- One lane's access. -/
  one : State → Team → Acc → AccOut
  use : LineUse := {}
  /-- The result is in flight under LOOK. -/
  long : Bool := false
  look : Nat := 0
  kind : LandKind := .miss
  /-- It reads nothing, and a pass may clear poison (R179). -/
  store : Bool := false
  /-- Accesses to another package leave as requests, with the operands B and C of a slot (R399, R401). -/
  remote : Option (ReqKind × (Team → Nat → Nat × Nat)) := none

/-- The accesses of one pass in increasing slot order: results, poisoned lanes, failure, lanes served. -/
def runAccs (one : State → Team → Acc → AccOut) (d : Operand) :
    List Acc → State → Team → State × Team × List RegWrite × List Nat × Bool × List Nat
  | [], s, t => (s, t, [], [], false, [])
  | a :: as, s, t =>
    let r := one s t a
    let (s, t, ws, bad, f, served) := runAccs one d as r.s r.t
    let mine := r.outs.flatMap fun o => match o.2 with | some w => destWrites d o.1 w | none => []
    let lost := (r.outs.filter fun o => o.2.isNone).map Prod.fst
    (s, t, mine ++ ws, lost ++ bad, f || r.failed, r.outs.map Prod.fst ++ served)

/-- Accesses by mask word. -/
def accPasses (accs : List Acc) : List (Nat × List Acc) :=
  (List.range 32).filterMap fun w =>
    let l := accs.filter fun a => a.slot / 32 == w
    if l.isEmpty then none else some (w, l)

/-- The outcome of the passes. -/
inductive PassesOut where
  | rejected (s : State)
  | done (s : State) (t : Team) (r : Run)

/-- Reading the place meets a word of the unified store with an error. -/
def Loc.unified (s : State) (t : Team) : Loc → Bool
  | .dieRam _ _ => false
  | .glb ps => ps.any fun (_, pa, k) => ((l1Find (s.core t.coreNo).l1 (pa / 128)).map fun ln => ln.badIn (pa % 128) k).getD false
  | _ => true

/-- The physical address of a global access within one line. -/
def Acc.physical (a : Acc) : Nat :=
  match a.loc with
  | .glb ((_, pa, _) :: _) => pa
  | _ => 0

/-- Its home is on another package. -/
def Acc.far (t : Team) (a : Acc) : Bool :=
  match a.loc with
  | .glb _ => homeDie a.physical / 4 != t.pkg
  | _ => false

/-- A request leaves for the lanes of one line; the core's own dirty bytes of it go home first (R185). -/
def State.sendRequest (s : State) (p : Plan) (e : Ex1) (t : Team) (kind : ReqKind) (data : Team → Nat → Nat × Nat)
    (line : Nat) (accs : List Acc) : State :=
  let s := s.l1Flush t.coreNo (128 * line) 128
  let d := s.die t.dieNo
  s.setDie { d with
    nextPacket := d.nextPacket + 1
    requests := d.requests ++ [{
      id := d.nextPacket, team := t.key, split := e.x.id, core := t.coreNo, ctx := t.ctx, dst := homeDie (128 * line), issued := s.tick
      kind := kind, width := p.x.width.bytes, reg := p.x.d, line := line
      lanes := accs.map fun a => { slot := a.slot, va := a.addr, pa := a.physical, b := (data t a.slot).1, c := (data t a.slot).2 } }] }

/-- The accesses of a pass to other packages leave, one request for each line; an atomic takes with it the lanes of later
passes that name the same address (R399, R401). The lanes that are served. -/
def State.sendRequests (s : State) (p : Plan) (e : Ex1) (t : Team) (far later : List Acc) : State × List Nat :=
  match p.remote with
  | none => (s, [])
  | some (kind, data) =>
    let with' := match kind with
      | .read _ => far
      | _ => far ++ later.filter fun (a : Acc) => far.any fun (b : Acc) => b.addr == a.addr
    let lines := (far.map fun a => a.physical / 128).eraseDups
    (lines.foldl (fun s l => s.sendRequest p e t kind data l (with'.filter fun a => a.physical / 128 == l)) s,
      with'.map Acc.slot)

/-- One accepted pass: what the lanes read and write, the results, the entries that its lines hold until the reply. -/
def runPass (p : Plan) (e : Ex1) (accs later : List Acc) (lines : List Nat) (s : State) (t : Team) (r : Run) :
    State × Team × Run :=
  let n := p.x.width.bytes
  let (s, t) := s.chargePass (t.accepted e.x) p.use accs
  let (far, near) := if p.remote.isSome then accs.partition (Acc.far t) else ([], accs)
  let (s, sent) := s.sendRequests p e t far later
  let lines := lines.filter fun l => !far.any fun a => a.physical / 128 == l
  let replies := if p.store then [] else near.flatMap fun a => a.loc.flits s t p.use.home n
  let kept := s.badWrites
  let (before, was) := (s, t)
  let (s, t, ws, b, f, served) := runAccs p.one p.x.d near s t
  let (s, t) := if p.store then s.coverPass t (near.flatMap fun a => a.loc.bytes n) kept else (s.flitsArrived replies, t)
  let t :=
    if p.long then t.launchResult e.x.id p.kind p.look ws 0 lines
    else
      let t := t.applyWrites ws
      if lines.isEmpty then t else t.launchResult e.x.id .miss 0 [] 0 lines
  (s, t, { r with
    bad := r.bad ||| maskOf b, failed := r.failed || f, ahead := r.ahead ||| maskOf (served ++ sent)
    unified := r.unified || near.any fun a => b.contains a.slot && a.loc.unified before was })

/-- Performs passes in increasing word order, until one is rejected. Lanes that an earlier request served make no access,
but their lines count (R399); lanes whose home cannot be reached make none. -/
def runPasses (p : Plan) (e : Ex1) : List (Nat × List Acc) → State → Team → Run → PassesOut
  | [], s, t, r => .done s t r
  | (w, l) :: ps, s, t, r =>
    let gone (a : Acc) : Bool := !(p.remote.isSome && a.far t) && a.loc.unreached s t p.use.home p.use.write
    let (lost, all) := (l.filter fun a => !slotIn r.ahead a.slot || !gone a).partition gone
    let accs := all.filter fun a => !slotIn r.ahead a.slot
    let lines := (all.flatMap fun a => a.loc.lines s t p.use p.x.width.bytes).eraseDups
    let later := ps.flatMap Prod.snd
    if !s.accepts t lines.length then
      let x := { e.x with holds := (accs ++ later).flatMap fun a => a.loc.keys p.x.width.bytes }
      .rejected (s.reject t x w (lines.length, 0) r)
    else
      let (s, t, r) := runPass p e accs later lines s t r
      runPasses p e ps (s.setTeam t) t { r with lost := r.lost ++ lost.map fun (a : Acc) => (a.slot, a.addr, codeLinkDown) }

/-- Lanes of a fault that a set of accessing slots met: a uniform access is every contributing lane's. -/
def Ex1.lanesOf (e : Ex1) (x : MemOp) (m : Mask) : Mask := if memUniform x then e.mask else m

/-! ### Release and acquire of an instruction (R186, R357, R358, R361) -/

/-- Synchronisation words that the accesses include. -/
def accWords (s : State) (t : Team) (bytes : Nat) (accs : List Acc) : Coverage :=
  ⟨accs.flatMap fun a => match a.loc with | .glb _ => bindWords (s.binds t.ctx) a.addr bytes | _ => [], false⟩

/-- A release waits for earlier accesses of other splits and for elements, then writes back. -/
def Ex1.release (e : Ex1) (scope : Nat) (cov : Coverage) (s : State) (k : Ex1 → State → State) : State :=
  let before := e.x.issuedAt
  if e.t.openBefore e.x true then s.stall e.t e.x
  else if s.elementsOpen e.t scope cov before then (s.pushFor e.t (s.scopeHasDie e.t scope) cov before).stall e.t e.x
  else k e (if scopeActs scope then s.releaseL1 e.t.coreNo e.t.ctx cov else s)

def State.acquireAt (s : State) (t : Team) (scope : Nat) (cov : Coverage) : State :=
  if scopeActs scope then s.acquireL1 t.coreNo t.ctx cov else s

/-- LOOK as a shadow: none in VER 0b01 (R31). -/
def headShadow (h : Head) : Nat := if h.ver1 then 0 else h.look.toNat

/-- Puts pairs in slot order. -/
def insertSlot (x : Nat × β) : List (Nat × β) → List (Nat × β)
  | [] => [x]
  | y :: ys => if x.1 ≤ y.1 then x :: y :: ys else y :: insertSlot x ys
def sortSlots (l : List (Nat × β)) : List (Nat × β) := l.foldr insertSlot []

/-! ### The frame -/

/-- Contributing slots whose access is still to be performed; what the split has accepted is counted in units of 32
slots (mask words), or of one slot for elements. -/
def Ex1.remaining (e : Ex1) (unit : Nat) : List Nat :=
  e.slots.filter fun i => decide (e.x.accepted ≤ i / unit) && !slotIn e.x.ahead i

/-- The access waits for what is to be read or written of the registers that it names by the aperture, and results in
flight to them are complete (R164). -/
def Ex1.apertureOrder (e : Ex1) (keys : List Nat) (s : State) (k : Ex1 → State → State) : State :=
  let regs := keys.filter fun h => decide (2 ^ 90 ≤ h) && decide (h < 2 ^ 100)
  if regs.isEmpty then k e s
  else if e.t.regsOpen e.x regs then s.stall e.t e.x
  else k { e with t := e.t.landWhere fun l => !l.silent && l.writes.any fun w => (regKey (w.slot.getD 0) w.reg).any regs.contains } s

/-- Checks every lane, then goes on with the accesses that are to be performed. A `wait` that has read its addresses keeps
them (R174). -/
def Ex1.memChecked (e : Ex1) (x : MemOp) (indexed : Bool) (need : Need) (s : State)
    (k : Ex1 → List Acc → State → State) (unit : Nat := 32) : State :=
  let uni := memUniform x
  let at' := if e.x.src.isEmpty then (if uni then [e.low] else e.remaining unit).map fun i => (i, memAddr e.t x indexed i)
    else (e.x.src.filter fun r => decide (e.x.accepted ≤ r.1 / unit) && !slotIn e.x.ahead r.1).map fun r => (r.1, r.2.1)
  e.withWalks need (if x.space = .glb then at'.map Prod.snd else []) s fun s =>
    let (s, l) := s.locateAll e.t x.space need at'
    let c := l.foldl Checked.add {}
    let deny (l : List (Nat × Nat × Nat)) : State := match l with
      | (slot, a, code) :: r =>
        s.raise e.t e.x (e.cause code (BitVec.ofNat 32 a) slot (e.lanesOf x (maskOf (slot :: r.map fun q => q.1))) a)
      | [] => s
    if !c.bad.isEmpty then deny c.bad
    else
      let waits := if uni then c.waits.flatMap fun (_, w) => e.slots.map fun i => (i, w) else c.waits
      e.splitWaiting need.kind need.bytes waits s fun e s =>
        match c.lost with
        | (slot, a, code) :: r =>
          s.raise e.t e.x (e.cause code (BitVec.ofNat 32 a) slot
            (e.lanesOf x (maskOf (slot :: (r.filter fun q => q.2.2 == code).map fun q => q.1))) a)
        | [] =>
          let keys := c.good.flatMap fun a => a.loc.keys need.bytes
          e.ordered keys s fun e s => e.apertureOrder keys s fun e s => k e c.good s

/-- Marks the split demoted and sends it to the end of the order (R104). -/
def Team.demote (t : Team) (id : Nat) : Team :=
  match t.split? id with
  | some x => (t.setSplit { x with dem := true }).rotate id
  | none => t

/-- What follows the accesses of an instruction: DEM; POISON, LINK_DOWN and DIE_LOST of the lanes concerned once the others
completed, the lowest code first (R179, R380, R404, R442); or the next instruction. `lanes`: a fault is one of all these.
An error of the unified store is of level 2 (R264). -/
def Ex1.memDone (e : Ex1) (lanes : Option Mask) (dem : Bool) (bad : List (Nat × Nat)) (r : Run) (s : State) (t : Team) : State :=
  let t := if dem || r.failed then t.demote e.x.id else t
  let fault (code : Nat) (l : List (Nat × Nat)) : List Cause := match l with
    | [] => []
    | (slot, a) :: _ =>
      [{ e.cause code (BitVec.ofNat 32 a) slot (lanes.getD (maskOf (l.map Prod.fst))) a with
        resume := if code = codeDieLost then e.pc else pcNext e.pc }]
  let lost (code : Nat) : List (Nat × Nat) := (r.lost.filter fun q => q.2.2 == code).map fun q => (q.1, q.2.1)
  let poison := (fault codePoison bad).map fun c => { c with level := if r.unified then 2 else 0 }
  match poison ++ fault codeLinkDown (lost codeLinkDown) ++ fault codeDieLost (lost codeDieLost) with
  | [] => s.setTeam (e.advance t)
  | c :: more => s.raise t ((t.split? e.x.id).getD e.x) c more

/-- A split as the executing one, outside an issue. -/
def State.atSplit (s : State) (t : Team) (x : Split) (g : Guard) : Option Ex1 :=
  ({ s with cur := { team := t.key, split := x.id, pc := x.pc, word := 0, except := x.regBad.1 } }).current g

/-- The requests of a split. -/
def Die.requestsOf (d : Die) (team split : Nat) : List Request := d.requests.filter fun r => r.team == team && r.split == split

/-- An instruction whose requests have all been answered: their results are in flight under LOOK, and it is complete
(R401 to R404). -/
def State.settleRequests (s : State) (team split : Nat) : State :=
  match s.team? team with
  | none => s
  | some t =>
    match t.split? split with
    | none => s
    | some x =>
      match x.block, x.op.bind Instr.fields with
      | .reply acquire lanes bad, some (h, _) =>
        let l := (s.die t.dieNo).requestsOf team split
        if l.any Request.isOpen then s
        else
          match s.atSplit t x h.guard with
          | none => s
          | some e =>
            let d := s.die t.dieNo
            let s := s.setDie { d with requests := d.requests.filter fun r => !(r.team == team && r.split == split) }
            let s := match acquire with | some (scope, words) => s.acquireAt t scope ⟨words, false⟩ | none => s
            let ok := l.filter fun r => r.state == .replied
            let ws := ok.flatMap fun r => r.outs.flatMap fun o => match o.2 with | some w => destWrites r.reg o.1 w | none => []
            let poisoned := ok.flatMap fun r => (r.outs.filter fun o => o.2.isNone).map fun o =>
              (o.1, ((r.lanes.find? fun a => a.slot == o.1).map ReqLane.va).getD 0)
            let lost := l.flatMap fun r => match r.state with | .failed code => r.lanes.map fun a => (a.slot, a.va, code) | _ => []
            let run := { x.run with failed := x.failed || ok.any Request.miss, lost := sortSlots (x.lost ++ lost) }
            let t := t.launchResult split .miss (headShadow h) ws 0 []
            e.memDone lanes false (sortSlots (bad ++ poisoned)) run s t
      | _, _ => s

/-- Performs a memory instruction: queue data, release, passes, acquire, then the next instruction; or the wait for the
responses of its requests. -/
def Ex1.memRun (e : Ex1) (accs : List Acc) (scope : Nat) (rel acq poll : Bool) (indexed : Bool)
    (plan : Pops → Plan) (s : State) : State :=
  let p0 := plan {}
  let cov := accWords s e.t p0.x.width.bytes accs
  withKeptPops e.slots p0.i p0.x.ops e s fun e pops s =>
    let go (e : Ex1) (s : State) : State :=
      match runPasses (plan pops) e (accPasses accs) s e.t e.x.run with
      | .rejected s => s
      | .done s t r =>
        let lanes := if memUniform p0.x then some e.mask else none
        let bad := (maskSlots r.bad).map fun i =>
          (i, ((e.x.src.find? fun q => q.1 == i).map fun q => q.2.1).getD (memAddr e.t p0.x indexed i))
        if ((s.die t.dieNo).requestsOf t.key e.x.id).isEmpty then
          e.memDone lanes poll bad r (if acq then s.acquireAt t scope cov else s) t
        else
          (s.setTeam (t.setSplit { e.x.keep r with
            wait := .scoreboard, block := .reply (if acq then some (scope, cov.words) else none) lanes bad
            since := s.tick, again := true, needEntries := 0, needWalks := 0 })).settleRequests t.key e.x.id
    if rel then e.release scope cov s go else go e s

/-- The result of `n` bytes as register words (R169). -/
def loadWords (bs : List Byte) : List Word := if bs.length < 4 then [BitVec.ofNat 32 (leNat bs)] else wordsOf bs

/-- The bytes of a register group of a slot. -/
def dataBytes (t : Team) (x : MemOp) (pop : List (Nat × Word)) (slot : Nat) (o : Operand) : List Byte :=
  ((List.range x.width.regs).flatMap fun k => wordBytes (readField t pop (immPlain x.imm) slot o k)).take x.width.bytes

end Sys2Proof.Machine
end

