-- ==== Sys2Proof/Machine/MemOps.lean ====
section
/-! DEFINITION. Memory instructions, opcodes 0x70 to 0x7A, and the steps that land or retry them (08 R167 to R188). -/
namespace Sys2Proof.Machine

/-- Which step lands a result. -/
def landKind (x : MemOp) (direct : Bool) : LandKind :=
  match x.space with
  | .lane | .core => .loc
  | _ => if direct then .loc else .miss

/-! ### Loads and stores (R169, R171) -/

/-- A load; an acquire load of `.glb` reads at the home (notes/assumptions/12). -/
def loadOne (x : MemOp) (home : Bool) (s : State) (t : Team) (a : Acc) : AccOut :=
  let (s, bs, bad) := if home then s.homeReadLoc t x.width.bytes a.loc else s.readLoc t x.na x.width.bytes a.loc
  { s := s, t := t, outs := [(a.slot, if bad then none else some (loadWords bs))] }

/-- A store of a lane's data, as the registers held it when the instruction issued. -/
def storeOne (x : MemOp) (home : Bool) (pops : Pops) (src : Team) (s : State) (t : Team) (a : Acc) : AccOut :=
  let bs := dataBytes src x pops.c a.slot x.c
  if home then
    let s := (s.homeReadLoc t x.width.bytes a.loc).1
    let (s, t) := s.homeWriteLoc t bs a.loc
    { s := s, t := t }
  else
    let (s, t) := s.writeLoc t x.na bs a.loc
    { s := s, t := t }

/-- Loads: `ld`, `lds`, `ldk`. -/
def execLoad (i : Instr) (x : MemOp) (long direct : Bool) (s : State) : Host.Outcome State Fault Refusal :=
  issue i s fun e s =>
    let acq := x.order == .sync
    e.memChecked x true { bytes := x.width.bytes, kind := .read, plain := long } s fun e accs s =>
      e.memRun accs x.scope.toNat false acq x.poll true (fun _ =>
        { i := i, x := x, one := loadOne x acq, use := { home := acq, na := x.na, short := direct }, long := long
          look := headShadow x.head, kind := landKind x direct }) s

def execLd (x : MemOp) (s : State) : Host.Outcome State Fault Refusal := execLoad (.ld x) x true false s
def execLds (x : MemOp) (s : State) : Host.Outcome State Fault Refusal := execLoad (.lds x) x true true s
def execLdk (x : MemOp) (s : State) : Host.Outcome State Fault Refusal := execLoad (.ldk x) x false false s

/-- Stores: `st`, `sts`. -/
def execStore (i : Instr) (x : MemOp) (direct : Bool) (s : State) : Host.Outcome State Fault Refusal :=
  issue i s fun e s =>
    let rel := x.order == .sync
    e.memChecked x true { bytes := x.width.bytes, kind := .write, plain := true } s fun e accs s =>
      let home := rel && scopeActs x.scope.toNat
      e.memRun accs x.scope.toNat rel false false true (fun pops =>
        { i := i, x := x, one := storeOne x home pops e.t, use := { home := home, na := x.na, write := true, short := direct }
          store := true }) s

def execSt (x : MemOp) (s : State) : Host.Outcome State Fault Refusal := execStore (.st x) x false s
def execSts (x : MemOp) (s : State) : Host.Outcome State Fault Refusal := execStore (.sts x) x true s

/-! ### Atomics (R172, R173) -/

/-- The new value of an atomic operation on values of `8 * w` bits (R172, R61). `exch.f32` stores C's bits, a NaN's too: DEDUCED
(R172's "NaN result" is of an operation that computes; notes/assumptions/37). -/
def atomNew (op : AOp) (ty : AType) (w : Nat) (old c : Nat) : Nat :=
  let bits := 8 * w
  let lt (a b : Nat) : Bool :=
    match ty with
    | .s => decide (readInt bits true a < readInt bits true b)
    | _ => decide (a < b)
  match op, ty with
  | .add, .f32 => (fAdd fp32 .rne (fp32.decode old) (fp32.decode c)).1
  | .min, .f32 => (fMin fp32 (fp32.decode old) (fp32.decode c)).1
  | .max, .f32 => (fMax fp32 (fp32.decode old) (fp32.decode c)).1
  | .add, _ => (old + c) % 2 ^ bits
  | .min, _ => if lt c old then c else old
  | .max, _ => if lt old c then c else old
  | .and, _ => old &&& c
  | .or, _ => old ||| c
  | .xor, _ => old ^^^ c
  | .exch, _ => c

/-- One read-modify-write step at the place that performs it; a poisoned lane writes nothing. -/
def atomOne (x : MemOp) (new : Nat → Option Nat) (result : Bool) (s : State) (t : Team) (a : Acc) : AccOut :=
  let (s, bs, bad) := s.homeReadLoc t x.width.bytes a.loc
  if bad then { s := s, t := t, outs := [(a.slot, none)] }
  else
    let outs := [(a.slot, some (if result then loadWords bs else []))]
    match new (leNat bs) with
    | some v =>
      let (s, t) := s.homeWriteLoc t (leBytes x.width.bytes v) a.loc
      { s := s, t := t, outs := outs }
    | none => { s := s, t := t, outs := outs, failed := true }

/-- A data operand of a lane, as a number of the access width. -/
def opWord (t : Team) (x : MemOp) (pop : List (Nat × Word)) (slot : Nat) (o : Operand) : Nat := leNat (dataBytes t x pop slot o)

/-- The exchange of a compare and swap: the new word where the old one equals B. -/
def swapWord (t : Team) (x : MemOp) (p : Pops) (slot old : Nat) : Option Nat :=
  if old = opWord t x p.b slot x.b then some (opWord t x p.c slot x.c) else none

/-- `atom` and `red` (R172): `.sync` is `.acq` on `atom` and `.rel` on `red`. -/
def execAtomic (i : Instr) (op : AOp) (ty : AType) (x : MemOp) (result : Bool) (s : State) :
    Host.Outcome State Fault Refusal :=
  issue i s fun e s =>
    let rel := x.order == .ar || (!result && x.order == .sync)
    let acq := result && x.order != .weak
    e.memChecked x true { bytes := x.width.bytes, kind := .write, aligned := true } s fun e accs s =>
      e.memRun accs x.scope.toNat rel acq false true (fun p =>
        { i := i, x := x, use := { home := true, atomic := true }, long := result, look := headShadow x.head
          one := fun s t a => atomOne x
            (fun old => some (atomNew op ty x.width.bytes old (opWord t x p.c a.slot x.c))) result s t a }) s

def execAtom (op : AOp) (ty : AType) (x : MemOp) (s : State) : Host.Outcome State Fault Refusal :=
  execAtomic (.atom op ty x) op ty x true s
def execRed (op : AOp) (ty : AType) (x : MemOp) (s : State) : Host.Outcome State Fault Refusal :=
  execAtomic (.red op ty x) op ty x false s

/-- `cas` (R173): the split is demoted when a lane fails (R104). -/
def execCas (x : MemOp) (s : State) : Host.Outcome State Fault Refusal :=
  issue (.cas x) s fun e s =>
    e.memChecked x false { bytes := x.width.bytes, kind := .write, aligned := true } s fun e accs s =>
      e.memRun accs x.scope.toNat (x.order == .ar) (x.order != .weak) false false (fun p =>
        { i := .cas x, x := x, use := { home := true, atomic := true }, long := true, look := headShadow x.head
          one := fun s t a => atomOne x (swapWord t x p a.slot) true s t a }) s

/-! ### `wait` (R174) -/

/-- Words that are below their thresholds; a poisoned lane does not hold the others back. -/
def waitShort (x : MemOp) (t : Team) (src : List (Nat × Nat × Nat)) : List Acc → State → Bool
  | [], _ => false
  | a :: as, s =>
    let (s, bs, bad) := s.homeReadLoc t x.width.bytes a.loc
    (!bad && decide (leNat bs < ((src.find? fun r => r.1 == a.slot).map fun r => r.2.2).getD 0)) || waitShort x t src as s

/-- Entries are free for an instruction's lines: it goes on with the team that holds them until the reply, where
`hold` asks for it; else it is rejected from a word on (R181, R182). -/
def Ex1.withEntries (e : Ex1) (lines : List Nat) (hold : Bool) (word : Nat) (s : State) (k : Team → State) : State :=
  if s.accepts e.t lines.length then
    let t := e.t.accepted e.x
    k (if hold && !lines.isEmpty then t.launchResult e.x.id .miss 0 [] 0 lines else t)
  else s.reject e.t e.x word (lines.length, 0) e.x.run

/-- One reading of the words: the split waits with reason 6, or every lane's value goes to D. Each reading takes entries;
between readings no access is open (R181 lists each one, notes/assumptions/40). Addresses and thresholds stay as the first
reading found them (R174). -/
def waitRead (x : MemOp) (e : Ex1) (s : State) : State :=
  let use : LineUse := { home := true, atomic := !e.x.src.isEmpty }
  let n := x.width.bytes
  e.memChecked x false { bytes := n, kind := .read, aligned := true } s fun e accs s =>
    let src := if e.x.src.isEmpty then accs.map fun a => (a.slot, a.addr, opWord e.t x [] a.slot x.b) else e.x.src
    if waitShort x e.t src accs s then
      e.withEntries (accs.flatMap fun a => a.loc.lines s e.t use n).eraseDups true 0 s fun t =>
        (s.flitsArrived (accs.flatMap fun a => a.loc.flits s t true n)).setTeam (t.setSplit { e.x with
          src := src, holds := [], walked := [], needEntries := 0, needWalks := 0
          wait := .value, block := .value x, since := s.tick, again := true })
    else
      e.memRun accs x.scope.toNat false (x.order == .sync) false false (fun _ =>
        { i := .wait x, x := x, one := loadOne x true, use := use, long := true, look := headShadow x.head }) s

def execWait (x : MemOp) (s : State) : Host.Outcome State Fault Refusal := issue (.wait x) s (waitRead x)

/-- WAIT_REREAD: the core reads the words of a waiting split again. -/
def execWaitReread (team split : Nat) (s : State) : Host.Outcome State Fault Refusal :=
  .next (match s.team? team with
    | none => s
    | some t =>
      match t.split? split with
      | none => s
      | some x =>
        match x.wait, x.block with
        | .value, .value m =>
          match s.atSplit t x m.head.guard with
          | some e => waitRead m e s
          | none => s
        | _, _ => s)

/-! ### `pref` and `cctl` (R175, R176) -/

/-- Where a prefetch goes: what would fault is dropped. -/
def State.prefetchPlace (s : State) (t : Team) (a : Nat) : State × Option Nat :=
  if 2 ^ 57 ≤ a then (s, none)
  else
    match s.translate t.coreNo t.ctx a .read with
    | (s, .ok pa _ _) => (s, if s.fencedAt pa || !s.reachable t.coreNo (homeDie pa) then none else some pa)
    | (s, _) => (s, none)

/-- Brings one line into L1, or into its home slice only. -/
def State.prefetchLine (s : State) (t : Team) (na : Bool) (a pa : Nat) : State :=
  if na then s.touchL2 pa 1
  else
    let loc : Loc := .glb [(a / 128 * 128, pa / 128 * 128, 128)]
    let flits := loc.flits s t false 128
    (s.l1Read t.coreNo t.ctx (a / 128 * 128) (pa / 128 * 128) 128 false).1.flitsArrived flits

/-- The passes of `pref` in increasing word order, until one is rejected. -/
def Ex1.prefetch (e : Ex1) (na : Bool) : List (Nat × List (Nat × Nat)) → State → Team → State
  | [], s, t => s.setTeam (e.advance t)
  | (w, ps) :: rest, s, t =>
    let held (p : Nat × Nat) : Bool := !na && s.l1Serves t.coreNo t.ctx (p.1 / 128 * 128) (p.2 / 128 * 128) 128 false
    let lines := ((ps.filter fun p => !held p).map fun p => p.2 / 128).eraseDups
    { e with t := t }.withEntries lines true w s fun t =>
      e.prefetch na rest ((ps.foldl (fun (s : State) (p : Nat × Nat) => s.prefetchLine t na p.1 p.2) s).setTeam t) t

def execPref (x : MemOp) (s : State) : Host.Outcome State Fault Refusal :=
  issue (.pref x) s fun e s =>
    let slots := if memUniform x then [e.low] else e.remaining 32
    let at' := slots.map fun i => (i, memAddr e.t x true i)
    e.withWalks { bytes := 1, kind := .read } (at'.map Prod.snd) s fun s =>
      let (s, l) := at'.foldl (fun (s, l) (i, a) =>
        let (s, pa) := s.prefetchPlace e.t a
        (s, l ++ (pa.map fun pa => (i / 32, a, pa)).toList)) (s, ([] : List (Nat × Nat × Nat)))
      let passes := (List.range 32).map fun w => (w, (l.filter fun p => p.1 == w).map Prod.snd)
      e.ordered (l.flatMap fun p => p.2.2 / 128 :: vaKeys p.2.1 1) s fun e s =>
        e.prefetch x.na (passes.filter fun p => !p.2.isEmpty) s (e.charged s).t

/-- Lines of the L1 of the issuing core that overlap a range, by virtual address. -/
def inRange (a n : Nat) (va : Nat) : Bool := decide (0 < n) && decide (a / 128 ≤ va / 128) && decide (va / 128 ≤ (a + n - 1) / 128)

/-- Lines of the range in a core's L1 that hold dirty bytes. -/
def State.dirtyLines (s : State) (coreNo ctx : Nat) (sel : Nat → Bool) : List Nat :=
  ((s.core coreNo).l1.filter fun ln => (List.range 128).any fun o => ln.dirty.getLsbD o && ln.selected ctx sel o).map L1Line.pa

/-- An earlier access of another split to a line of the range, or a fence, is open. -/
def Team.rangeOpen (t : Team) (x : Split) (a n : Nat) : Bool :=
  t.splits.any fun y => y.id != x.id && decide (y.issuedAt < x.issuedAt) && y.holds.any fun h =>
    h == fenceKey || (decide (2 ^ 80 ≤ h) && decide (h < 2 ^ 90) && inRange a n (128 * (h - 2 ^ 80)))

/-- `cctl` acts once for the team on [A, A + B). Its write-backs take an entry each, as many at once as there are
(R181; notes/assumptions/34). -/
def execCctl (i : Instr) (x : PlainOp) (wb inv fetch : Bool) (s : State) : Host.Outcome State Fault Refusal :=
  issue i s fun e s =>
    let a := (e.uniform x.a 0).toNat
    let n := (e.uniform x.b 0).toNat
    let sel := inRange a n
    let c := e.t.coreNo
    let lines := if wb then (s.dirtyLines c e.t.ctx sel).take Config.missEntries else []
    let e := (e.charged s).holding lines
    if e.t.rangeOpen e.x a n then s.stall e.t e.x
    else
    e.withEntries lines false 0 s fun t =>
      let s := if wb then s.l1WriteBack c t.ctx sel else s
      let s := if inv then s.l1Invalidate true c t.ctx sel else s
      let s := if fetch then
          { s with cores := s.cores.map fun k =>
              if k.id / 512 = t.pkg then { k with icache := k.icache.filter fun l => !(l.ctx == t.ctx && sel l.va) } else k }
        else s
      s.setTeam (e.advance t)

def execCctlWb (x : PlainOp) (s : State) : Host.Outcome State Fault Refusal := execCctl (.cctlWb x) x true false false s
def execCctlInv (x : PlainOp) (s : State) : Host.Outcome State Fault Refusal := execCctl (.cctlInv x) x false true false s
def execCctlWbinv (x : PlainOp) (s : State) : Host.Outcome State Fault Refusal :=
  execCctl (.cctlWbinv x) x true true false s
def execCctlIfl (x : PlainOp) (s : State) : Host.Outcome State Fault Refusal := execCctl (.cctlIfl x) x true true true s

/-! ### Results that arrive (R30, R106, R171) -/

/-- The writes of some slots reach their registers; what is left of the landing stays in flight. -/
def Team.landPart (t : Team) (l : Landing) (m : Mask) : Team :=
  let now := l.writes.filter fun w => match w.slot with | some i => slotIn m i | none => true
  let later := l.writes.filter fun w => match w.slot with | some i => !slotIn m i | none => false
  if later.isEmpty then t.land l
  else
    { t.applyWrites now with
      landings := t.landings.map fun k => if k.id = l.id then { l with writes := later } else k }

/-- A result of a kind reaches its registers for a set of lanes (R106). -/
def State.landResult (s : State) (team id : Nat) (kind : LandKind) (m : Mask) : State :=
  match s.team? team with
  | none => s
  | some t =>
    match t.landings.find? fun l => l.id == id && l.kind == kind with
    | none => s
    | some l => s.setTeam (t.landPart l m)

def execMissReply (team result : Nat) (lanes : Mask) (s : State) : Host.Outcome State Fault Refusal :=
  .next (s.landResult team result .miss lanes)
def execLocalAccessComplete (team : Nat) (result : Landed) (s : State) : Host.Outcome State Fault Refusal :=
  .next (s.landResult team result.result .loc result.lanes)
def execSpecialFunctionResult (team : Nat) (result : Landed) (s : State) : Host.Outcome State Fault Refusal :=
  .next (s.landResult team result.result .special result.lanes)

/-! ### Retry and starvation (R165, R182, R183) -/

/-- A rejected split of a team for which entries, or places in the walk queue, are free. -/
def State.retryable (s : State) (t : Team) : Option Split :=
  t.splits.find? fun x => x.wait == .rejected && s.accepts t x.needEntries && (x.needWalks == 0 || s.walkRoom t x.needWalks)

/-- PASS_RETRY: the head of the reservation queue first, then the team placed earliest. The split issues its
instruction again from the rejected pass. -/
def execPassRetry (core : Nat) (s : State) : Host.Outcome State Fault Refusal :=
  let teams := s.teams.filter fun t => t.coreNo == core && t.status == .resident
  let order := (s.reservation core).toList ++ teams
  .next (match order.findSome? fun t => (s.retryable t).map fun x => (t, x) with
    | none => s
    | some (t, x) => s.setTeam (t.setSplit { x with wait := .ready }))

/-- A candidate of R165: some split is ready. -/
def Team.candidate (t : Team) : Bool := t.status == .resident && t.splits.any fun x => x.wait == .ready && !x.record

/-- TEAM_STARVED: a team has been a candidate for 256 cycles without issuing; the clock is not before that. -/
def execTeamStarved (team : Nat) (s : State) : Host.Outcome State Fault Refusal :=
  .next (match s.team? team with
    | none => s
    | some t =>
      if t.candidate then
        let since := t.waiting.getD (s.cycle t.pkg)
        (s.clockTo t.pkg (since + 256)).setTeam { t with waiting := some since }
      else s)

end Sys2Proof.Machine
end

