-- ==== Sys2Proof/Machine/Matrix.lean ====
section
/-! DEFINITION. Tensor descriptors, weight planes and `mma`, opcodes 0x90 to 0x94, and the steps that complete them
(04 R70 to R76, 09 R205 to R218). -/
namespace Sys2Proof.Machine

/-! ### A uniform read of a table image (R178, R206, R317, R320, R324, R354) -/

/-- The uniform access read poison, or its home could not be reached: a fault of every contributing lane. -/
def Ex1.uniformFailed (e : Ex1) (bad : List (Nat × Nat)) (lost : List (Nat × Nat × Nat)) (unified : Bool) (s : State)
    (t : Team) : State :=
  e.memDone (some e.mask) false bad { e.x.run with unified := unified, lost := lost } s t

/-- Reads `n` bytes at a global address once for the team, as a weak uniform load does; `k` goes on with them. -/
def Ex1.uniformRead (e : Ex1) (va n : Nat) (align : Nat) (s : State) (k : Ex1 → List Byte → State → State) : State :=
  let need : Need := { bytes := n, kind := .read }
  if va % align ≠ 0 then e.fault s codeMisaligned (BitVec.ofNat 32 va) va
  else
    e.withWalks need [va] s fun s =>
      match s.locateGlb e.t.coreNo e.t.ctx va need with
      | (s, .error (.fault code)) => e.fault s code (BitVec.ofNat 32 va) va
      | (s, .error (.replay w)) => e.splitWaiting .read n (e.slots.map fun i => (i, va, w)) s fun e s => k e [] s
      | (s, .ok l) =>
        e.ordered (l.keys n) s fun e s =>
          if l.unreached s e.t false false then e.uniformFailed [] [(e.low, va, codeLinkDown)] false s e.t
          else
            e.withEntries (l.lines s e.t {} n) true 0 s fun t =>
              let (s, t) := s.chargePass t {} [⟨e.low, va, l⟩]
              let flits := l.flits s t false n
              let unified := l.unified s t
              match s.readLoc t false n l with
              | (s, bs, bad) =>
                let s := s.flitsArrived flits
                if bad then e.uniformFailed [(e.low, va)] [] unified s t else k { e with t := t } bs s

/-- Writes bytes at one address for the team as one weak store, in the same frame; `k` goes on with the team. -/
def Ex1.uniformWrite (e : Ex1) (va : Nat) (bs : List Byte) (s : State) (k : Ex1 → State → State) : State :=
  let n := bs.length
  let need : Need := { bytes := n, kind := .write }
  e.withWalks need [va] s fun s =>
    match s.locateGlb e.t.coreNo e.t.ctx va need with
    | (s, .error (.fault code)) => e.fault s code (BitVec.ofNat 32 va) va
    | (s, .error (.replay w)) => e.splitWaiting .write n (e.slots.map fun i => (i, va, w)) s k
    | (s, .ok l) =>
      e.ordered (l.keys n) s fun e s =>
        if l.unreached s e.t false true then e.uniformFailed [] [(e.low, va, codeLinkDown)] false s e.t
        else
          let use : LineUse := { write := true }
          e.withEntries (l.lines s e.t use n) true 0 s fun t =>
            let (s, t) := s.chargePass t use [⟨e.low, va, l⟩]
            let kept := s.badWrites
            let (s, t) := s.writeLoc t false bs l
            let (s, t) := s.coverPass t (l.bytes n) kept
            k { e with t := t } s

/-! ### Tensor descriptors (R205, R206) -/

/-- The tensor form (Table 9.5). -/
structure Tensor where
  fmtA : Nat
  fmtB : Nat
  kdim : Nat
  smode : Nat
  swz : Nat
  rows : Nat
  cols : Nat
  rstride : Nat
  scaleOff : Int
  deriving DecidableEq, Repr

def fieldAt (d : BitVec 256) (byte n : Nat) : Nat := (d.extractLsb' (8 * byte) (8 * n)).toNat

/-- K of a plane's format. -/
def planeK (fmtB : Nat) : Nat := if fmtB = 1 then 16 else 32

/-- The fields of the tensor form; none where Table 9.5 is broken. -/
def tensorOf (d : BitVec 256) : Option Tensor :=
  let x : Tensor :=
    ⟨fieldAt d 0 1, fieldAt d 1 1, fieldAt d 2 1, fieldAt d 4 1, fieldAt d 5 1, fieldAt d 8 4, fieldAt d 12 4,
      fieldAt d 16 4, (BitVec.ofNat 32 (fieldAt d 20 4)).toInt⟩
  let fmts := [1, 3, 4, 5, 6]
  if fieldAt d 31 1 = 0 ∧ fmts.contains x.fmtA ∧ fmts.contains x.fmtB ∧ x.kdim = planeK x.fmtB ∧ fieldAt d 3 1 = 32 ∧
      x.smode ≤ 1 ∧ x.swz ≤ 1 ∧ fieldAt d 6 2 = 0 ∧ fieldAt d 24 7 = 0 then some x
  else none

/-- The descriptor of a context on a package; one that was never written is zero. -/
def State.tensor (s : State) (t : Team) (i : Nat) : BitVec 256 :=
  ((getBy Prod.fst i (s.ctxPkg t.ctx t.pkg).tds).map Prod.snd).getD 0

def tdIndex (o : Operand) : Nat := match o with | .td i => i.toNat | _ => 0

/-- `tdset` (R206). -/
def execTdset (x : PlainOp) (s : State) : Host.Outcome State Fault Refusal :=
  issue (.tdset x) s fun e s =>
    e.uniformRead (e.uniform x.a 0).toNat 32 32 s fun e bs s =>
      let c := s.ctxPkg e.t.ctx e.t.pkg
      let s := s.setCtxPkg { c with tds := putBy Prod.fst (tdIndex x.d, BitVec.ofNat 256 (leNat bs)) c.tds }
      s.setTeam (e.advance e.t)

/-! ### Checks that all matrix instructions make (R209, R210) -/

/-- The first mask word that is neither full nor empty, with its lowest lane that does not contribute. -/
def partialWord (t : Team) (m : Mask) : Option (Nat × Nat) :=
  (List.range 32).findSome? fun w =>
    let live := ((List.range 32).map (32 * w + ·)).filter fun i =>
      match t.lanes[i]? with | some l => l.live | none => false
    if live.any (slotIn m) then (live.find? fun i => !slotIn m i).map fun i => (w, i) else none

/-- Check 1 of Table 9.7. -/
def Ex1.fullWords (e : Ex1) (s : State) (k : Ex1 → State → State) : State :=
  match partialWord e.t e.mask with
  | some (w, slot) => s.raise e.t e.x (e.cause codeMaskPartial (BitVec.ofNat 32 w) slot e.mask)
  | none => k e s

/-- The pair of the executing team. -/
def State.pairOf (s : State) (t : Team) : PlanePair := (s.core t.coreNo).pair (t.plane.getD 0)
def State.setPairOf (s : State) (t : Team) (p : PlanePair) : State :=
  s.setCore ((s.core t.coreNo).setPair (t.plane.getD 0) p)

/-- WPLANE_LOST. With j2 = 1 its delivery empties both planes of the pair (R210). -/
def State.planeLost (s : State) (t : Team) (x : Split) (c : Cause) : State :=
  let s := s.raise t x c
  let delivered := match s.team? t.key with
    | some u => (u.split? x.id).any fun y => y.wait != .trap
    | none => false
  if c.j2 == 1 && delivered then s.emptyPair t else s

def Ex1.planeLost (e : Ex1) (s : State) (j2 : Word) : State :=
  s.planeLost e.t e.x (e.cause codeWplaneLost j2 e.low e.mask)

def PlanePair.anyLost (p : PlanePair) : Bool := p.active.state == .lost || p.shadow.state == .lost

/-! ### `wload` (R211, R212) -/

/-- Bytes of a row and its alignment (Table 9.8). -/
def rowBytes (fmtB : Nat) : Nat := if fmtB = 5 then 24 else if fmtB = 1 then 64 else 32
def rowAlign (x : Tensor) : Nat := if x.swz = 1 then 128 else if x.fmtB = 1 then 64 else 32

/-- Offset of logical byte `o` of row `k` of a tile at `b`. -/
def tileByte (x : Tensor) (b k o : Nat) : Nat :=
  b + k * x.rstride + if x.swz = 1 then ((o / 16) ^^^ (k % 8)) * 16 + o % 16 else o

/-- The first row with a byte outside the scratchpad. -/
def rowOutside (x : Tensor) (b size : Nat) : Option Nat :=
  (List.range x.kdim).find? fun k => (List.range (rowBytes x.fmtB)).any fun o => decide (size ≤ tileByte x b k o)

/-- Check 4 of Table 9.7: the code and the address that it reports. -/
def tileFault (x : Tensor) (b size : Nat) : Option (Nat × Int) :=
  let sc : Int := b + x.scaleOff
  match rowOutside x b size with
  | some k => some (codeBounds, (b + k * x.rstride : Nat))
  | none =>
    if x.smode = 1 ∧ (sc < 0 ∨ (size : Int) < sc + 64) then some (codeBounds, sc)
    else if b % rowAlign x ≠ 0 then some (codeMisaligned, b)
    else if x.rstride % rowAlign x ≠ 0 then some (codeMisaligned, (b + x.rstride : Nat))
    else if x.smode = 1 ∧ sc % 64 ≠ 0 then some (codeMisaligned, sc)
    else none

/-- Element codes of a row from its logical bytes (R56). -/
def rowCodes (fmtB : Nat) (bs : List Byte) : List Nat :=
  let n := leNat bs
  if fmtB = 5 then (List.range 32).map fun i => n / 2 ^ (6 * i) % 64
  else if fmtB = 1 then (List.range 32).map fun i => n / 2 ^ (16 * i) % 65536
  else (List.range 32).map fun i => n / 2 ^ (8 * i) % 256

/-- BF16 1.0. -/
def bf16One : Nat := 0x3F80

/-- The plane that a `wload` fills. -/
def planeFrom (m : Mem) (x : Tensor) (b : Nat) : Plane :=
  let sc := ((b : Int) + x.scaleOff).toNat
  { state := .loaded, fmtB := x.fmtB, kdim := x.kdim, scaled := x.smode = 1
    tile := (List.range x.kdim).map fun k =>
      rowCodes x.fmtB ((List.range (rowBytes x.fmtB)).map fun o => m.get (tileByte x b k o))
    scales := (List.range 32).map fun n => if x.smode = 1 then leNat (m.read (sc + 2 * n) 2) else bf16One }

/-- Keys of the scratchpad lines of a tile and its scales (R212). -/
def tileKeys (x : Tensor) (b : Nat) : List Nat :=
  let row (k : Nat) : List Nat :=
    (List.range (rowBytes x.fmtB)).flatMap fun o => (Loc.scratch (tileByte x b k o)).keys 1
  ((List.range x.kdim).flatMap row ++
    if x.smode = 1 then (Loc.scratch ((b : Int) + x.scaleOff).toNat).keys 64 else []).eraseDups

/-- `wload`: an earlier one into the pair completes first; the tile is read at issue, after the accesses to it that the
team issued before (R212). -/
def execWload (x : PlainOp) (s : State) : Host.Outcome State Fault Refusal :=
  issue (.wload x) s fun e s =>
    e.fullWords s fun e s =>
      let n := tdIndex x.a
      match tensorOf (s.tensor e.t n) with
      | none => e.fault s codeFormat (BitVec.ofNat 32 n)
      | some d =>
        let b := (e.uniform x.b 0).toNat
        match tileFault d b e.t.entry.scratch with
        | some (code, a) => e.fault s code (BitVec.ofInt 32 a) (wrapInt 64 a)
        | none =>
          e.ordered (tileKeys d b) s fun e s =>
            let p := (s.pairOf e.t).settle
            let s := s.setPairOf e.t { p with loading := some (planeFrom e.t.scratch.cells d b) }
            s.setTeam (e.advance e.t)

/-- WLOAD_COMPLETE. -/
def execWloadComplete (core pair : Nat) (s : State) : Host.Outcome State Fault Refusal :=
  let c := s.core core
  .next (if (c.pair pair).loading.isNone then s else s.setCore (c.setPair pair (c.pair pair).settle))

/-! ### `wswap`, `wdrop` (R213, R214) -/

def execWswap (x : PlainOp) (s : State) : Host.Outcome State Fault Refusal :=
  issue (.wswap x) s fun e s =>
    e.fullWords s fun e s =>
      let p := (s.pairOf e.t).settle
      let s := s.setPairOf e.t p
      if p.anyLost then e.planeLost s 1
      else
        let s := s.setPairOf e.t { p with active := p.shadow, shadow := p.active }
        s.setTeam (e.advance e.t)

def execWdrop (x : PlainOp) (s : State) : Host.Outcome State Fault Refusal :=
  issue (.wdrop x) s fun e s =>
    e.fullWords s fun e s => (s.emptyPair e.t).setTeam (e.advance e.t)

/-! ### `mma` (R70 to R76, R215, R216) -/

/-- The combinations of R71. -/
def mmaFormats (x : Tensor) : Bool :=
  let fp8 (f : Nat) : Bool := f == 3 || f == 4
  (fp8 x.fmtA && fp8 x.fmtB) || (x.fmtA == 5 && x.fmtB == 5) || (x.fmtA == 1 && x.fmtB == 1) ||
    (x.fmtA == 6 && x.fmtB == 6 && x.smode == 0)

/-- Check 2 of Table 9.7 beyond the descriptor's own fields. -/
def mmaFormatOk (x : Tensor) (p : Plane) (sat : Bool) : Bool :=
  mmaFormats x && (p.state != .loaded || (x.fmtB == p.fmtB && x.kdim == p.kdim)) && (!sat || x.fmtB == 6)

/-- The value of an element of a floating format, and the flag of reading it (R55). -/
def elemValue (fmt c : Nat) : Ex :=
  if fmt = 1 then bf16.decode c else if fmt = 3 then e4m3.decode c else if fmt = 4 then e5m2.decode c else lg6Decode c
def elemFlag (fmt c : Nat) : Flags := if fmt = 5 then lg6Flag c else 0

/-- One product (R57, R73, R74). -/
def elemMul (fa fb a b : Nat) : Ex := if fa = 5 then lg6Mul a b else (elemValue fa a).mul (elemValue fb b)

/-- Element codes of a lane's A row (R72). -/
def rowA (t : Team) (slot : Nat) (a : Operand) (fmtA kdim : Nat) : List Nat :=
  (List.range kdim).map fun i =>
    if fmtA = 1 then (t.regRead slot a (i / 2)).toNat / 2 ^ (16 * (i % 2)) % 65536
    else
      let c := (t.regRead slot a (i / 4)).toNat / 2 ^ (8 * (i % 4)) % 256
      if fmtA = 5 then c % 64 else c

/-- Column n of a plane. -/
def Plane.column (p : Plane) (n : Nat) : List Nat := p.tile.map fun r => r[n]?.getD 0

/-- One output element with its flags. -/
def mmaElem (x : Tensor) (p : Plane) (sat : Bool) (row : List Nat) (sA : Nat) (n : Nat) (acc : Word) : Word × Flags :=
  let col := p.column n
  if x.fmtA = 6 then
    (mmaInt sat (row.map (readInt 8 true)) (col.map (readInt 8 true)) acc, 0)
  else
    let sa := bf16.decode sA
    let sb := bf16.decode (p.scales[n]?.getD bf16One)
    let accV := fp32.decode acc.toNat
    let nan := row.any (fun c => (elemValue x.fmtA c).isNan) || col.any (fun c => (elemValue p.fmtB c).isNan) ||
      accV.isNan || (p.scaled && (sa.isNan || sb.isNan))
    let (bits, fl) := mmaFloat (x.fmtA == 1) (List.zipWith (elemMul x.fmtA p.fmtB) row col) nan
      (if p.scaled then some (sa, sb) else none) accV
    let read : Flags := row.foldl (fun f c => f ||| elemFlag x.fmtA c) 0 ||| col.foldl (fun f c => f ||| elemFlag p.fmtB c) 0
    (BitVec.ofNat 32 bits, fl ||| read)

/-- The 32 results of one lane. -/
def mmaLane (t : Team) (x : Tensor) (p : Plane) (sat : Bool) (d a : Operand) (vs : BitVec 8) (slot : Nat) :
    List RegWrite × Flags :=
  let row := rowA t slot a x.fmtA x.kdim
  let sA := (t.regRead slot (.v vs) 0).toNat % 65536
  (List.range 32).foldl (fun (ws, fl) n =>
    let (w, f) := mmaElem x p sat row sA n (t.regRead slot d n)
    (ws ++ [⟨some slot, nthReg d n, w⟩], fl ||| f)) ([], 0)

/-- Class of a pass (Table 17.4). -/
def mmaClass (fmtB : Nat) : Nat := if fmtB = 1 then 2 else if fmtB = 5 then 1 else 0

/-- `mma`. A row, or a scale block that it reads, with wrong parity empties the plane (R216). -/
def execMma (sat : Bool) (x : PlainOp) (s : State) : Host.Outcome State Fault Refusal :=
  issue (.mma sat x) s fun e s =>
    e.fullWords s fun e s =>
      let n := tdIndex x.c
      let p := s.pairOf e.t
      match tensorOf (s.tensor e.t n) with
      | none => e.fault s codeFormat (BitVec.ofNat 32 n)
      | some d =>
        if !mmaFormatOk d p.active sat then e.fault s codeFormat (BitVec.ofNat 32 n)
        else if p.anyLost then e.planeLost s 1
        else if p.active.state = .empty then e.planeLost s 0
        else
          match p.active.badRows with
          | r :: _ => e.fault (s.setPairOf e.t { p with active := {} }) codeWplaneParity (BitVec.ofNat 32 r)
          | [] =>
            if p.active.scaled && p.active.badScales then
              e.fault (s.bump.setPairOf e.t { p with active := {} }) codeWplaneParity (Config.scaleFault s.tick)
            else
            let (ws, fl) := e.slots.foldl (fun (ws, fl) slot =>
              let (w, f) := mmaLane e.t d p.active sat x.d x.a x.imm slot
              (ws ++ w, fl ||| f)) ([], (0 : Flags))
            let t := s.charge e.t (mmaClass d.fmtB) (passes e.mask)
            s.setTeam (e.advance (t.launchResult e.x.id .mma (headShadow x.head) ws fl [] e.pc s.tick e.mask))

/-- MMA_COMPLETE. -/
def execMmaComplete (team : Nat) (result : Landed) (s : State) : Host.Outcome State Fault Refusal :=
  .next (s.landResult team result.result .mma result.lanes)

/-! ### MATRIX_RESET (R217) -/

/-- Planes become lost; every `wload` in flight ends without effect. -/
def Core.losePlanes (c : Core) : Core :=
  { c with planes := (List.range 8).map fun i =>
      { c.pair i with active := { state := .lost }, shadow := { state := .lost }, loading := none } }

/-- The earliest `mma` in flight of a team. -/
def Team.firstMma (t : Team) : Option Landing := t.landings.find? fun l => l.kind == .mma

/-- The team whose pass is executing: passes are served in the order of issue (R218). -/
def hungTeam (l : List Team) : Option Nat :=
  (l.foldl (fun (b : Option (Nat × Nat)) t =>
    match t.firstMma, b with
    | none, b => b
    | some m, none => some (m.at', t.key)
    | some m, some (a, k) => if m.at' < a then some (m.at', t.key) else some (a, k)) none).map Prod.snd

def writeMask (ws : List RegWrite) : Mask := maskOf ((ws.filterMap fun w => w.slot).eraseDups)

/-- One team with an interrupted `mma`: it takes the fault at that instruction, with every contributing lane (R445); later
ones go without effect. -/
def State.interruptMma (s : State) (hung key : Nat) : State :=
  match s.team? key with
  | none => s
  | some t =>
    match t.firstMma with
    | none => s
    | some l =>
      let t := { t with landings := t.landings.filter fun (k : Landing) => k.kind != LandKind.mma }
      match t.split? l.split with
      | none => s.setTeam t
      | some x =>
        let m := l.lanes &&& x.mask
        let c (code : Nat) (j2 : Word) (j3 : Nat) : Cause :=
          { code := code, level := 2, pc := l.pc, j2 := j2, j3 := BitVec.ofNat 32 j3, lanes := m, resume := l.pc }
        if key = hung then
          let ws := l.writes.zipIdx.map fun ((w, i) : RegWrite × Nat) => { w with val := Config.matrixLeft s.tick i }
          s.bump.raise (t.applyWrites ws) x (c codeMatrixReset 0 (lowestSlot m))
        else
          let all := (List.range 32).filter fun w => maskWord m w != 0
          let words := all.filter fun w => maskWord (writeMask l.writes) w != 0
          let more := Config.passesDone s.tick key % max 1 words.length
          let done := all.length - words.length + more
          let kept := l.writes.filter fun (w : RegWrite) => (words.take more).contains (w.slot.getD 0 / 32)
          s.bump.planeLost (t.applyWrites kept) x (c codeWplaneLost 1 done)

/-- MATRIX_RESET: the engine of a core is reset while work is pending. -/
def execMatrixReset (core : Nat) (s : State) : Host.Outcome State Fault Refusal :=
  let teams := (s.teams.filter fun t => t.coreNo == core && t.firstMma.isSome)
  let c := s.core core
  .next (if teams.isEmpty ∧ !((List.range 8).any fun i => (c.pair i).loading.isSome) then s
    else
      let hung := (hungTeam teams).getD 0
      (teams.map Team.key).foldl (fun s k => s.interruptMma hung k) (s.setCore c.losePlanes))

end Sys2Proof.Machine
end

