-- ==== Sys2Proof/Machine/Feeder.lean ====
section
/-! DEFINITION. The feeder: opcodes 0x95 to 0x97 and the run-ahead load (08 R189 to R195). -/
namespace Sys2Proof.Machine

def spaceOfCode (c : Nat) : Option Space :=
  if c = 1 then some .core else if c = 2 then some .clu else if c = 3 then some .die else if c = 4 then some .glb else none

/-- The stream form; none where Table 8.6 is broken. -/
def streamOf (d : BitVec 256) (pos : Word) : Option Stream :=
  let signed (b : Nat) : Int := (BitVec.ofNat 32 (fieldAt d b 4)).toInt
  match spaceOfCode (fieldAt d 25 1) with
  | none => none
  | some sp =>
    if fieldAt d 31 1 = 1 ∧ fieldAt d 0 8 < 2 ^ 57 ∧ fieldAt d 16 4 ≠ 0 ∧ fieldAt d 24 1 ≤ 4 ∧ fieldAt d 26 5 = 0 then
      some { active := true, base := fieldAt d 0 8, lstride := signed 8, stride1 := signed 12, count1 := fieldAt d 16 4
             stride2 := signed 20, elem := fieldAt d 24 1, space := sp, pos := pos, queued := [] }
    else none

def queueOf (o : Operand) : BitVec 2 := match o with | .f i => i | _ => 0

def Team.setQueue (t : Team) (i : BitVec 2) (q : Stream) : Team := { t with f := t.f.set i.toNat q }

/-- `feed` (R189, R190): the descriptor is copied, an earlier stream and its data are discarded. -/
def execFeed (x : PlainOp) (s : State) : Host.Outcome State Fault Refusal :=
  issue (.feed x) s fun e s =>
    match streamOf (s.tensor e.t (tdIndex x.a)) (e.uniform x.b x.imm) with
    | none => e.fault s codeFormat
    | some q =>
      let e := e.charged s
      s.setTeam (e.advance (e.t.setQueue (queueOf x.d) q))

/-- `fstop` ends the stream and keeps P. -/
def execFstop (x : PlainOp) (s : State) : Host.Outcome State Fault Refusal :=
  issue (.fstop x) s fun e s =>
    let e := e.charged s
    let i := queueOf x.d
    s.setTeam (e.advance (e.t.setQueue i { e.t.f[i.toNat] with active := false, queued := [] }))

/-- `fpos` writes P without a pop. -/
def execFpos (x : PlainOp) (s : State) : Host.Outcome State Fault Refusal :=
  issue (.fpos x) s fun e s =>
    let e := e.charged s
    let p := e.t.f[(queueOf x.a).toNat].pos
    s.setTeam (e.advance (e.t.applyWrites ((execSlots x.d e.slots).flatMap fun i => destWrites x.d i [p])))

/-- The number of an element behind P; the position wraps at 2^32. -/
def Stream.ahead (q : Stream) (i : Nat) : Nat := (q.pos + BitVec.ofNat 32 i).toNat

/-- The next run-ahead load: the lowest of elements P to P + 7, and its lowest mask word, that some lane that has not
exited lacks; the element and those lanes. -/
def Team.nextLoad (t : Team) (q : Stream) : Option (Nat × List Nat) :=
  let lacks (n w : Nat) : List Nat := ((List.range 32).map (32 * w + ·)).filter fun i =>
    decide (i < t.lanes.length) && (t.lane i).live && !q.queued.any fun e => e.n == n && e.slot == i
  ((List.range 8).flatMap fun i => (List.range 32).map fun w => (q.ahead i, lacks (q.ahead i) w)).find? fun p => !p.2.isEmpty

/-- The place of an element, where its load has one. -/
def State.elemLoc (s : State) (t : Team) (q : Stream) (n slot : Nat) : Option Loc :=
  match s.locate t slot q.space (q.address slot n) { bytes := elemBytes q.elem, kind := .read, aligned := true } with
  | (_, .ok l) => some l
  | _ => none

/-- FEEDER_RUNAHEAD_LOAD (R192 to R194): one pass of the run-ahead, when entries are free for it; the walks that it needs
come first (R262). Failures and
replayable outcomes are kept for the pop. Splits that wait for an element issue again. -/
def execFeederRunaheadLoad (team queue : Nat) (s : State) : Host.Outcome State Fault Refusal :=
  .next (match s.team? team with
    | none => s
    | some t =>
      let i := BitVec.ofNat 2 queue
      let q := t.f[i.toNat]
      if !q.active || t.status != .resident || t.saving then s
      else
        match t.nextLoad q with
        | none => s
        | some (n, slots) =>
          let need : Need := { bytes := elemBytes q.elem, kind := .read, aligned := true }
          let asked := (s.die t.dieNo).walks.any fun b => b.owner == .queue team queue
          let pages := if q.space = .glb then s.pagesToWalk t q.walked need (slots.map fun j => q.address j n) else []
          if asked then s
          else if !pages.isEmpty then
            if s.walkRoom t pages.length then s.askWalks (.queue team queue) t.coreNo t.ctx .read pages else s
          else
          let locs := slots.filterMap (s.elemLoc t q n)
          let lines := (locs.flatMap fun l => l.lines s t {} (elemBytes q.elem)).eraseDups
          let flits := locs.flatMap fun l => l.flits s t false (elemBytes q.elem)
          if !s.accepts t lines.length then s
          else
            let (s, got) := slots.foldl (fun (s, acc) j =>
              let (s, e) := s.loadElem t q j n
              (s, acc ++ [(⟨n, j, e⟩ : QElem)])) (s, [])
            let t := t.setQueue i { q with queued := q.queued ++ got, walked := [] }
            let t := if lines.isEmpty then t else t.launchResult noEntry .miss 0 [] 0 lines
            (s.flitsArrived flits).setTeam { t with splits := t.splits.map fun x => if x.block = .element then x.wake else x })

end Sys2Proof.Machine
end

