-- ==== Sys2Proof/Machine/Exchange.lean ====
section
/-! DEFINITION. Gang barriers, `tsync` and `xshuf`, opcodes 0xA1 to 0xA3 (10 R226 to R234). -/
namespace Sys2Proof.Machine

/-! ### `gbar` (R227 to R229) -/

/-- The common checks: no trap handler, a gang, an id below 16. -/
def Ex1.gbar (e : Ex1) (x : PlainOp) (s : State) (k : Ex1 → Gang → Nat → State → State) : State :=
  if e.x.trap.isSome then e.decodeFault s codeIllegalOpcode
  else
    match e.t.gang.bind s.gang? with
    | none => e.fault s codeIllegalOperand
    | some g =>
      let b := (e.uniform x.a x.imm).toNat
      if 15 < b then e.fault s codeBounds (BitVec.ofNat 32 b) b else k (e.charged s) g b s

/-- The split waits with reason 5. -/
def Ex1.sync (e : Ex1) (s : State) (b : Block) : State :=
  s.setTeam (e.t.setSplit { e.x with wait := .sync, block := b, since := s.tick })

/-- `.arrive`, and the first half of `.sync`. -/
def Ex1.arrive (e : Ex1) (g : Gang) (b : Nat) (stay : Bool) (s : State) : State :=
  if (g.barrier b).arrived.getLsbD e.t.rank then e.sync s (.gbarArrived b (if stay then .sync else .arrive))
  else
    let x := e.x.ranBarrier b
    let e := { e with x := x, t := e.t.setSplit x }
    let s := if stay then e.sync s (.gbarTeam b) else s.setTeam (e.advance e.t)
    s.settleBarrier e.t.key b

def execGbarArrive (x : PlainOp) (s : State) : Host.Outcome State Fault Refusal :=
  issue (.gbarArrive x) s fun e s => e.gbar x s fun e g b s => e.arrive g b false s

/-- `.wait`, and the second half of `.sync`: the team's last arrival is in a phase that has completed exactly when its
flag is clear. -/
def Ex1.waitPhase (e : Ex1) (g : Gang) (b : Nat) (s : State) : State :=
  if (g.barrier b).arrived.getLsbD e.t.rank then e.sync s (.gbarPhase b)
  else (s.acquireL1 e.t.coreNo e.t.ctx ⟨[], false⟩).setTeam (e.advance e.t)

def execGbarWait (x : PlainOp) (s : State) : Host.Outcome State Fault Refusal :=
  issue (.gbarWait x) s fun e s => e.gbar x s fun e g b s => e.waitPhase g b s

/-- `.sync`: one whose arrival was counted before a save only waits (R231). -/
def execGbarSync (x : PlainOp) (s : State) : Host.Outcome State Fault Refusal :=
  issue (.gbarSync x) s fun e s =>
    e.gbar x s fun e g b s => if e.x.accepted = 1 then e.waitPhase g b s else e.arrive g b true s

/-! ### `tsync` (R232) -/

def execTsync (h : Head) (s : State) : Host.Outcome State Fault Refusal :=
  issue (.tsync h) s fun e s =>
    if e.x.trap.isSome then e.decodeFault s codeIllegalOpcode
    else
      let e := e.charged s
      let t := { e.t with timer := some (e.t.timer.getD (s.cycle e.t.pkg)) }
      ({ e with t := t }.sync s .tsync).settleTsync t.key

/-! ### `xshuf` (R233, R234) -/

/-- Results of one side: the lanes that contribute in both splits take the other's value. -/
def xshufWrites (dst : BitVec 8) (both : Mask) (from' : Team) (src : BitVec 8) : List RegWrite :=
  (maskSlots both).map fun i => ⟨some i, .v dst, from'.regRead i (.v src) 0⟩

/-- The earliest pending arrival that pairs. -/
def State.xshufPeer (s : State) (t : Team) (tag : BitVec 8) : Option XArrival :=
  (s.die t.dieNo).xshuf.find? fun a =>
    a.tag == tag && match s.team? a.team with
      | some u => u.ctx == t.ctx && u.clusterNo != t.clusterNo
      | none => false

def vIndex (o : Operand) : BitVec 8 := match o with | .v i => i | _ => 0

def execXshuf (x : PlainOp) (s : State) : Host.Outcome State Fault Refusal :=
  issue (.xshuf x) s fun e s =>
    if e.x.trap.isSome then e.decodeFault s codeIllegalOpcode
    else
      let e := e.charged s
      let d := s.die e.t.dieNo
      let tag : BitVec 8 := match e.x.src with
        | (_, tag, _) :: _ => BitVec.ofNat 8 tag
        | [] => (e.uniform x.b x.imm).setWidth 8
      let x' := { e.x with src := [(0, tag.toNat, 0)] }
      let e := { e with x := x', t := e.t.setSplit x' }
      if d.xshuf.any fun a => a.team == e.t.key then e.sync s (.xshuf e.mask)
      else
        match s.xshufPeer e.t tag with
        | none =>
          let a : XArrival :=
            { team := e.t.key, split := e.x.id, tag := tag, dst := vIndex x.d, src := vIndex x.a, lanes := e.mask
              look := headShadow x.head, since := s.cycle e.t.pkg }
          e.sync (s.setDie { d with xshuf := d.xshuf ++ [a] }) (.xshuf e.mask)
        | some a =>
          match s.team? a.team with
          | none => s
          | some u =>
            let both := e.mask &&& a.lanes
            let mine := e.t.launchResult e.x.id .loc (headShadow x.head) (xshufWrites (vIndex x.d) both u a.src) 0 []
            let theirs := u.launchResult a.split .loc a.look (xshufWrites a.dst both e.t (vIndex x.a)) 0 []
            let theirs := match theirs.split? a.split with
              | some y => (theirs.setSplit y.pass).wakeXshuf
              | none => theirs
            let s := s.setDie { d with xshuf := d.xshuf.filter fun b => b.team != a.team }
            (s.setTeam theirs).setTeam (e.advance mine)

end Sys2Proof.Machine
end

