-- ==== Sys2Proof/Machine/Regroup.lean ====
section
/-! DEFINITION. `regroup`, opcode 0xA0, and its commit (09 R196 to R204, 05 R110). -/
namespace Sys2Proof.Machine

/-! ### Arrival (R197, R198, R201) -/

/-- Teams of one regroup: same context, entry and gang. -/
def sameRegroup (a b : Team) : Bool :=
  a.ctx == b.ctx && a.handler == b.handler && a.launch == b.launch && a.gang == b.gang &&
    (a.handler.isSome || a.entry.pc == b.entry.pc)

def Regroup.matches (r : Regroup) (t : Team) : Bool :=
  r.ctx == t.ctx && r.handler == t.handler && r.launch == t.launch && r.gang == t.gang

/-- The participants that a first arrival fixes. -/
def State.regroupTeams (s : State) (t : Team) : List Nat :=
  ((s.coreTeams t.coreNo).filter fun u => sameRegroup t u && u.lanes.any Lane.live).map Team.key

/-- The team is a participant of a regroup that is not aborted; there is one such at most. -/
def Regroup.live (r : Regroup) (key : Nat) : Bool := r.participants.contains key && r.aborted.isNone

/-- Changes the regroup of which a team is a participant. -/
def State.mapRegroup (s : State) (c key : Nat) (f : Regroup → Regroup) : State :=
  let k := s.core c
  s.setCore { k with regroups := k.regroups.map fun r => if r.live key then f r else r }

def regroupCause (x : Split) (j2 : Nat) : Cause :=
  { code := codeRegroupAbort, level := 2, pc := x.pc, j2 := BitVec.ofNat 32 j2
    j3 := BitVec.ofNat 32 (lowestSlot x.mask), lanes := x.mask, resume := x.pc }

/-- A team raises REGROUP_ABORT at its `regroup`. -/
def State.abortTeam (s : State) (key split j2 : Nat) : State :=
  match s.team? key with
  | none => s
  | some t => match t.split? split with
    | none => s
    | some x => s.raise t x (regroupCause x j2)

/-- A barrier of the gang has counted an arrival that has not completed. -/
def Gang.arrivalPending (g : Gang) : Bool := g.barriers.any fun b => b.count != 0

/-- The abort cause that holds at an arrival, in the order of Table 9.3. -/
def State.regroupError (s : State) (t : Team) : Option Nat :=
  match t.gang.bind s.gang? with
  | none => none
  | some g =>
    if g.arrivalPending then some 2
    else if (s.teams.any fun u => u.gang == some g.id && u.coreNo != t.coreNo) ||
        (s.core t.coreNo).regroups.any fun r => r.live t.key && !s.wholeGang r then some 3
    else none

/-- Every participant aborts: the arrived ones now, the others when they arrive. -/
def State.abortAll (s : State) (c key j2 : Nat) : State :=
  match (s.core c).regroups.find? fun r => r.live key with
  | none => s
  | some r =>
    let gone := r.arrivals.map RegroupArrival.team
    let s := s.mapRegroup c key fun r => { r with
      participants := r.participants.filter fun p => !gone.contains p, arrivals := [], aborted := some j2 }
    (r.arrivals.foldl (fun s a => s.abortTeam a.team a.split j2) s).settleRegroups c

/-- Arrived teams of a gang that has lost a participant abort (R201, R204). -/
def State.abortPartial (s : State) (c : Nat) : State :=
  (s.core c).regroups.foldl (fun s r =>
    match r.arrivals.head? with
    | some a => if r.aborted.isNone ∧ r.nmax.isNone ∧ !s.wholeGang r then s.abortAll c a.team 3 else s
    | none => s) s

/-- The arrival of a team whose earlier instructions have completed. -/
def State.regroupArrive (s : State) (t : Team) (x : Split) (dst key : BitVec 8) : State :=
  let c := t.coreNo
  let mine (r : Regroup) : Bool := r.participants.contains t.key
  match (s.core c).regroups.find? mine with
  | some r =>
    match r.aborted with
    | some j2 =>
      let k := s.core c
      let s := s.setCore { k with regroups := k.regroups.map fun q =>
        if q = r then { q with participants := q.participants.filter fun p => p != t.key } else q }
      (s.abortTeam t.key x.id j2).settleRegroups c
    | none => arrive s
  | none =>
    if (s.core c).regroups.any fun r => r.matches t && r.aborted.isNone then
      s.setTeam (t.setSplit { x with wait := .sync, block := .regroup, since := s.tick })
    else
      let k := s.core c
      let r : Regroup :=
        { ctx := t.ctx, handler := t.handler, launch := t.launch, gang := t.gang, participants := s.regroupTeams t
          started := s.cycle t.pkg }
      arrive (s.setCore { k with regroups := k.regroups ++ [r] })
where
  arrive (s : State) : State :=
    let s := s.setTeam (t.setSplit { x with wait := .sync, block := .regroup, since := s.tick })
    let s := s.mapRegroup t.coreNo t.key fun r => { r with
      started := if r.arrivals.isEmpty then s.cycle t.pkg else r.started
      arrivals := r.arrivals ++ [{ team := t.key, split := x.id, dst := dst, keyReg := key }] }
    match s.regroupError t with
    | some j2 => s.abortAll t.coreNo t.key j2
    | none => s.settleRegroups t.coreNo

/-- `regroup`: LOOK has no effect. -/
def execRegroup (x : PlainOp) (s : State) : Host.Outcome State Fault Refusal :=
  issue (.regroup x) s fun e s =>
    if e.x.trap.isSome || e.t.splits.length != 1 then s.raise e.t e.x (regroupCause e.x 1)
    else
      let t := (e.charged s).t.landAll
      let s := if t.plane.isSome then s.setPairOf t (s.pairOf t).settle else s
      s.regroupArrive t e.x (vIndex x.d) (vIndex x.a)

/-! ### Forming the new teams (R199) -/

/-- A lane with its sort key: key, old team, old slot; and where its state comes from. -/
structure Sorted where
  key : Nat
  old : Nat
  slot : Nat
  dst : BitVec 8
  deriving DecidableEq, Repr

def Sorted.before (a b : Sorted) : Bool :=
  decide (a.key < b.key) || (a.key == b.key && (decide (a.old < b.old) || (a.old == b.old && decide (a.slot < b.slot))))

def insertSorted (a : Sorted) : List Sorted → List Sorted
  | [] => [a]
  | b :: l => if b.before a then b :: insertSorted a l else a :: b :: l

/-- Every lane of every participant, sorted. -/
def State.regroupLanes (s : State) (r : Regroup) : List Sorted :=
  (r.arrivals.flatMap fun a => match s.team? a.team with
    | none => []
    | some t => (List.range t.lanes.length).filterMap fun i =>
        let l := t.lane i
        if l.live then some ⟨((l.v[a.keyReg.toNat]?).getD 0).toNat % 256, t.key, i, a.dst⟩ else none).foldr insertSorted []

/-- Cuts after every `n`, and at each change of key when `byKey`. -/
def cutSorted (n : Nat) (byKey : Bool) : List Sorted → List (List Sorted)
  | [] => []
  | a :: l =>
    match cutSorted n byKey l with
    | [] => [[a]]
    | g :: gs =>
      let same := match g with | b :: _ => !byKey || a.key == b.key | [] => true
      if same then (a :: g) :: gs else [a] :: g :: gs

/-- Pieces of at most `n`. -/
def chunks (n : Nat) : Nat → List α → List (List α)
  | 0, _ => []
  | f + 1, l => if l.isEmpty then [] else l.take n :: chunks n f (l.drop n)

/-- C of R199. -/
def regroupCut (lanes : Nat) (l : List Sorted) : List (List Sorted) :=
  (cutSorted lanes true l).flatMap fun g => chunks lanes g.length g

/-- The new teams: C, or its first U and the rest cut after every Λ lanes. -/
def regroupForm (lanes nmax : Nat) (l : List Sorted) : List (List Sorted) :=
  let c := regroupCut lanes l
  if c.length ≤ nmax then c
  else
    let rem (u : Nat) : List Sorted := (c.drop u).flatten
    let fits (u : Nat) : Bool := decide (u + ((rem u).length + lanes - 1) / lanes ≤ nmax)
    let u := ((List.range (c.length + 1)).filter fits).foldl max 0
    c.take u ++ chunks lanes (rem u).length (rem u)

/-! ### The new state (R200, R202, Table 9.2) -/

/-- One lane in its new place. -/
def movedLane (l : Lane) (uniform : Bool) (slot : Nat) (a : Sorted) : Lane :=
  { l.setPred 0 uniform with
    v := l.v.setIfInBounds a.dst.toNat (BitVec.ofNat 32 slot), key := BitVec.ofNat 32 a.key }

/-- The earliest-placed team. -/
def earliest : List Team → Option Team
  | [] => none
  | t :: ts => match earliest ts with
    | some u => if u.age < t.age then some u else some t
    | none => some t

/-- Errors of the old teams' registers as the new team has them: those of the lanes in their new places, those of team
registers from the old team of the lowest lane (R200, R264). -/
def movedErrors (old : Nat → Team) (low : Team) (group : List Sorted) : List Nat :=
  (low.badRegs.filter fun k => decide (2 ^ 92 ≤ k)) ++ group.zipIdx.flatMap fun (a, i) =>
    (old a.old).badRegs.filterMap fun k =>
      if k < 2 ^ 92 ∧ (k - 2 ^ 90) / 512 = a.slot then some (2 ^ 90 + i * 512 + (k - 2 ^ 90) % 512) else none

/-- One new team of the old ones. `rank`: its number in the order of R199. DESIGN CHOICE, safe or unsafe as
notes/assumptions/18 says: where the participants arrived at different `regroup` instructions, which R200 does not speak
of, the new team goes on behind that of its lowest lane's old team, and each lane's slot goes to the register that its own
instruction names. A save that was asked for during the relocation is owed by every new team with a lane of the team asked
(R204). -/
def newTeam (olds : List Team) (id : Word) (rank : Nat) (plane : Option Nat) (now : Nat) (group : List Sorted) : Team :=
  let old (k : Nat) : Team := (getBy Team.key k olds).getD {}
  let low := old ((group.head?.map Sorted.old).getD 0)
  let first := (earliest olds).getD low
  let uniform := group.all fun a => a.key == (group.head?.map Sorted.key).getD 0
  let pc := ((low.splits.head?).map Split.pc).getD 0
  { low with
    id := id
    rank := if low.gang.isSome then rank else 0
    lanes := group.zipIdx.map fun (a, i) => movedLane ((old a.old).lane a.slot) uniform i a
    fstat := (group.map fun a => (old a.old).fstat).foldl (· ||| ·) 0
    splits := [{ id := 0, mask := maskOf (List.range group.length), pc := pcNext pc }]
    held := [], landings := [], nextLanding := 0
    f := Vector.replicate 4 {}
    scratch := {}
    plane := plane
    prio := first.prio, age := first.age, waiting := none, rejections := 0
    saving := group.any fun a => (old a.old).saving, badRegs := movedErrors old low group, reserved := none, clock := none
    placedAt := now, resident := 0, metered := 0, triggered := false, scribeFaults := 0, elemFaults := 0
    preempt := (olds.find? fun t => t.preempt.isSome).bind Team.preempt, timer := none }

/-- Places the new teams one after another with fresh ids and pairs. -/
def State.placeNew (s : State) (olds : List Team) (core : Nat) : Nat → List (List Sorted) → State
  | _, [] => s
  | rank, g :: gs =>
    let (s, id) := s.freshTeam (core / 512)
    let k := s.core core
    let planes := ((olds.head?).map fun t => t.entry.planes).getD 0
    let plane := if planes = 1 then k.freePairs.head? else none
    let t := newTeam olds id rank plane (s.cycle (core / 512)) g
    let s := match plane with | some i => s.setCore (k.setPair i { owner := some t.key }) | none => s
    let c := s.ctxPkg t.ctx t.pkg
    let s := s.setCtxPkg { c with budget := c.budget - (t.entry.energy * t.lanes.length : Nat) }
    ({ s with teams := s.teams ++ [t] }).placeNew olds core (rank + 1) gs

/-- The commit: old state is freed once the new teams are formed from it; their energy is settled. -/
def State.regroupBuild (s : State) (core : Nat) (r : Regroup) : State :=
  let olds := r.arrivals.filterMap fun a => s.team? a.team
  let lanes := ((olds.head?).map fun t => t.entry.lanes).getD 1
  let groups := regroupForm lanes (r.nmax.getD 1) (s.regroupLanes r)
  let keys := olds.map Team.key
  let s := olds.foldl (fun s t => (s.settleEnergy t).orphanCmds t) s
  let s := { s with teams := s.teams.filter fun t => !keys.contains t.key }
  let k := s.core core
  let s := s.setCore { k with planes := k.planes.map fun p => match p.owner with
    | some o => if keys.contains o then {} else p
    | none => p }
  let s := s.placeNew olds core 0 groups
  match r.gang.bind s.gang? with
  | some g => s.setGang { g with expected := groups.length }
  | none => s

/-- REGROUP_COMMIT: the relocation that is in progress commits, or an error discards it (R202). -/
def execRegroupCommit (core : Nat) (error : Bool) (s : State) : Host.Outcome State Fault Refusal :=
  .next (match (s.core core).regroups.find? fun r => r.nmax.isSome with
    | none => s
    | some r =>
      let k := s.core core
      let drop (s : State) : State := s.setCore { s.core core with
        regroups := k.regroups.filter fun q => !(q.participants == r.participants && q.nmax.isSome) }
      if error then (r.arrivals.foldl (fun s a => s.abortTeam a.team a.split 4) (drop s)).wakeRegroup core
      else ((drop s).regroupBuild core r).wakeRegroup core)

end Sys2Proof.Machine
end

