-- ==== Sys2Proof/Machine/Horizon.lean ====
section
/-! DEFINITION. The horizon: local minima, reports, H and the critical messages between packages (16 R300 to R303,
20 R383 to R386). -/
namespace Sys2Proof.Machine

/-! ### Local minima (R300, R301) -/

def minOpt : Option Nat → Nat → Option Nat
  | none, x => some x
  | some y, x => some (min y x)

def minOf (l : List Nat) : Option Nat := l.foldl minOpt none

/-- Times of the post elements of a context among elements. -/
def postTimes (es : List Element) : List Nat :=
  es.filterMap fun e => if e.kind = .post then e.rec'.map fun r => r.ev.time.toNat else none

/-- The die's share of R300: records pending or in bins, post elements that are not acknowledged, event lanes that
have been dispatched and have not exited. -/
def State.localTimes (s : State) (ctx die : Nat) : List Nat :=
  let d := s.die die
  let c := s.ctxDie ctx die
  let recs := c.pending ++ c.bins.flatMap Bin.recs
  let elems := (d.blotters ++ d.resend).flatMap (fun b => if b.ctx = ctx then b.elems else []) ++
    d.packets.flatMap fun p => if p.ctx = ctx then p.elems else []
  let lanes := s.teams.flatMap fun t =>
    if t.ctx = ctx ∧ t.dieNo = die ∧ t.handler.isSome then (t.lanes.filter Lane.live).map fun l => l.time.toNat else []
  let formed := d.formed.flatMap fun f => if f.ctx = ctx then f.lanes.map fun l => l.ev.time.toNat else []
  recs.map (fun r => r.ev.time.toNat) ++ postTimes elems ++ lanes ++ formed

def State.localMin (s : State) (ctx die : Nat) : Option DWord :=
  (minOf (s.localTimes ctx die)).map (BitVec.ofNat 64)

/-! ### Links: sending (R375 to R382) -/

def State.port (s : State) (pkg no : Nat) : Port := (getBy Port.no no (s.pkg pkg).ports).getD { no := no }
def State.setPort (s : State) (pkg : Nat) (q : Port) : State :=
  s.setPkg { s.pkg pkg with ports := putBy Port.no q (s.pkg pkg).ports }

/-- Flits that the retry buffer holds. -/
def Port.held (q : Port) : Nat := (q.sentSeq - q.ackSeq).toNat

/-- The sending direction takes its staged key when its counter has reached the start that a key-exchange flit named. -/
def Port.installSend (q : Port) : Port :=
  match q.sendStaged with
  | some k => if q.sendArmed ∧ k.start.toNat ≤ q.sent.toNat then
      { q with sendKey := some k, sendStaged := none, sendArmed := false, sent := 0, sendLow := false, exhausted := none }
    else q
  | none => q

/-- The receiving direction does so once such a flit has arrived. -/
def Port.installRecv (q : Port) : Port :=
  match q.recvStaged with
  | some k => if q.recvArmed ∧ k.start.toNat ≤ q.received.toNat then
      { q with recvKey := some k, recvStaged := none, recvArmed := false, received := 0, recvLow := false }
    else q
  | none => q

/-- Puts a flit into the retry buffer; the timer runs from the first one. -/
def Port.hold (q : Port) (now : Nat) : Port :=
  { q with sentSeq := q.sentSeq + 1, ackAt := if q.held = 0 then now else q.ackAt }

/-- The key-exchange flit of a staged key leaves once the link is up and the buffer has room (R378, R437). -/
def Port.announceKey (q : Port) (now : Nat) : Port :=
  if q.up && q.sendStaged.isSome && !q.sendArmed && decide (q.held < 512) then { q.hold now with sendArmed := true } else q

/-- Sends data flits for the first time until the counter runs out; how many are left. -/
def Port.sendFlits (now : Nat) : Nat → Port → Port × Nat
  | 0, q => (q, 0)
  | n + 1, q =>
    if 2 ^ 64 - 2 ≤ q.sent.toNat then (q, n + 1) else Port.sendFlits now n { q.hold now with sent := q.sent + 1 }

/-- What becomes of a packet that is to cross to another package. -/
inductive Sent where
  | ok (s : State)
  /-- Traffic behind the port back-pressures. -/
  | full
  /-- The counter ran out within the packet: the rest leaves when there is a new key (R382). -/
  | cut (s : State)
  /-- The destination die is unreachable. -/
  | lost

/-- A packet leaves by the port of its stream, whole or not at all but where the counter runs out; link-control flits of the
port's own go before it. -/
def State.sendPacket (s : State) (src dst die k flits : Nat) : Sent :=
  if src = dst then .ok s
  else
    match s.streamPort src dst die k with
    | none => .lost
    | some n =>
      let now := s.cycle src
      let q := (s.port src n).installSend
      let control := Config.controlFlits s.tick % 2
      if 512 < q.held + control + (flits - q.begun) then .full
      else
        let q := if control = 0 then q else q.hold now
        let (q, left) := Port.sendFlits now (flits - q.begun) q
        if left = 0 then .ok (s.setPort src { q with begun := 0 }) else .cut (s.setPort src { q with begun := flits - left })

/-- Flits of a packet: 56 bytes each, with the tag of 16 bytes; the header can take one more. -/
def packetFlits (bytes : Nat) : Nat := (bytes + 16 + 55) / 56 + Config.headerFlits bytes % 2

/-! #### What crosses to another package (R375, R376, R401) -/

/-- The stream of an outstanding packet or request of a die: its destination, and its number there. -/
def Packet.lane (p : Packet) : Nat × Nat := (p.dst, slotStream p.slot)
def Request.lane (r : Request) : Nat × Nat := (r.dst, requestStream r.core)

/-- Something of a stream that left a die earlier has not arrived: packets of one stream arrive in the order sent. -/
def Die.streamAhead (d : Die) (lane : Nat × Nat) (id : Nat) : Bool :=
  lane.1 / 4 != d.id / 4 &&
    ((d.packets.any fun q => decide (q.id < id) && q.lane == lane && q.status.isNone) ||
      d.requests.any fun q => decide (q.id < id) && q.lane == lane && q.state == .sent)

/-- Every flit that a port has sent is acknowledged. -/
def State.flitsAcked (s : State) (pkg : Nat) (no : Option Nat) : State :=
  match no with
  | some n => let q := s.port pkg n; s.setPort pkg { q with ackSeq := q.sentSeq, resends := 0 }
  | none => s

/-- A request of a core with its response, whole: an engine's read or write of `n` bytes at a die (R375). The response, and
the link's next flit, acknowledge the flits (R378; notes/assumptions/22). -/
def State.cross (s : State) (core dst : Nat) (write : Bool) (n : Nat) : Sent :=
  let src := core / 512
  let k := requestStream core
  let d := s.die (core / 128)
  if dst / 4 = src then .ok s
  else if d.streamAhead (dst, k) d.nextPacket then .full
  else
    match s.sendPacket src (dst / 4) dst k (packetFlits (if write then n else 0)) with
    | .ok s =>
      match s.sendPacket (dst / 4) src (core / 128) k (packetFlits (if write then 0 else n)) with
      | .ok s => .ok ((s.flitsAcked src (s.streamPort src (dst / 4) dst k)).flitsAcked (dst / 4)
          (s.streamPort (dst / 4) src (core / 128) k))
      | r => r
    | r => r

/-! ### Critical messages (R383, R384) -/

/-- The root package of a context (R296). -/
def Ctx.root (c : Ctx) : Nat := ((c.places.head?).map Prod.fst).getD 0

def seqOf (l : List (Nat × Word)) (p : Nat) : Word := ((getBy Prod.fst p l).map Prod.snd).getD 0

/-- Later in 32-bit serial-number order. -/
def serialLater (a b : Word) : Bool := a != b && decide ((a - b).toNat < 2 ^ 31)

/-- The dies through which the two copies leave a package: the master and the one two further, or the survivor of the
two. -/
def State.critDies (s : State) (src : Nat) : Nat × Nat :=
  let m := (s.pkg src).master
  let n := (m + 2) % 4
  if (s.die (src * 4 + m)).fenced then (n, n) else if (s.die (src * 4 + n)).fenced then (m, m) else (m, n)

/-- Sends a message twice under the next CSEQ for its packages. -/
def State.sendCrit (s : State) (src dst : Nat) (kind : CritKind) (ctx : Nat) (value : Option DWord) : State × Word :=
  let p := s.pkg src
  let q := seqOf p.sentSeq dst + 1
  let m (i via : Nat) : CritMsg :=
    { id := i, src := src, dst := dst, via := via, kind := kind, ctx := ctx, cseq := q, value := value }
  let (a, b) := s.critDies src
  let s := s.setPkg { p with sentSeq := putBy Prod.fst (dst, q) p.sentSeq }
  ({ s with crit := s.crit ++ [m s.nextCrit a, m (s.nextCrit + 1) b], nextCrit := s.nextCrit + 2 }, q)

/-- An earlier copy of the same stream is still on its way (R376). -/
def CritMsg.after (m n : CritMsg) : Bool :=
  m.src != m.dst && n.src == m.src && n.dst == m.dst && n.via == m.via && decide (n.id < m.id)

/-- One copy crosses, on stream 0 of its die; the message where the receiver accepts it. -/
def State.takeCrit (s : State) (id : Nat) (kind : CritKind) : State × Option CritMsg :=
  match s.crit.find? fun m => m.id == id && m.kind == kind && !s.crit.any m.after with
  | none => (s, none)
  | some m =>
    let gone (s : State) : State := { s with crit := s.crit.filter fun n => n.id != id }
    match s.sendPacket m.src m.dst m.via critStream 1 with
    | .full => (s, none)
    | .cut s => (s, none)
    | .lost => (gone s, none)
    | .ok s =>
    let s := gone s
    let p := s.pkg m.dst
    if serialLater m.cseq (seqOf p.seenSeq m.src) then
      (s.setPkg { p with seenSeq := putBy Prod.fst (m.src, m.cseq) p.seenSeq }, some m)
    else (s, none)

/-! ### H (R302) -/

/-- Every die of a package holds the largest H that it has received. -/
def State.packageH (s : State) (c : Ctx) (p : Nat) (h : DWord) : State :=
  (((getBy Prod.fst p c.places).map Prod.snd).getD []).foldl (fun s d =>
    let x := s.ctxDie c.id (p * 4 + d)
    (s.setCtxDie { x with h := if x.h.toNat < h.toNat then h else x.h }).markRounds c.id (p * 4 + d)) s

/-- Tmin from the latest report of each package. -/
def Ctx.tmin (c : Ctx) : Option Nat := minOf (c.reports.filterMap fun r => r.2.map BitVec.toNat)

/-- The root computes H again; a rise goes to every package of the context. -/
def State.rootUpdate (s : State) (ctx : Nat) : State :=
  match s.ctx? ctx with
  | none => s
  | some c =>
    match c.tmin with
    | none => s
    | some t =>
      let h : DWord := BitVec.ofNat 64 (min (2 ^ 64 - 1) (t + c.control.lookahead.toNat))
      if h.toNat ≤ c.hRoot.toNat then s
      else
        let s := (s.setCtx { c with hRoot := h }).packageH c c.root h
        c.places.foldl (fun s (p, _) => if p = c.root then s else (s.sendCrit c.root p .horizon ctx (some h)).1) s

/-- The root's record of a package's report. -/
def State.acceptReport (s : State) (ctx pkg : Nat) (v : Option DWord) : State :=
  match s.ctx? ctx with
  | none => s
  | some c => (s.setCtx { c with reports := putBy Prod.fst (pkg, v) c.reports }).rootUpdate ctx

/-! ### Reports (R301, R385) -/

/-- The least of the latest reports of a package's dies. -/
def State.packageMin (s : State) (c : Ctx) (p : Nat) : Option DWord :=
  (minOf ((((getBy Prod.fst p c.places).map Prod.snd).getD []).filterMap fun d =>
    ((s.ctxDie c.id (p * 4 + d)).reported).map BitVec.toNat)).map (BitVec.ofNat 64)

/-- The master sends REPORT with its current value, not sooner than 256 cycles after the last one. -/
def State.sendReport (s : State) (c : Ctx) (p : Nat) : State :=
  let x := s.ctxPkg c.id p
  let v := s.packageMin c p
  let s := if x.sentSeq = 0 then s
    else s.setPkg { s.pkg p with cycle := max (s.pkg p).cycle (x.sentAt + 256) }
  let (s, q) := s.sendCrit p c.root .report c.id v
  let now := s.cycle p
  s.setCtxPkg { x with
    sent := v, sentSeq := q, sentAt := now, unacked := x.unacked ++ [(q, v)]
    openSince := if x.unacked.isEmpty then now else x.openSince }

/-- The master passes on a changed least value: to the root package, or, as the root package, to H. -/
def State.masterReport (s : State) (c : Ctx) (p : Nat) : State :=
  let v := s.packageMin c p
  if p = c.root then
    if getBy Prod.fst p c.reports = some (p, v) then s else s.acceptReport c.id p v
  else if (s.ctxPkg c.id p).sent = v then s
  else s.sendReport c p

/-- A die reports its local minimum when that has changed. -/
def State.dieReport (s : State) (ctx die : Nat) : State :=
  match s.ctx? ctx with
  | none => s
  | some c =>
    let x := s.ctxDie ctx die
    let v := s.localMin ctx die
    if !c.dies.contains die || x.reported == v then s
    else (s.setCtxDie { x with reported := v }).masterReport c (die / 4)

/-- A minimum that has fallen below the report is reported before anything else happens: a record is always counted somewhere
(R301; for a local post, a firing and a stolen team DEDUCED, notes/assumptions/42). -/
def State.settleReports (s : State) : State :=
  s.ctxs.foldl (fun s c => c.dies.foldl (fun s d =>
    match s.localMin c.id d, (s.ctxDie c.id d).reported with
    | none, _ => s
    | some v, some r => if v.toNat < r.toNat then s.dieReport c.id d else s
    | some _, none => s.dieReport c.id d) s) s

/-- DIE_REPORT. -/
def execDieReport (ctx die : Nat) (s : State) : Host.Outcome State Fault Refusal := .next (s.dieReport ctx die)

/-- CRIT_REPORT: the root takes the value and answers with REPORT_ACK. -/
def execCritReport (msg : Nat) (s : State) : Host.Outcome State Fault Refusal :=
  .next (match s.takeCrit msg .report with
    | (s, none) => s
    | (s, some m) =>
      ((s.sendCrit m.dst m.src .reportAck m.ctx (some (m.cseq.setWidth 64))).1).acceptReport m.ctx m.src m.value)

/-- Held acknowledgements of a package are released by a report at or below their record's time (R386). -/
def Die.releaseAcks (d : Die) (pkg ctx v now : Nat) : Die :=
  { d with packets := d.packets.map fun p =>
      if p.ctx == ctx && p.dst / 4 == pkg && p.needs.any fun t => decide (v ≤ t.toNat) then
        { p with needs := none, ackAt := now }
      else p }

/-- REPORT_ACK. -/
def execReportAck (msg : Nat) (s : State) : Host.Outcome State Fault Refusal :=
  .next (match s.takeCrit msg .reportAck with
    | (s, none) => s
    | (s, some m) =>
      let x := s.ctxPkg m.ctx m.dst
      let q : Word := (m.value.getD 0).setWidth 32
      let v := (x.unacked.find? fun u => u.1 == q).bind Prod.snd
      let s := s.setCtxPkg { x with unacked := x.unacked.filter fun u => serialLater u.1 q, openSince := s.cycle m.dst, ackedAt := s.cycle m.dst }
      match v with
      | none => s
      | some v => { s with dies := s.dies.map fun d => d.releaseAcks m.dst m.ctx v.toNat s.tick })

/-- HORIZON: the master passes H to its dies. -/
def execHorizon (msg : Nat) (s : State) : Host.Outcome State Fault Refusal :=
  .next (match s.takeCrit msg .horizon with
    | (s, none) => s
    | (s, some m) => match s.ctx? m.ctx with
      | none => s
      | some c => s.packageH c m.dst (m.value.getD 0))

/-- REPORT_RESEND: 20 µs without REPORT_ACK; the current value goes under a new CSEQ. -/
def execReportResend (pkg ctx : Nat) (s : State) : Host.Outcome State Fault Refusal :=
  .next (match s.ctx? ctx with
    | none => s
    | some c =>
      let x := s.ctxPkg ctx pkg
      if x.unacked.isEmpty ∨ pkg = c.root then s
      else (s.setPkg { s.pkg pkg with cycle := max (s.pkg pkg).cycle (x.sentAt + 20 * Config.cyclesPerUs) }).sendReport c pkg)

end Sys2Proof.Machine
end

