-- ==== Sys2Proof/Machine/Events.lean ====
section
/-! DEFINITION. The event instructions, opcodes 0xC0 to 0xC5 and 0xC7, GATE_FIRE, EVENT_OVERFLOW and
DIE_ACKNOWLEDGE (16 R293 to R321). -/
namespace Sys2Proof.Machine

/-! ### Operands of `post`, `gate` and `cancel` (R316, R317) -/

/-- What one lane names. -/
structure Posting where
  slot : Nat
  control : Word
  time : DWord
  entity : Word
  payload : Vector Word 4
  deriving DecidableEq, Repr

def Posting.handler (p : Posting) : BitVec 12 := p.control.extractLsb' 0 12

def posting (t : Team) (x : PlainOp) (slot : Nat) : Posting :=
  let get (o : Operand) (k : Nat) : Word := readField t [] (immPlain x.imm) slot o k
  { slot := slot, control := get x.d 0, time := pair (get x.a 0) (get x.a 1), entity := get x.b 0
    payload := Vector.ofFn fun i => get x.c i.val }

/-- The record of a lane (Tables 16.1, 16.2). -/
def Posting.record (p : Posting) (time : DWord) (short : Bool) : EvRec :=
  { time := time, entity := p.entity, handler := p.handler, cls := p.control.extractLsb' 12 2, short := short
    tie := p.control.extractLsb' 16 16, payload := p.payload }

/-- Saturating addition of times. -/
def addTime (a b : DWord) : DWord := BitVec.ofNat 64 (min (2 ^ 64 - 1) (a.toNat + b.toNat))

/-- R304: the delivered time and SHORT, for a lane of an event team or of a kernel team. -/
def shortRule (event : Bool) (now : DWord) (own : Word) (look : Word) (h : DWord) (t : DWord) (entity : Word) :
    DWord × Bool :=
  if event then
    if t.toNat < now.toNat then (now, true)
    else (t, entity != 0 && entity != own && decide (t.toNat < (addTime now (look.setWidth 64)).toNat))
  else (t, decide (t.toNat < h.toNat))

/-- The next sequence number of a core (R294). -/
def State.takeSeq (s : State) (core : Nat) : State × DWord :=
  let c := s.core core
  (s.setCore { c with seq := c.seq + 1 }, c.seq)

/-! ### Lanes one after another, with a stall (R314, R315, R395) -/

/-- The outcome of one lane: it is done, or its element is not accepted, with j2 of EVENT_OVERFLOW. -/
inductive LaneStep where
  | done (s : State) (t : Team)
  | stalled (j2 : Word)

/-- H for an instruction: as it was read when the instruction issued (R342). -/
def Ex1.horizon (e : Ex1) (s : State) : DWord :=
  match e.x.block with
  | .stalled _ _ _ h => h
  | _ => (s.ctxDie e.t.ctx e.t.dieNo).h

/-- The split waits with reason 10 at the first lane not accepted. `timed`: R315 applies. -/
def Ex1.stallAt (e : Ex1) (s : State) (slot : Nat) (j2 : Word) (timed : Bool) : State :=
  let now := s.cycle e.t.pkg
  let start := match e.x.block with
    | .stalled j n _ _ => if j = j2 ∧ e.x.accepted = slot then n else some now
    | _ => some now
  s.setTeam (e.t.setSplit { e.x with
    wait := .order, since := s.tick, again := true, accepted := slot
    block := .stalled j2 (if timed then start else none) e.mask (e.horizon s) })

/-- Runs the lanes in increasing slot order from the first not accepted. -/
def Ex1.laneByLane (e : Ex1) (timed : Bool) (f : State → Team → Nat → LaneStep) : List Nat → State → State
  | [], s => s.setTeam (e.advance (e.charged s).t)
  | slot :: rest, s =>
    match f s e.t slot with
    | .done s t => { e with t := t }.laneByLane timed f rest s
    | .stalled j2 => e.stallAt s slot j2 timed

/-- Class and units of an element on its way: the lines of a link between dies, or the flits, by which it makes the packet of its
slot longer; none within its own die (R338, Table 17.4; notes/assumptions/38). -/
def State.elementUnits (s : State) (t : Team) (dst : Nat) (e : Element) : Nat × Nat :=
  let size := (((s.die t.dieNo).blotters.find? fun b => b.ctx == t.ctx && b.dst == dst).map BlotterSlot.size).getD 0
  let grown (f : Nat → Nat) : Nat := if size ≤ e.size then f size else f size - f (size - e.size)
  if dst = t.dieNo then (8, 0)
  else if dst / 4 = t.pkg then (8, grown fun n => (n + 127) / 128)
  else (9, grown packetFlits)

/-- An element of the team enters a slot of the blotter towards its destination, and is charged for its way. -/
def State.enterFor (s : State) (t : Team) (dst : Nat) (e : Element) : Option (State × Team) :=
  (s.enterElement t.dieNo t.ctx dst e).map fun s' =>
    let (cls, units) := s'.elementUnits t dst e
    (s', s.charge t cls units)

/-- Lanes that are still to act. -/
def Ex1.pendingSlots (e : Ex1) : List Nat := e.slots.filter fun i => decide (e.x.accepted ≤ i)

/-- The lanes of the instruction have been checked: it stalls, or a lane has acted. -/
def Ex1.begun (e : Ex1) : Bool :=
  e.x.accepted != 0 || match e.x.block with
    | .stalled _ _ _ _ => true
    | _ => false

/-- The check of every lane before the first acts (R317): the first whose handler has no valid entry. -/
def Ex1.handlersValid (e : Ex1) (x : PlainOp) (s : State) (k : Ctx → State → State) : State :=
  match s.ctx? e.t.ctx with
  | none => s
  | some c =>
    let bad := if e.begun then [] else e.slots.filter fun i => (c.handler? (posting e.t x i).handler).isNone
    match bad with
    | [] => k c s
    | i :: _ => s.raise e.t e.x (e.cause codeBounds (posting e.t x i).control i e.mask (posting e.t x i).control.toNat)

/-- An element of a lane of the executing instruction. -/
def Ex1.element (e : Ex1) (kind : ElemKind) (slot : Nat) : Element :=
  { kind := kind, team := e.t.key, core := e.t.coreNo, lane := slot, pc := e.pc, issued := e.x.issuedAt }

/-! ### `post` (R304, R317) -/

def Ex1.postLane (e : Ex1) (c : Ctx) (rel : Bool) (x : PlainOp) (s : State) (t : Team) (slot : Nat) : LaneStep :=
  let p := posting t x slot
  let l := t.lane slot
  let here := t.dieNo
  let asked := if rel then addTime l.time p.time else p.time
  let (time, short) := shortRule t.handler.isSome l.time l.entity c.control.lookahead (e.horizon s) asked p.entity
  let home := c.home (c.handlerFields p.handler) p.entity here
  let (s1, seq) := s.takeSeq t.coreNo
  let r : PRec := { ev := p.record time short, poster := t.coreNo, seq := seq }
  if home = here then
    if refusing c (s.ctxDie t.ctx here) then .stalled (BitVec.ofNat 32 home) else .done (s1.insertRecord t.ctx here r) t
  else
    match s1.enterFor t home { e.element .post slot with rec' := some r } with
    | some (s, t) => .done s t
    | none => .stalled (BitVec.ofNat 32 home)

def execPost (rel : Bool) (x : PlainOp) (s : State) : Host.Outcome State Fault Refusal :=
  issue (.post rel x) s fun e s =>
    e.handlersValid x s fun c s => e.laneByLane true (e.postLane c rel x) e.pendingSlots s

/-! ### `cancel` (R313, R318) -/

/-- A pending record that a cancel names. -/
def cancelMatches (p : EvRec) (r : PRec) : Bool :=
  r.ev.handler == p.handler && r.ev.entity == p.entity && r.ev.time == p.time && r.ev.tie == p.tie

/-- Removes what a cancel names from a die: the state and the number removed. -/
def State.cancelAt (s : State) (ctx die : Nat) (p : EvRec) : State × Nat :=
  let d := s.ctxDie ctx die
  let keep (l : List PRec) : List PRec := l.filter fun r => !cancelMatches p r
  let d' : CtxDie := { d with
    pending := keep d.pending
    bins := (d.bins.map fun b => { b with recs := keep b.recs }).filter fun b => !b.recs.isEmpty }
  (s.setCtxDie (d'.settleLevels (s.controlOf ctx)), d.held - d'.held)

def Ex1.cancelLane (e : Ex1) (c : Ctx) (res : BitVec 8) (x : PlainOp) (s : State) (t : Team) (slot : Nat) : LaneStep :=
  let p := posting t x slot
  let home := c.home (c.handlerFields p.handler) p.entity t.dieNo
  let r := p.record p.time false
  if home = t.dieNo then
    let (s, n) := s.cancelAt t.ctx home r
    .done s (t.regWrite slot (.v res) 0 (BitVec.ofNat 32 n))
  else
    match s.enterFor t home
        { e.element .cancel slot with rec' := some { ev := r, poster := t.coreNo, seq := 0 } } with
    | some (s, t) => .done s (t.regWrite slot (.v res) 0 0xFFFFFFFF)
    | none => .stalled 0

def execCancel (res : BitVec 8) (x : PlainOp) (s : State) : Host.Outcome State Fault Refusal :=
  issue (.cancel res x) s fun e s =>
    e.handlersValid x s fun c s => e.laneByLane false (e.cancelLane c res x) e.pendingSlots s

/-! ### `gate` (R309, R318) -/

/-- The lowest free gate slot of a die. -/
def Die.freeGate (d : Die) : Option Nat :=
  (List.range (min 65536 (d.gates.length + 1))).find? fun i => !d.gates.any fun g => g.slot == i

def freeGates (d : Die) : Nat := 65536 - d.gates.length

def Ex1.gateLane (res : BitVec 8) (x : PlainOp) (s : State) (t : Team) (slot : Nat) : LaneStep :=
  let p := posting t x slot
  let d := s.die t.dieNo
  match d.freeGate with
  | none => .stalled 0xFFFFFFFF
  | some i =>
    let (s, seq) := s.takeSeq t.coreNo
    let g : Gate := { slot := i, record := p.record p.time false, poster := t.coreNo, seq := seq, ctx := t.ctx }
    .done (s.setDie { d with gates := d.gates ++ [g] }) (t.regWrite slot (.v res) 0 (gateHandle t.dieNo i))

def execGate (res : BitVec 8) (x : PlainOp) (s : State) : Host.Outcome State Fault Refusal :=
  issue (.gate res x) s fun e s =>
    e.handlersValid x s fun _ s => e.laneByLane true (Ex1.gateLane res x) e.pendingSlots s

/-! ### `signal` and `publish` (R310 to R312, R319) -/

/-- The scope entries of the release of one signal or publish: those it names, widened; 5 where the gate lies on
another die (R312). -/
def State.gateScopes (s : State) (t : Team) (handle : Word) (named : List Nat) : List Nat :=
  if gateDieOf handle = t.dieNo then
    match (s.die t.dieNo).gate? (gateSlotOf handle), s.ctx? t.ctx with
    | some g, some c => named ++ if g.ctx = t.ctx then [(c.handlerFields g.record.handler).place] else []
    | _, _ => named
  else [5]

/-- A release at a union of scopes that also covers bound regions (R312, R359). It waits for the accesses that other
splits of the team issued before (R186). -/
def Ex1.releaseUnion (e : Ex1) (scopes : List Nat) (s : State) (k : State → State) : State :=
  let inScope (d : Nat) : Bool := scopes.any fun sc => s.scopeHasDie e.t sc d
  let before := e.x.issuedAt
  if e.t.openBefore e.x true || e.t.fenced e.x then s.stall e.t e.x
  else if s.elementsIn e.t inScope ⟨[], true⟩ before then (s.pushFor e.t inScope ⟨[], true⟩ before).stall e.t e.x
  else k (if scopes.any scopeActs then s.releaseL1 e.t.coreNo e.t.ctx ⟨[], true⟩ else s)

/-- The source that a dropped signal of a lane names (R311). -/
def Ex1.gateSource (e : Ex1) (slot : Nat) : GateSource :=
  ⟨e.t.ctx, e.t.core, e.t.pkg, e.t.id, e.pc, BitVec.ofNat 32 slot⟩

/-- Handle and second operand of a lane. -/
def gateArgs (t : Team) (x : PlainOp) (slot : Nat) : Word × Word :=
  (readField t [] (immPlain x.imm) slot x.a 0, readField t [] (immPlain x.imm) slot x.b 0)

/-- The handle names a die to which the signal travels as an element. -/
def signalTravels (c : Ctx) (here : Nat) (handle : Word) : Bool :=
  handleOk c handle && gateDieOf handle != here && c.dies.contains (gateDieOf handle)

def Ex1.signalLane (e : Ex1) (c : Ctx) (x : PlainOp) (s : State) (t : Team) (slot : Nat) : LaneStep :=
  let (h, b) := gateArgs t x slot
  if signalTravels c t.dieNo h then
    match s.enterFor t (gateDieOf h)
        { e.element .signal slot with addr := h.toNat, scope := b.toNat } with
    | some (s, t) => .done s t
    | none => .stalled 0
  else .done (s.gateAct (e.gateSource slot) h none) t

def execSignal (x : PlainOp) (s : State) : Host.Outcome State Fault Refusal :=
  issue (.signal x) s fun e s =>
    let args := e.pendingSlots.map fun i => (i, gateArgs e.t x i)
    match args.filter fun (_, _, b) => !e.begun && decide (31 < b.toNat) with
    | (i, _, b) :: _ => s.raise e.t e.x (e.cause codeBounds b i e.mask b.toNat)
    | [] =>
      match s.ctx? e.t.ctx with
      | none => s
      | some c =>
        let act (s : State) : State := e.laneByLane false (e.signalLane c x) e.pendingSlots s
        if e.begun then act s
        else e.releaseUnion (args.flatMap fun (_, h, b) => s.gateScopes e.t h [b.toNat]) s act

/-- The BOUNDS value of a lane of `publish`. -/
def publishBad (t : Team) (h b : Word) : Option Word :=
  if 2 ^ 31 ≤ b.toNat then some b else if gateDieOf h / 4 ≠ t.pkg then some h else none

def execPublish (x : PlainOp) (s : State) : Host.Outcome State Fault Refusal :=
  issue (.publish x) s fun e s =>
    let args := e.slots.map fun i => (i, gateArgs e.t x i)
    match args.filterMap fun (i, h, b) => (publishBad e.t h b).map fun w => (i, w) with
    | (i, w) :: _ => s.raise e.t e.x (e.cause codeBounds w i e.mask w.toNat)
    | [] =>
      e.releaseUnion (args.flatMap fun (_, h, _) => s.gateScopes e.t h []) s fun s =>
        let s := args.foldl (fun s (i, h, b) => s.gateAct (e.gateSource i) h (some b.toNat)) s
        s.setTeam (e.advance (e.charged s).t)

/-- GATE_FIRE: a gate that is due posts its record when its home has room. -/
def execGateFire (die slot : Nat) (s : State) : Host.Outcome State Fault Refusal := .next (s.fireGate die slot)

/-! ### `hset` (R295, R320) -/

/-- A field of an image. -/
def imgField (bs : List Byte) (off n : Nat) : Nat := leNat ((bs.drop off).take n)

/-- The offset of the first check that fails. -/
def firstBad (l : List (Nat × Bool)) : Option Nat := (l.find? fun c => !c.2).map Prod.fst

/-- A label: bit 63 says that it exists. -/
def labelOk (x : Nat) : Bool := x / 2 ^ 57 % 64 == 0
def labelOf (x : Nat) : Option Pc := if x.testBit 63 then some (BitVec.ofNat 57 x) else none

/-- The ranges of Table 16.3. -/
def handlerChecks (bs : List Byte) : List (Nat × Bool) :=
  let f := imgField bs
  let valid := f 60 1 % 2 == 1
  let range (off n lo hi : Nat) : Nat × Bool := (off, decide (lo ≤ f off n) && decide (f off n ≤ hi))
  (if valid then
    [ (0, decide (f 0 8 < 2 ^ 57)), (8, labelOk (f 8 8)), (16, labelOk (f 16 8))
    , (24, decide (f 24 8 < 2 ^ 57) && f 24 8 % 4 == 0), range 32 2 0 256, range 34 2 1 256, range 36 2 1 1024
    , range 38 2 1 (f 36 2), range 40 2 1 65535, range 44 2 0 4096, range 46 1 0 1, range 47 1 0 31, range 48 1 0 31
    , range 49 1 0 3, range 50 1 0 31, range 51 1 12 30, range 52 2 0 511
    , (54, f 54 2 == 0 || (decide (128 ≤ f 54 2) && decide (f 54 2 ≤ 65520) && f 54 2 % 16 == 0))
    , (56, f 56 4 % 1024 == 0 && decide (f 56 4 ≤ 1048576)) ]
  else []) ++ [(60, decide (f 60 1 ≤ 1))] ++ if valid then [(61, f 61 3 == 0)] else []

def handlerEntry (bs : List Byte) : Entry :=
  let f := imgField bs
  { pc := BitVec.ofNat 57 (f 0 8), trap := labelOf (f 8 8), preempt := labelOf (f 16 8), const := f 24 8
    constw := f 32 2, vregs := f 34 2, lanes := f 36 2, coalesce := f 38 2, binTimer := f 40 2, energy := f 42 2
    splitspill := f 44 2, planes := f 46 1, place := f 47 1, dshift := f 48 1, dmask := f 49 1, pshift := f 50 1
    pmask := f 52 2, log2bar := f 51 1, slice := f 54 2, scratch := f 56 4 }

/-- Table 16.4. -/
def controlChecks (bs : List Byte) : List (Nat × Bool) :=
  [ (12, decide (imgField bs 12 1 ≤ 40)), (13, decide (imgField bs 13 1 ≤ 1)), (16, imgField bs 16 48 == 0) ]

def controlBlock (bs : List Byte) : Control :=
  { stop := BitVec.ofNat 64 (imgField bs 0 8), lookahead := BitVec.ofNat 32 (max 1 (imgField bs 8 4))
    calw := imgField bs 12 1, hold := imgField bs 13 1 == 1, deepLim := imgField bs 14 2, written := true }

/-- Table 21.8, for an entry at an offset of the image. -/
def routeChecks (c : Ctx) (bs : List Byte) (o : Nat) : List (Nat × Bool) :=
  let f (off n : Nat) : Nat := imgField bs (o + off) n
  let valid := f 30 1 % 2 == 1
  (if valid then
    [ (o, decide (f 0 8 < 2 ^ 57) && f 0 8 % 128 == 0), (o + 8, decide (f 8 8 < 2 ^ 57) && f 8 8 % 16 == 0)
    , (o + 16, decide (f 16 8 < 2 ^ 57) && f 16 8 % 4 == 0), (o + 24, f 24 2 != 0)
    , (o + 26, decide (16 ≤ f 26 2) && decide (f 26 2 ≤ 8192) && f 26 2 % 16 == 0)
    , (o + 28, c.places.any fun (p, _) => p == f 28 2) ]
  else []) ++ [(o + 30, decide (f 30 1 ≤ 1))] ++ if valid then [(o + 31, f 31 1 == 0)] else []

/-- Writes one route-table entry from its 32 bytes; without VALID it is none. -/
def Ctx.setRoute (c : Ctx) (i : Nat) (bs : List Byte) : Ctx :=
  { c with routes :=
      if imgField bs 30 1 % 2 = 1 then putBy RouteEntry.index ⟨i, bs⟩ c.routes else delBy RouteEntry.index i c.routes }

/-- The checks and the effect on the context of an image. -/
def hsetChecks (c : Ctx) (a : Nat) (bs : List Byte) : List (Nat × Bool) :=
  if a < 4096 then handlerChecks bs else if a = 4096 then controlChecks bs else routeChecks c bs 0 ++ routeChecks c bs 32

def Ctx.hsetWrite (c : Ctx) (a : Nat) (bs : List Byte) : Ctx :=
  if a < 4096 then
    let x : HEntry := ⟨BitVec.ofNat 12 a, imgField bs 60 1 % 2 == 1, handlerEntry bs⟩
    { c with handlers := putBy (fun h => h.index.toNat) x c.handlers }
  else if a = 4096 then { c with control := controlBlock bs }
  else (c.setRoute (2 * (a - 4352)) (bs.take 32)).setRoute (2 * (a - 4352) + 1) (bs.drop 32)

/-- A handler's bins are no longer frozen on any die (R308). -/
def State.unfreeze (s : State) (ctx : Nat) (h : BitVec 12) : State :=
  { s with ctxDies := s.ctxDies.map fun d => if d.ctx = ctx then { d with frozen := d.frozen.filter fun x => x != h } else d }

/-- The split waits with reason 10 for the acknowledgement of every die, at the next instruction. -/
def Ex1.awaitAcks (e : Ex1) (s : State) : State :=
  let t := e.advance (e.charged s).t
  match t.split? e.x.id with
  | some y => s.setTeam (t.setSplit { y with wait := .order, block := .acks, since := s.tick })
  | none => s.setTeam t

/-- `hset`: a release at scope 5 that covers bound regions (R342, R359). -/
def execHset (x : PlainOp) (s : State) : Host.Outcome State Fault Refusal :=
  issue (.hset x) s fun e s =>
    let a := (e.uniform x.a x.imm).toNat
    if !(decide (a ≤ 4096) || (decide (4352 ≤ a) && decide (a ≤ 4479))) then
      e.fault s codeBounds (BitVec.ofNat 32 a) a
    else
      e.uniformRead (e.uniform x.b x.imm).toNat 64 64 s fun e bs s =>
        match s.ctx? e.t.ctx with
        | none => s
        | some c =>
          match firstBad (hsetChecks c a bs) with
          | some o => e.fault s codeBounds (BitVec.ofNat 32 o) o
          | none =>
            e.releaseUnion [5] s fun s =>
              match s.ctx? e.t.ctx with
              | none => s
              | some c =>
                let s := s.setCtx (c.hsetWrite a bs)
                let s := if a < 4096 then s.unfreeze c.id (BitVec.ofNat 12 a) else if a = 4096 then s.rootUpdate c.id else s
                let s := c.dies.foldl (fun s d => s.retestBins c.id d) s
                e.awaitAcks s

/-- DIE_ACKNOWLEDGE: the last die has acknowledged. -/
def execDieAcknowledge (team split : Nat) (s : State) : Host.Outcome State Fault Refusal :=
  .next (match s.team? team with
    | none => s
    | some t =>
      match t.split? split with
      | none => s
      | some x => if x.block = .acks then s.setTeam (t.setSplit { x with wait := .ready, block := .none }) else s)

/-! ### `hznq` (R321) -/

/-- Table 16.13. -/
def State.hznqValue (s : State) (t : Team) (sel : Nat) : Word :=
  let c := (s.ctx? t.ctx).getD { id := t.ctx, places := [] }
  let d := s.ctxDie t.ctx t.dieNo
  let half (x : DWord) (hi : Bool) : Word := if hi then x.extractLsb' 32 32 else x.extractLsb' 0 32
  match sel with
  | 0 => half d.h false
  | 1 => half d.h true
  | 2 => half ((s.localMin t.ctx t.dieNo).getD 0xFFFFFFFFFFFFFFFF) false
  | 3 => half ((s.localMin t.ctx t.dieNo).getD 0xFFFFFFFFFFFFFFFF) true
  | 4 => half c.control.stop false
  | 5 => half c.control.stop true
  | 6 => c.control.lookahead
  | 7 => half c.short false
  | 8 => half c.short true
  | 9 => BitVec.ofNat 32 (min d.held (2 ^ 32 - 1))
  | 10 => BitVec.ofNat 32 (freeGates (s.die t.dieNo))
  | _ => 0

/-- An instruction that writes one value of the machine, once or to every contributing lane. -/
def Ex1.writeValue (e : Ex1) (d : Operand) (w : Word) (s : State) : State :=
  s.setTeam (e.advance ((e.charged s).t.applyWrites ((execSlots d e.slots).flatMap fun i => destWrites d i [w])))

def execHznq (x : PlainOp) (s : State) : Host.Outcome State Fault Refusal :=
  issue (.hznq x) s fun e s => e.writeValue x.d (s.hznqValue e.t (e.uniform x.a x.imm).toNat) s

/-! ### EVENT_OVERFLOW (R315) -/

/-- A stall of 2^20 cycles: the lanes below j3 are done; the resume PC is the next instruction. -/
def execEventOverflow (team split : Nat) (s : State) : Host.Outcome State Fault Refusal :=
  .next (match s.team? team with
    | none => s
    | some t =>
      match t.split? split with
      | none => s
      | some x =>
        match x.block with
        | .stalled j2 (some start) lanes _ =>
          (s.clockTo t.pkg (start + 2 ^ 20)).raise t x.clear
            { code := codeEventOverflow, level := 4, pc := x.pc, j2 := j2, j3 := BitVec.ofNat 32 x.accepted
              lanes := lanes, resume := pcNext x.pc }
        | _ => s)

end Sys2Proof.Machine
end

