-- ==== Sys2Proof/Machine/Place.lean ====
section
/-! DEFINITION. Bins, formed teams, launches and gangs: what the distributors dispatch and where it is placed
(16 R303 to R308, 17 R323 to R328, R338, R339, 10 R221 to R225). -/
namespace Sys2Proof.Machine

/-! ### Entity serialisation (R305) -/

/-- A lane that stands for another team's place, for the scope test of an exit. -/
def exitTeam (ctx core : Nat) : Team := { ctx := ctx, pkg := core / 512, core := core % 512 }

/-- The release of the entity's last exit is complete at the union of both PLACE entries. -/
def State.exitDone (s : State) (d : CtxDie) (e : Word) (place : Nat) : Bool :=
  match d.exits.find? fun x => x.1 == e with
  | none => true
  | some (_, key, core, p) =>
    let t := exitTeam d.ctx core
    !(s.outstanding key (core / 128)).any fun (el, dst) =>
      s.scopeHasDie t p dst || s.scopeHasDie t place dst ||
        ((el.kind == .store || el.kind == .reduction) && (s.binds d.ctx).any fun b => b.covers el.va)

/-- Serialisation on a home die admits a record: entity 0, or no lane, bin or earlier exit of the entity that the die
dispatched stands before it (R297, R305). -/
def State.admits (s : State) (c : Ctx) (d : CtxDie) (r : PRec) : Bool :=
  let e := r.ev.entity
  e == 0 ||
    ((s.entityLanes c.id d.die e).isEmpty && !(d.bins.any fun b => b.recs.any fun q => q.ev.entity == e) &&
      s.exitDone d e (c.handlerFields r.ev.handler).place)

/-! ### Bins (R307) -/

/-- Puts a record into its handler's bin. -/
def CtxDie.enterBin (d : CtxDie) (r : PRec) (now : Nat) : CtxDie :=
  let bins := if d.bins.any fun b => b.handler == r.ev.handler then
      d.bins.map fun b => if b.handler = r.ev.handler then { b with recs := b.recs ++ [r] } else b
    else d.bins ++ [⟨r.ev.handler, [r], now⟩]
  { d with bins := bins, pending := d.pending.filter fun q => q.key != r.key }

def CtxDie.binSize (d : CtxDie) (h : BitVec 12) : Nat := (d.bins.map fun b => if b.handler = h then b.recs.length else 0).sum

/-- Extracts the eligible records in order-key order, one of each entity, until a bin holds COALESCE. -/
def State.extract (s : State) (c : Ctx) (die : Nat) : List PRec → List Word → State
  | [], _ => s
  | r :: rs, seen =>
    let d := s.ctxDie c.id die
    let e := r.ev.entity
    if !eligibleBase c d r || (e != 0 && seen.contains e) then s.extract c die rs seen
    else
      let room := decide (d.binSize r.ev.handler < (c.handlerFields r.ev.handler).coalesce)
      let s := if room && s.admits c d r then s.setCtxDie (d.enterBin r (s.cycle (die / 4))) else s
      s.extract c die rs (e :: seen)

def State.fillBins (s : State) (c : Ctx) (die : Nat) : State :=
  let s := s.retestBins c.id die
  let s := s.extract c die (s.ctxDie c.id die).pending []
  s.setCtxDie ((s.ctxDie c.id die).settleLevels c.control)

/-! ### Team formation (R306, R307) -/

/-- The range of event identities of a die: base and length. -/
def Ctx.evidRange (c : Ctx) (die : Nat) : Nat × Nat :=
  let n := 2 ^ 32 / max 1 c.dies.length
  (((c.dies.findIdx fun d => d == die) * n), n)

/-- Identities that event lanes hold which a die dispatched. -/
def State.heldEvids (s : State) (ctx die : Nat) : List Nat :=
  (s.teams.flatMap fun t =>
    if t.ctx = ctx ∧ t.handler.isSome then (t.lanes.filter fun l => l.live && l.home == die).map fun l => l.evid.toNat
    else []) ++
  (s.die die).formed.flatMap fun f => if f.ctx = ctx then f.lanes.map fun l => l.evid.toNat else []

/-- The first offset of a range from `i` on, wrapping, whose value is free. -/
def freeEvid (base n : Nat) (held : List Nat) : Nat → Nat → Option Nat
  | 0, _ => none
  | f + 1, i => if held.contains (base + i % n) then freeEvid base n held f (i + 1) else some (i % n)

/-- Gives each record the next value of the range; none where too few are free. -/
def giveEvids (base n : Nat) : List PRec → List Nat → Nat → Option (List FormedLane × Nat)
  | [], _, i => some ([], i)
  | r :: rs, held, i =>
    match freeEvid base n held (held.length + 1) i with
    | none => none
    | some j =>
      if n ≤ held.length then none
      else
        match giveEvids base n rs ((base + j) :: held) (j + 1) with
        | none => none
        | some (ls, k) => some (⟨r.ev, BitVec.ofNat 32 (base + j), r.round.getD 0, r.key⟩ :: ls, k)

/-- Work of the context may start on a package: it has not ended and is not switched out, and the package's boot has not failed
(R427). -/
def State.mayDispatch (s : State) (c : Ctx) (p : Nat) : Bool :=
  c.ended == .running && !(s.ctxPkg c.id p).switchedOut && (s.pkg p).ctl.halted.isNone

/-- Forms one team of a handler's records on a die. -/
def State.formTeam (s : State) (c : Ctx) (die : Nat) (h : BitVec 12) (recs : List PRec) : Option State :=
  match c.handler? h with
  | none => none
  | some e =>
    let d := s.ctxDie c.id die
    let (base, n) := c.evidRange die
    match giveEvids base n recs (s.heldEvids c.id die) d.nextEvid with
    | none => none
    | some (lanes, next) =>
      let p := s.pkg (die / 4)
      let f : Formed :=
        { ctx := c.id, handler := h, entry := e, prio := (recs.map fun r => r.ev.cls.toNat).foldl min 3, lanes := lanes
          order := p.nextAge }
      let s := (s.setCtxDie { d with nextEvid := next }).setPkg { p with nextAge := p.nextAge + 1 }
      let k := s.die die
      some (s.setDie { k with formed := k.formed ++ [f] })

/-- The bin of a handler launches: its records are dispatched as one team and a new bin opens. -/
def State.launchBin (s : State) (ctx die : Nat) (h : BitVec 12) : State :=
  match s.ctx? ctx with
  | none => s
  | some c =>
    if !s.mayDispatch c (die / 4) || (s.die die).fenced || !c.dies.contains die then s
    else
      let s := s.fillBins c die
      let d := s.ctxDie ctx die
      match d.bins.find? fun b => b.handler == h with
      | none => s
      | some b =>
        match s.formTeam c die h b.recs with
        | none => s
        | some s =>
          let d := s.ctxDie ctx die
          s.setCtxDie { d with bins := d.bins.filter fun b => b.handler != h }

/-- BIN_LAUNCH: every eligible record has entered, so that the bin is full or closed. -/
def execBinLaunch (ctx die handler : Nat) (s : State) : Host.Outcome State Fault Refusal :=
  .next (s.launchBin ctx die (BitVec.ofNat 12 handler))

/-- BIN_TIMER_EXPIRY: not before BINTIMER cycles since the first record entered. -/
def execBinTimerExpiry (ctx die handler : Nat) (s : State) : Host.Outcome State Fault Refusal :=
  let h := BitVec.ofNat 12 handler
  .next (match (s.ctxDie ctx die).bins.find? fun b => b.handler == h with
    | none => s
    | some b =>
      let e := ((s.ctx? ctx).bind fun c => c.handler? h).getD {}
      (s.clockTo (die / 4) (b.opened + e.binTimer)).launchBin ctx die h)

/-! ### Stealing (R328) -/

/-- Records of entity 0 that are pending on a die and eligible there and on the die that would take them: a die dispatches
nothing at or above its own H, or of a bin that is frozen on it (R303). -/
def State.stealable (s : State) (c : Ctx) (taker die : Nat) : List PRec :=
  let d := s.ctxDie c.id die
  d.pending.filter fun r => r.ev.entity == 0 && eligibleBase c d r && eligibleBase c (s.ctxDie c.id taker) r

def State.freePosition (s : State) (die : Nat) : Bool :=
  (List.range 128).any fun i => decide (s.coreCount (die * 128 + i) < Config.teamsPerCore)

/-- STEAL: from the die of the package with the most such records, the last ones of one handler. -/
def execSteal (ctx die : Nat) (s : State) : Host.Outcome State Fault Refusal :=
  .next (match s.ctx? ctx with
    | none => s
    | some c =>
      let d := s.ctxDie ctx die
      let own := (d.pending.any fun r => eligibleBase c d r && s.admits c d r) || !d.bins.isEmpty
      if own || !s.freePosition die || !s.mayDispatch c (die / 4) || (s.die die).fenced || !c.dies.contains die then s
      else
        let others := c.dies.filter fun o => o != die && o / 4 == die / 4 && !(s.die o).fenced
        let src := others.foldl (fun (b : Option Nat) o => match b with
          | none => some o
          | some p => if (s.stealable c die p).length < (s.stealable c die o).length then some o else some p) none
        match src with
        | none => s
        | some o =>
          match (s.stealable c die o).reverse with
          | [] => s
          | r :: _ =>
            let n := (c.handlerFields r.ev.handler).coalesce
            let mine := (((s.stealable c die o).reverse.filter fun q => q.ev.handler == r.ev.handler).take n).reverse
            match s.formTeam c die r.ev.handler mine with
            | none => s
            | some s =>
              let x := s.ctxDie ctx o
              let left := x.pending.filter fun q => !(mine.map PRec.key).contains q.key
              s.setCtxDie ({ x with pending := left }.settleLevels c.control))

/-! ### Creating a team (R88, R92, R207, R444) -/

/-- Reads the constant table into k; none where a word has a replayable outcome, at its address. -/
def State.readConstants (s : State) (t : Team) : Nat → Nat → State × Team × Option (Nat × Denied)
  | 0, _ => (s, { t with constLoaded := true }, none)
  | n + 1, i =>
    let va := t.entry.const + 4 * i
    match s.locateGlb t.coreNo t.ctx va { bytes := 4, kind := .read } with
    | (s, .error d) => (s, t, some (va, d))
    | (s, .ok l) =>
      let flits := l.flits s t false 4
      if l.unreached s t false false then (s, t, some (va, .fault codeLinkDown))
      else
        match s.readLoc t false 4 l with
        | (s, bs, bad) =>
          let s := s.flitsArrived flits
          if bad then (s, t, some (va, .fault codePoison))
          else s.readConstants { t with k := t.k.setIfInBounds i (BitVec.ofNat 32 (leNat bs)) } n (i + 1)

/-- The constants of a team at its creation, after the walks that their pages need (R262): its root split waits for
these, and for a page whose outcome is replayable (R444). -/
def State.giveConstants (s : State) (t : Team) : State :=
  match t.splits with
  | [] => s.setTeam t
  | x :: _ =>
    let pages := s.pagesToWalk t x.walked { bytes := 4, kind := .read } ((List.range t.entry.constw).map fun i => t.entry.const + 4 * i)
    if !pages.isEmpty then
      if s.walkRoom t pages.length then
        (s.askWalks (.constants t.key) t.coreNo t.ctx .read pages).setTeam
          (t.setSplit { x with wait := .scoreboard, block := .walks, since := s.tick })
      else s.holdIssue t x
    else
      match s.readConstants t t.entry.constw 0 with
      | (s, t, none) => s.setTeam (t.setSplit { x.clear with wait := .ready, block := .none })
      | (s, t, some (va, .fault code)) => (s.setTeam t).creationFault t code va
      | (s, t, some (va, .replay w)) =>
        s.setTeam (t.setSplit { x.clear with
          wait := .fault, since := s.tick
          block := .page .read { code := codeTranslation, pc := t.entry.pc } [(0, va, w)] })

/-- Puts a team on a core: its id, place, pair and root split; its work begins with an acquire. -/
def State.createTeam (s : State) (core : Nat) (t : Team) : State :=
  let p := core / 512
  let (s, id) := s.freshTeam p
  let age := (s.pkg p).nextAge
  let s := s.setPkg { s.pkg p with nextAge := age + 1 }
  let k := s.core core
  let plane := if t.entry.planes = 1 then k.freePairs.head? else none
  let t : Team := { t with
    id := id, pkg := p, core := core % 512, age := age, plane := plane, constLoaded := false, placedAt := s.cycle p
    splits := [{ mask := maskOf (List.range t.lanes.length), pc := t.entry.pc, check := some t.entry.pc, fresh := true }] }
  let s := match plane with
    | some i => s.setCore (k.setPair i { owner := some t.key })
    | none => s
  let c := s.ctxPkg t.ctx p
  let s := s.setCtxPkg { c with budget := c.budget - (t.entry.energy * t.lanes.length : Nat) }
  let s := s.acquireL1 core t.ctx ⟨[], true⟩
  ({ s with teams := s.teams ++ [t] }).giveConstants t

/-- The lane of an event that a die dispatches (R16, Table 2.1). -/
def eventLane (die : Nat) (f : FormedLane) : Lane :=
  { v := (List.finRange 4).foldl (fun v i => v.setIfInBounds i.val (f.ev.payload[i])) (Vector.replicate 256 0)
    evid := f.evid, time := f.ev.time, entity := f.ev.entity, tie := f.ev.tie, round := f.round, event := some f.ev
    order := f.order, home := die }

/-- The lane of a kernel (R326). -/
def kernelLane (evid : Nat) : Lane := { evid := BitVec.ofNat 32 evid }

/-! ### What is placed next (R327, R339) -/

/-- The core of a die with the fewest resident teams where an event team of an entry fits. -/
def State.emptiestCore (s : State) (die : Nat) (e : Entry) (lanes : Nat) : Option Nat :=
  (List.range 128).foldl (fun (b : Option Nat) i =>
    let c := die * 128 + i
    if !s.fitsCore c e lanes 0 then b
    else match b with
      | none => some c
      | some o => if (s.coreTeams c).length < (s.coreTeams o).length then some c else some o) none

def State.eventCore (s : State) (die : Nat) (f : Formed) : Option Nat := s.emptiestCore die f.entry f.lanes.length

/-- How many teams of an entry fit on a core beside the resident ones, one position kept (R162, R207, R315). -/
def State.gangRoom (s : State) (c : Nat) (r : LaunchRec) : Nat :=
  let share := if r.pool = 0 then 0 else poolShare r.pool
  let byRoom := (s.coreFree c - share) / max 1 (r.entry.granules r.entry.lanes)
  let byPairs := if r.entry.planes = 1 then s.pairsLeft c else Config.teamsPerCore
  min (Config.teamsPerCore - 1 - s.coreCount c) (min byRoom byPairs)

/-- The cores of the ranks of a gang on a cluster (R221, R224). -/
def State.gangCores (s : State) (cluster : Nat) (r : LaunchRec) : Option (List Nat) :=
  let cores := (List.range 4).map (cluster * 4 + ·)
  let positions := (s.gangs.filter fun g => g.cluster == cluster && g.placed).length
  let poolOk := r.pool == 0 || (s.clusterPool cluster == 0 && cores.all fun c => decide (poolShare r.pool ≤ s.coreFree c))
  if 32 ≤ positions ∨ !poolOk then none
  else
    match cores.find? fun c => decide (r.teams ≤ s.gangRoom c r) with
    | some c => some (List.replicate r.teams c)
    | none =>
      let all := cores.flatMap fun c => List.replicate (s.gangRoom c r) c
      if r.teams ≤ all.length then some (all.take r.teams) else none

/-- The lowest-numbered cluster of a die where a gang fits. -/
def State.gangPlace (s : State) (die : Nat) (r : LaunchRec) : Option (Nat × List Nat) :=
  (List.range 32).findSome? fun i => (s.gangCores (die * 32 + i) r).map fun cs => (die * 32 + i, cs)

/-! #### Unplaced gangs of a launch -/

def rangesLength (l : List (Nat × Nat)) : Nat := (l.map fun r => r.2 - r.1).sum

/-- The first `n` indices of ranges, and the rest. -/
def takeRanges : Nat → List (Nat × Nat) → List (Nat × Nat) × List (Nat × Nat)
  | _, [] => ([], [])
  | n, (a, b) :: rs =>
    if b - a ≤ n then
      let (x, y) := takeRanges (n - (b - a)) rs
      ((a, b) :: x, y)
    else if n = 0 then ([], (a, b) :: rs) else ([(a, a + n)], (a + n, b) :: rs)

def insertRange (r : Nat × Nat) : List (Nat × Nat) → List (Nat × Nat)
  | [] => [r]
  | q :: qs => if r.1 < q.1 then r :: q :: qs else q :: insertRange r qs

/-- The unplaced gangs of a die in increasing order: ranges of indices, first and one past the last. -/
def Launch.part (l : Launch) (die : Nat) : List (Nat × Nat) :=
  (l.parts.filter fun p => p.1 == die && decide (p.2.1 < p.2.2)).foldl (fun r p => insertRange p.2 r) []

/-- Sets them; a die keeps an empty range once it has placed its part. -/
def Launch.setPart (l : Launch) (die : Nat) (rs : List (Nat × Nat)) : Launch :=
  { l with parts := (l.parts.filter fun p => p.1 != die) ++ (die, 0, 0) :: rs.map fun r => (die, r.1, r.2) }

/-- A die that has placed its part takes the upper half of the largest one (R326). -/
def Launch.refill (l : Launch) (die : Nat) : Launch :=
  if !(l.part die).isEmpty || !l.parts.any fun p => p.1 == die then l
  else
    let most := l.parts.foldl (fun m p => if rangesLength (l.part m) < rangesLength (l.part p.1) then p.1 else m) die
    let rs := l.part most
    let n := rangesLength rs
    if n = 0 then l
    else
      let (keep, give) := takeRanges (n - (n + 1) / 2) rs
      (l.setPart most keep).setPart die give

/-- Work of a die. -/
inductive Work where
  | event (f : Formed) (core : Nat)
  | gang (l : Launch) (index : Nat) (cluster : Nat) (cores : List Nat)
  deriving DecidableEq, Repr

def Work.ctx : Work → Nat
  | .event f _ => f.ctx
  | .gang l _ _ _ => l.ctx
/-- Priority class, then event teams before gangs. -/
def Work.rank : Work → Nat
  | .event f _ => f.prio * 2
  | .gang l _ _ _ => l.rec'.prio * 2 + 1
/-- The estimate in nJ (R338). -/
def Work.estimate : Work → Nat
  | .event f _ => f.entry.energy * f.lanes.length
  | .gang l _ _ _ => l.rec'.teams * l.rec'.entry.lanes * l.rec'.entry.energy

/-- A context may place new teams on a package: its saved teams go first (R337). -/
def State.mayPlace (s : State) (ctx p : Nat) : Bool :=
  match s.ctx? ctx with
  | none => false
  | some c => s.mayDispatch c p && !s.teams.any fun t => t.ctx == ctx && t.pkg == p && t.status == .saved

/-- Work of a die that fits, each kind in the order formed. -/
def State.readyWork (s : State) (die : Nat) : List Work :=
  let p := die / 4
  if (s.die die).fenced then []
  else
    let events := (s.die die).formed.filterMap fun f =>
      if s.mayPlace f.ctx p then (s.eventCore die f).map fun c => Work.event f c else none
    let gangs := s.launches.filterMap fun l =>
      let l := l.refill die
      match l.part die with
      | (a, _) :: _ =>
        if l.pkg = p ∧ s.mayPlace l.ctx p then (s.gangPlace die l.rec').map fun (k, cs) => Work.gang l a k cs else none
      | [] => none
    events ++ gangs

/-- The first in order: the lowest rank. -/
def firstWork : List Work → Option Work
  | [] => none
  | w :: ws => match firstWork ws with
    | some v => if v.rank < w.rank then some v else some w
    | none => some w

/-- The budget of its context covers the work's estimate. -/
def State.affordable (s : State) (p : Nat) (w : Work) : Bool := decide ((w.estimate : Int) ≤ (s.ctxPkg w.ctx p).budget)

/-- The next work of a die (R327, R339). -/
def State.nextWork (s : State) (die : Nat) : Option Work :=
  firstWork ((s.readyWork die).filter (s.affordable (die / 4)))

/-! ### Placement -/

/-- Places an event team. -/
def State.placeEvent (s : State) (die : Nat) (f : Formed) (core : Nat) : State :=
  let d := s.die die
  let s := s.setDie { d with formed := d.formed.filter fun g => g.order != f.order }
  s.createTeam core
    { ctx := f.ctx, entry := f.entry, handler := some f.handler, lanes := f.lanes.map (eventLane die), prio := f.prio }

/-- A number that no gang or launch has. -/
def freshNumber (l : List Nat) : Nat := l.foldl max 0 + 1

/-- Places a gang whole: barriers in phase 0, the pool zero, its teams by rank. Triggers of a run that a lost die held
still count (R371). -/
def State.placeGang (s : State) (die : Nat) (l : Launch) (index cluster : Nat) (cores : List Nat) : State :=
  let r := l.rec'
  let s := s.setLaunch (l.setPart die (takeRanges 1 (l.part die)).2)
  let g : Gang :=
    { id := freshNumber (s.gangs.map Gang.id), ctx := l.ctx, launch := l.id, index := index, pkg := l.pkg
      cluster := cluster, expected := r.teams, poolSize := r.pool, log2bar := r.entry.log2bar
      triggers := ((getBy Prod.fst index l.triggers).map Prod.snd).getD 0
      estimate := r.teams * r.entry.lanes * r.entry.energy }
  let s := { s with gangs := s.gangs ++ [g] }
  cores.zipIdx.foldl (fun s (c, rank) =>
    let lanes := (List.range r.entry.lanes).map fun i => kernelLane ((index * r.teams + rank) * r.entry.lanes + i)
    s.createTeam c
      { ctx := l.ctx, entry := r.entry, launch := some l.id, gang := some g.id, rank := rank, lanes := lanes
        prio := r.prio }) s

def State.placeWork (s : State) (die : Nat) : Work → State
  | .event f c => s.placeEvent die f c
  | .gang l i k cs => s.placeGang die l i k cs

/-- EVENT_TEAM_PLACE: the next work of the die is an event team. -/
def execEventTeamPlace (die : Nat) (s : State) : Host.Outcome State Fault Refusal :=
  .next (match s.nextWork die with
    | some (.event f c) => s.placeWork die (.event f c)
    | _ => s)

/-- GANG_PLACE: the next work of the die is a gang. -/
def execGangPlace (die : Nat) (s : State) : Host.Outcome State Fault Refusal :=
  .next (match s.nextWork die with
    | some (.gang l i k cs) => s.placeWork die (.gang l i k cs)
    | _ => s)

/-! ### Launch queues (R323 to R326) -/

/-- A count field: its value, or why it cannot be read. -/
inductive CountRead where
  | val (n : Nat)
  | fault
  | replay (va : Nat)
  deriving DecidableEq, Repr

def State.readCount (s : State) (ctx p : Nat) (f : DWord) : CountRead :=
  if !f.getLsbD 63 then .val (f.extractLsb' 0 32).toNat
  else
    let va := (f.extractLsb' 0 57).toNat
    match (s.walk (p * 4 + (s.pkg p).master) ctx va .read).1 with
    | .ok pa _ _ =>
      if s.fencedAt pa || !s.reachable (p * 512 + 128 * (s.pkg p).master) (homeDie pa) || s.replyPoisoned pa 4 then .fault
      else .val (leNat (s.homeRead pa 4))
    | .replay => .replay va
    | _ => .fault

/-- X, Y and Z. -/
def State.readCounts (s : State) (ctx p : Nat) : List DWord → CountRead ⊕ List Nat
  | [] => .inr []
  | f :: fs =>
    match s.readCount ctx p f with
    | .val n => match s.readCounts ctx p fs with
      | .inr l => .inr (n :: l)
      | .inl e => .inl e
    | e => .inl e

/-- Equal contiguous parts, the remainder to the lowest dies. -/
def splitParts (n : Nat) (dies : List Nat) : List (Nat × Nat × Nat) :=
  let k := n / max 1 dies.length
  let r := n % max 1 dies.length
  dies.zipIdx.map fun (d, i) =>
    let a := i * k + min i r
    (d, a, a + k + if i < r then 1 else 0)

/-- BOUNDS of a launch (R325). -/
def State.launchFault (s : State) (c : Nat) (p : Nat) (addr : Nat) : State :=
  s.recordFault { code := codeBounds, level := 5, ctx := c, flags := 0x08, core := 128 * (s.pkg p).master, pkg := p
                  team := 0xFFFFFFFF, slots := 0, pc := 0, addr := BitVec.ofNat 64 addr }

/-- Dies of a context on a package that are not fenced. -/
def State.liveDies (s : State) (c : Ctx) (p : Nat) : List Nat := c.dies.filter fun d => d / 4 == p && !(s.die d).fenced

/-- Starts a launch whose counts are known. -/
def State.startLaunch (s : State) (c : Ctx) (p : Nat) (r : LaunchRec) (x y z : Nat) : State :=
  let n := x * y * z
  if 2 ^ 32 < n * r.teams * r.entry.lanes then s.launchFault c.id p r.addr
  else
    let l : Launch :=
      { id := freshNumber (s.launches.map Launch.id), ctx := c.id, pkg := p, rec' := r, x := x, y := y, z := z
        parts := splitParts n (s.liveDies c p) }
    ({ s with launches := s.launches ++ [l] }).settleLaunch l.id

/-- The queue that the master serves next in a level: the one after the last, round-robin. -/
def levelOrder (cp : CtxPkg) (level : Nat) : List Nat :=
  let last := ((getBy Prod.fst level cp.served).map Prod.snd).getD 3
  (List.range 4).map fun i => level * 4 + (last + 1 + i) % 4

def queueRecs (cp : CtxPkg) (q : Nat) : List QRec := ((getBy Prod.fst q cp.queues).map Prod.snd).getD []

/-- A queue whose head may be dequeued. -/
def dequeuable (cp : CtxPkg) (q : Nat) : Option QRec :=
  match queueRecs cp q with
  | r :: _ => if r.waits || r.page.isSome then none else some r
  | [] => none

/-- The lowest level with a dequeuable head, over the contexts of a package. -/
def State.nextQueue (s : State) (p : Nat) : Option (Ctx × Nat × QRec) :=
  let ctxs := s.ctxs.filter fun c => c.places.any (fun x => x.1 == p) && s.mayDispatch c p && !(s.liveDies c p).isEmpty
  (List.range 4).findSome? fun level => ctxs.findSome? fun c =>
    let cp := s.ctxPkg c.id p
    (levelOrder cp level).findSome? fun q => (dequeuable cp q).map fun r => (c, q, r)

/-- LAUNCH_DEQUEUE; not while a master is being elected (R369). -/
def execLaunchDequeue (pkg : Nat) (s : State) : Host.Outcome State Fault Refusal :=
  .next (match if (s.pkg pkg).electing then none else s.nextQueue pkg with
    | none => s
    | some (c, q, r) =>
      let cp := s.ctxPkg c.id pkg
      let put (rs : List QRec) : State := s.setCtxPkg { cp with
        queues := putBy Prod.fst (q, rs) cp.queues, served := putBy Prod.fst (q / 4, q % 4) cp.served }
      let tail := (queueRecs cp q).drop 1
      match s.readCounts c.id pkg r.rec'.counts with
      | .inr [x, y, z] => (put tail).startLaunch c pkg r.rec' x y z
      | .inl (.replay va) => put ({ r with page := some va } :: tail)
      | _ => (put tail).launchFault c.id pkg r.rec'.addr)

end Sys2Proof.Machine
end

