-- ==== Sys2Proof/Machine/Launch.lean ====
section
/-! DEFINITION. `launch` and `trig`, opcodes 0xC6 and 0xA4 (17 R323, R324, R329 to R331). -/
namespace Sys2Proof.Machine

/-! ### The launch record (R324, Table 17.1) -/

/-- A count field: direct with zero upper bits, or the address of an aligned word. -/
def countOk (x : Nat) : Bool :=
  if x.testBit 63 then x / 2 ^ 57 % 64 == 0 && x % 4 == 0 else x / 2 ^ 32 == 0

def launchChecks (bs : List Byte) : List (Nat × Bool) :=
  let f := imgField bs
  let range (off n lo hi : Nat) : Nat × Bool := (off, decide (lo ≤ f off n) && decide (f off n ≤ hi))
  [ (0, decide (f 0 8 < 2 ^ 57)), (8, labelOk (f 8 8)), (16, labelOk (f 16 8))
  , (24, decide (f 24 8 < 2 ^ 57) && f 24 8 % 4 == 0), (32, countOk (f 32 8)), (40, countOk (f 40 8))
  , (48, countOk (f 48 8)), range 56 2 0 256, range 58 2 1 256, range 60 2 1 1024, range 62 1 1 16, range 63 1 0 1
  , (64, f 64 4 % 1024 == 0 && decide (f 64 4 ≤ 1048576)), range 68 4 0 2097152
  , (72, f 72 2 == 0 || (decide (128 ≤ f 72 2) && decide (f 72 2 ≤ 65520) && f 72 2 % 16 == 0))
  , range 74 2 0 4096, range 76 1 12 30, range 77 1 0 3, range 78 1 0 7, (79, f 79 1 == 0), range 88 2 0 (f 62 1)
  , (92, f 92 36 == 0) ]

def launchRec (bs : List Byte) (addr : Nat) : LaunchRec :=
  let f := imgField bs
  let word (o : Nat) : Word := BitVec.ofNat 32 (f o 4)
  { entry :=
      { pc := BitVec.ofNat 57 (f 0 8), trap := labelOf (f 8 8), preempt := labelOf (f 16 8), const := f 24 8
        constw := f 56 2, vregs := f 58 2, lanes := f 60 2, energy := f 90 2, splitspill := f 74 2, planes := f 63 1
        log2bar := f 76 1, slice := f 72 2, scratch := f 64 4 }
    counts := [BitVec.ofNat 64 (f 32 8), BitVec.ofNat 64 (f 40 8), BitVec.ofNat 64 (f 48 8)]
    teams := f 62 1, pool := f 68 4, prio := f 77 1, reissue := (f 78 1).testBit 0
    cgate := if (f 78 1).testBit 1 then some (word 80) else none
    wgate := if (f 78 1).testBit 2 then some (word 84) else none
    trign := f 88 2, addr := addr }

/-! ### Enqueueing (R330) -/

/-- The wait gate: on the package, owned by the context, not fired, not attached. -/
def State.waitGateOk (s : State) (ctx p : Nat) (h : Word) : Bool :=
  h.extractLsb' 27 5 == 0 && gateDieOf h / 4 == p &&
    match (s.die (gateDieOf h)).gate? (gateSlotOf h) with
    | some g => g.ctx == ctx && !g.attached
    | none => false

/-- Steps 2 and 3 of R330: j2 of BOUNDS, or the record. -/
def State.checkLaunch (s : State) (ctx p : Nat) (bs : List Byte) (addr : Nat) (q : Word) : Word ⊕ LaunchRec :=
  if 3 < q.toNat then .inl q
  else
    match firstBad (launchChecks bs) with
    | some o => .inl (BitVec.ofNat 32 o)
    | none =>
      let r := launchRec bs addr
      match r.wgate with
      | some h => if s.waitGateOk ctx p h then .inr r else .inl h
      | none => .inr r

def State.attachGate (s : State) (h : Word) : State :=
  let d := s.die (gateDieOf h)
  match d.gate? (gateSlotOf h) with
  | some g => s.setDie { d with gates := setBy Gate.slot { g with attached := true } d.gates }
  | none => s

/-- Places a record in queue PRIORITY × 4 + Q; none when that holds 64 records. -/
def State.enqueueLaunch (s : State) (ctx p : Nat) (r : QRec) (q : Nat) : Option State :=
  let cp := s.ctxPkg ctx p
  let i := r.rec'.prio * 4 + q
  if 64 ≤ (queueRecs cp i).length then none
  else some (s.setCtxPkg { cp with queues := putBy Prod.fst (i, queueRecs cp i ++ [r]) cp.queues })

/-- The address in a uniform register pair (R273). -/
def Ex1.uniformPair (e : Ex1) (o : Operand) : Nat :=
  (pair (readField e.t [] (immPlain 0) e.low o 0) (readField e.t [] (immPlain 0) e.low o 1)).toNat

/-- Step 4 of R330: the release, then the queue; the split waits with the record until both can be. -/
def Ex1.placeLaunch (e : Ex1) (r : QRec) (q : Nat) (s : State) : State :=
  let e := { e with x := { e.x with block := .launching r q, holds := [] } }
  e.releaseUnion [5] s fun s =>
    match s.enqueueLaunch e.t.ctx e.t.pkg r q with
    | some s => s.setTeam (e.advance (e.charged s).t)
    | none => s.stall e.t e.x

/-- `launch`. -/
def execLaunch (x : PlainOp) (s : State) : Host.Outcome State Fault Refusal :=
  issue (.launch x) s fun e s =>
    match e.x.block with
    | .launching r q => e.placeLaunch r q s
    | _ =>
      let a := e.uniformPair x.a
      e.uniformRead a 128 128 s fun e bs s =>
        let q := e.uniform x.b x.imm
        match s.checkLaunch e.t.ctx e.t.pkg bs a q with
        | .inl j2 => e.fault s codeBounds j2 j2.toNat
        | .inr r =>
          e.placeLaunch ⟨r, r.wgate.isSome, none⟩ q.toNat (match r.wgate with | some h => s.attachGate h | none => s)

/-! ### `trig` (R331) -/

/-- Counts a team of a gang as triggered; the gang counts once it has TRIGN triggers. -/
def State.triggerGang (s : State) (t : Team) (trign : Nat) : State :=
  match t.gang.bind s.gang? with
  | none => s
  | some g =>
    if g.triggeredBy.contains t.id then s
    else
      let g := { g with triggers := g.triggers + 1, triggeredBy := g.triggeredBy ++ [t.id] }
      let s := s.setGang g
      if trign ≤ g.triggers then s.countGang g.launch g.index else s

def execTrig (h : Head) (s : State) : Host.Outcome State Fault Refusal :=
  issue (.trig h) s fun e s =>
    let e := e.charged s
    let n := ((e.t.launch.bind s.launch?).map fun l => l.rec'.trign).getD 0
    if n = 0 ∨ e.t.triggered then s.setTeam (e.advance e.t)
    else
      e.releaseUnion [5] s fun s =>
        (s.setTeam (e.advance { e.t with triggered := true })).triggerGang e.t n

end Sys2Proof.Machine
end

