-- ==== Sys2Proof/Machine/SysRegs.lean ====
section
/-! DEFINITION. The system group, opcodes 0xF0 to 0xF4: system registers, budget, clock and the fault queue
(17 R340, R341, R344 to R346). -/
namespace Sys2Proof.Machine

/-! ### `rdsr`, `wrsr` (R344, R345) -/

/-- Table 17.10. -/
def State.sysReg (s : State) (t : Team) (n : Nat) : Word :=
  let g := t.gang.bind s.gang?
  match n with
  | 0 => t.fstat.setWidth 32
  | 1 => BitVec.ofNat 32 t.entry.vregs
  | 2 => BitVec.ofNat 32 t.entry.scratch
  | 3 => BitVec.ofNat 32 t.entry.slice
  | 4 => BitVec.ofNat 32 t.entry.splitspill
  | 5 => BitVec.ofNat 32 t.entry.planes
  | 6 => BitVec.ofNat 32 t.prio
  | 7 => BitVec.ofNat 32 ((g.map Gang.log2bar).getD t.entry.log2bar)
  | 8 => match g with
    | some g => BitVec.ofNat 32 (t.rank % 16 + (g.expected - 1) % 16 * 16)
    | none => 0x80000000
  | _ => 0

/-- Reading and writing FSTAT waits for every earlier instruction of the team (R64): for every result in flight, of whichever
split. DEDUCED (notes/assumptions/39): an instruction of a sibling that still waits (a `join`, a `wait`, a rejected pass, a
stall) is not waited for, since its flags come with the pass that completes it and a `join` could never complete. -/
def Ex1.settled (e : Ex1) : Ex1 := { e with t := e.t.landAll }

def execRdsr (x : PlainOp) (s : State) : Host.Outcome State Fault Refusal :=
  issue (.rdsr x) s fun e s =>
    let n := (e.uniform x.a x.imm).toNat
    let e := if n = 0 then e.settled else e
    e.writeValue x.d (s.sysReg e.t n) s

def execWrsr (x : PlainOp) (s : State) : Host.Outcome State Fault Refusal :=
  issue (.wrsr x) s fun e s =>
    let n := e.uniform x.a x.imm
    if n = 0 then
      let e := (e.charged s).settled
      s.setTeam (e.advance { e.t with fstat := (e.uniform x.b x.imm).setWidth 4 })
    else e.fault s (if n.toNat ≤ 8 then codePermission else codeBounds) n n.toNat

/-! ### `rdbudget` (R340) -/

/-- Teams of the context that the budget defers on a die (R339): of a launch those of every gang of the die's part. -/
def State.deferredTeams (s : State) (ctx die : Nat) : Nat :=
  ((s.readyWork die).map fun w =>
    if w.ctx = ctx ∧ !s.affordable (die / 4) w then
      match w with
      | .event _ _ => 1
      | .gang l _ _ _ => l.rec'.teams * rangesLength (l.part die)
    else 0).sum

/-- Cycles of a window of 1 ms. -/
def windowCycles : Nat := 1500000

/-- Table 17.5. -/
def State.budgetValue (s : State) (t : Team) (n : Nat) : Word :=
  let c := s.ctxPkg t.ctx t.pkg
  let b : DWord := BitVec.ofInt 64 c.budget
  match n with
  | 0 => b.extractLsb' 0 32
  | 1 => b.extractLsb' 32 32
  | 2 => BitVec.ofNat 32 c.allowance
  | 3 => BitVec.ofNat 32 (windowCycles - (s.cycle t.pkg - (s.pkg t.pkg).window))
  | 4 => BitVec.ofNat 32 (s.deferredTeams t.ctx t.dieNo)
  | 5 => BitVec.ofNat 32 (min (t.metered / 1000) (2 ^ 32 - 1))
  | _ => 0

def execRdbudget (x : PlainOp) (s : State) : Host.Outcome State Fault Refusal :=
  issue (.rdbudget x) s fun e s => e.writeValue x.d (s.budgetValue e.t (e.uniform x.a x.imm).toNat) s

/-! ### `clock` (R346) -/

/-- The sample that `clock` returns bits of, and the latch. -/
def State.clockValue (s : State) (t : Team) (n : Nat) : Word × Option DWord :=
  let now : DWord := BitVec.ofNat 64 (s.cycle t.pkg)
  match n with
  | 0 => (now.extractLsb' 0 32, some now)
  | 1 => let x := t.clock.getD now; (x.extractLsb' 32 32, some x)
  | 2 => (BitVec.ofNat 32 (min (t.resident + (s.cycle t.pkg - t.placedAt)) (2 ^ 32 - 1)), t.clock)
  | _ => (0, t.clock)

def execClock (x : PlainOp) (s : State) : Host.Outcome State Fault Refusal :=
  issue (.clock x) s fun e s =>
    let (w, latch) := s.clockValue e.t (e.uniform x.a x.imm).toNat
    { e with t := { e.t with clock := latch } }.writeValue x.d w s

/-! ### `fltrd` (R341) -/

/-- The 32 bytes of a record (Tables 16.1, 16.2). -/
def EvRec.bytes (e : EvRec) : List Byte :=
  let ctl := e.handler.toNat + e.cls.toNat * 2 ^ 12 + (if e.short then 2 ^ 14 else 0) + if e.gated then 2 ^ 15 else 0
  leBytes 8 e.time.toNat ++ leBytes 4 e.entity.toNat ++ leBytes 2 ctl ++ leBytes 2 e.tie.toNat ++
    e.payload.toList.flatMap wordBytes

/-- The 64 bytes of a fault record (Table 7.4). -/
def FaultRec.bytes (r : FaultRec) : List Byte :=
  leBytes 1 r.code ++ leBytes 1 r.level ++ leBytes 1 (r.ctx % 64) ++ leBytes 1 r.flags.toNat ++ leBytes 2 r.core ++
    leBytes 2 r.pkg ++ wordBytes r.team ++ wordBytes r.slots ++ leBytes 8 r.pc.toNat ++ leBytes 8 r.addr.toNat ++
    match r.event with
    | some e => e.bytes
    | none => List.replicate 32 0

/-- The number of records held, with the lost flag in bit 31. -/
def Ctx.faultCount (c : Ctx) : Word := BitVec.ofNat 32 (c.faultQ.length + if c.lost then 2 ^ 31 else 0)

/-- `fltrd`. -/
def execFltrd (x : PlainOp) (s : State) : Host.Outcome State Fault Refusal :=
  issue (.fltrd x) s fun e s =>
    let a := e.uniformPair x.a
    match s.ctx? e.t.ctx with
    | none => s
    | some c =>
      if a % 64 ≠ 0 then e.fault s codeMisaligned (BitVec.ofNat 32 a) a
      else
        match c.faultQ with
        | [] => e.writeValue x.d c.faultCount (s.setCtx { c with lost := false })
        | r :: rest =>
          e.uniformWrite a r.bytes s fun e s =>
            match s.ctx? e.t.ctx with
            | none => s
            | some q => e.writeValue x.d c.faultCount (s.setCtx { q with faultQ := rest, lost := false })

end Sys2Proof.Machine
end

