-- ==== Sys2Proof/Machine/Scribe.lean ====
section
/-! DEFINITION. Scribe commands, opcodes 0xB0 to 0xB5, and the steps that start and complete them
(14 R268 to R288). -/
namespace Sys2Proof.Machine

/-! ### Operands and spaces (R273, R274) -/

/-- Source and destination spaces (Table 14.3). -/
def routeSpaces : Nat → Option (Space × Space)
  | 0 => some (.glb, .core)
  | 1 => some (.core, .glb)
  | 2 => some (.glb, .glb)
  | 3 => some (.glb, .die)
  | 4 => some (.die, .glb)
  | 5 => some (.core, .die)
  | 6 => some (.die, .core)
  | 7 => some (.glb, .clu)
  | 8 => some (.clu, .glb)
  | 9 => some (.core, .core)
  | _ => none

/-- A register pair of the operand would run past s63 or k255 (R275). -/
def pairPast : Operand → Bool
  | .s i => i == 63
  | .k i => i == 255
  | _ => false

/-- Word `k` of a uniform group. -/
def Ex1.word' (e : Ex1) (o : Operand) (k : Nat) : Word := readField e.t [] (immPlain 0) e.low o k

/-- The address of a side. -/
def Ex1.sideAddr (e : Ex1) (sp : Space) (o : Operand) : Nat :=
  if sp = .glb then e.uniformPair o else (e.word' o 0).toNat

/-- The offset of the completion word. -/
def Ex1.compl (e : Ex1) (o : Operand) : Option Nat := if o = .zero then none else some (e.word' o 0).toNat

/-! ### Checks at issue (Table 14.5) -/

/-- The first of `n` bytes at `a` that lies outside a space of `size` bytes; of none, the address itself (R180). -/
def outside (a n size : Nat) : Option Nat := if a + max n 1 ≤ size then none else some (max a size)

/-- Bytes of a team's space; none where the side is global. -/
def State.spaceSize (s : State) (t : Team) : Space → Option Nat
  | .core => some t.entry.scratch
  | .clu => some (((s.poolGang t).map Gang.poolSize).getD 0)
  | .die => some (s.ctxDie t.ctx t.dieNo).winSize
  | _ => none

/-- Check 3: the completion word, and an index list where there is one. -/
def misalignedAt (compl list : Option Nat) : Option Nat :=
  match compl with
  | some c => if c % 8 ≠ 0 then some c else listBad
  | none => listBad
where
  listBad : Option Nat := list.bind fun a => if a % 4 ≠ 0 then some a else none

/-- Check 4: core sides, the 8 bytes at C, a swizzled base, cluster and die sides. `sides`: space, base, bytes. -/
def State.boundsAt (s : State) (t : Team) (sides : List (Space × Nat × Nat)) (compl : Option Nat) (swz : Option Nat) :
    Option Nat :=
  let side (want : Space → Bool) : Option Nat :=
    sides.findSome? fun (sp, a, n) => if want sp then (s.spaceSize t sp).bind fun size => outside a n size else none
  (side fun sp => sp == .core).or <| (compl.bind fun c => outside c 8 t.entry.scratch).or <|
    (swz.bind fun a => if a % 128 ≠ 0 then some a else none).or <| side fun sp => sp != .core

/-- Checks 3 and 4, the limits of R268, then the fork: it waits for accesses that other splits of the team issued before
(R269). -/
def Ex1.issueCommand (e : Ex1) (s : State) (list : Option Nat) (sides : List (Space × Nat × Nat)) (swz : Option Nat)
    (c : ScribeCmd) : State :=
  match misalignedAt c.compl list with
  | some a => e.fault s codeMisaligned (BitVec.ofNat 32 a) a
  | none =>
    match s.boundsAt e.t sides c.compl swz with
    | some a => e.fault s codeBounds (BitVec.ofNat 32 a) a
    | none =>
      let d := s.die e.t.dieNo
      if 256 ≤ d.cmds.length ∨ 16 ≤ (d.cmds.filter fun m => m.team == e.t.key).length ∨ e.t.openBefore e.x false ∨
          e.t.fenced e.x then
        s.stall e.t e.x
      else
        let s := s.releaseL1 e.t.coreNo e.t.ctx ⟨[], true⟩
        let d := s.die e.t.dieNo
        let s := s.setDie { d with cmds := d.cmds ++ [{ c with id := d.nextCmd }], nextCmd := d.nextCmd + 1 }
        s.setTeam (e.advance (e.charged s).t.landAll)

/-- The parts of a command that every form has. -/
def Ex1.command (e : Ex1) (kind : ScribeKind) (x : ScribeOp) (src dst : Space × Nat) : ScribeCmd :=
  { id := 0, kind := kind, team := e.t.key, teamId := e.t.id, core := e.t.coreNo, ctx := e.t.ctx, gang := e.t.gang
    pc := e.pc, add := x.add, strict := x.strict, value := x.imm.toNat, compl := e.compl x.c, src := src, dst := dst }

/-- A side as the command keeps it. -/
def State.placeSide (s : State) (t : Team) (sp : Space) (a : Nat) : Space × Nat :=
  (sp, if sp = .die then (s.ctxDie t.ctx t.dieNo).winBase + a else a)

/-- The length word: ROUTE and LEN after check 1. -/
def Ex1.lengthWord (e : Ex1) (x : ScribeOp) (s : State) (k : Space × Space → Nat → State) : State :=
  let w := e.word' x.b 0
  match routeSpaces (w.toNat / 2 ^ 28) with
  | none => e.fault s codeScribeFault w
  | some r =>
    if w.toNat / 2 ^ 24 % 16 ≠ 0 then e.fault s codeScribeFault w else k r (w.toNat % 2 ^ 24)

/-- `cpy` (R276). -/
def execCpy (x : ScribeOp) (s : State) : Host.Outcome State Fault Refusal :=
  issue (.cpy x) s fun e s =>
    e.lengthWord x s fun (f, g) len =>
      if (g == .glb && pairPast x.d) || (f == .glb && pairPast x.a) then e.fault s codeIllegalOperand (e.word' x.b 0)
      else
        let a := e.sideAddr f x.a
        let d := e.sideAddr g x.d
        e.issueCommand s none ((if len = 0 then [] else [(f, a, len)]) ++ [(g, d, len)]) none
          { e.command .cpy x (s.placeSide e.t f a) (s.placeSide e.t g d) with len := len }

/-- `fill` (R277). -/
def execFill (x : ScribeOp) (s : State) : Host.Outcome State Fault Refusal :=
  issue (.fill x) s fun e s =>
    e.lengthWord x s fun (_, g) len =>
      if g == .glb && pairPast x.d then e.fault s codeIllegalOperand (e.word' x.b 0)
      else
        let d := e.sideAddr g x.d
        e.issueCommand s none [(g, d, len)] none
          { e.command .fill x (.core, 0) (s.placeSide e.t g d) with len := len, pattern := e.uniform x.a x.imm }

/-- The descriptor fields that commands read, after check 2. -/
structure RowShape where
  rb : Nat
  rows : Nat
  rstride : Nat
  swz : Bool
  deriving DecidableEq, Repr

def rowShape (d : BitVec 256) : Option RowShape :=
  let fmt := fieldAt d 0 1
  let cols := fieldAt d 12 4
  let rb := if fmt = 1 then cols * 2 else if fmt = 5 then cols * 3 / 4 else cols
  let swz := fieldAt d 5 1
  if fieldAt d 31 1 = 0 ∧ [1, 3, 4, 5, 6].contains fmt ∧ swz ≤ 1 ∧ (fmt = 5 → cols % 4 = 0) ∧ (swz = 1 → rb % 128 = 0) then
    some ⟨rb, fieldAt d 8 4, fieldAt d 16 4, swz == 1⟩
  else none

def Ex1.shape (e : Ex1) (x : ScribeOp) (s : State) (k : RowShape → State) : State :=
  match rowShape (s.tensor e.t (tdIndex x.b)) with
  | some r => k r
  | none => e.fault s codeFormat (BitVec.ofNat 32 (tdIndex x.b))

def ScribeCmd.withShape (c : ScribeCmd) (r : RowShape) : ScribeCmd :=
  { c with rb := r.rb, rows := r.rows, rstride := r.rstride, swz := r.swz }

/-- `tile` (R278). -/
def execTile (x : ScribeOp) (s : State) : Host.Outcome State Fault Refusal :=
  issue (.tile x) s fun e s =>
    e.shape x s fun r =>
      let d := e.sideAddr .core x.d
      e.issueCommand s none [(.core, d, r.rows * r.rb)] (if r.swz then some d else none)
        ((e.command .tile x (.glb, e.sideAddr .glb x.a) (.core, d)).withShape r)

/-- `gather` and `scatter`: the table block in `blk`, the core side in `co`. -/
def Ex1.tableCommand (e : Ex1) (kind : ScribeKind) (x : ScribeOp) (blk co : Operand) (s : State) : State :=
  e.shape x s fun r =>
    let pairAt (k : Nat) : Nat := (pair (e.word' blk k) (e.word' blk (k + 1))).toNat
    let list := pairAt 0
    let count := (e.word' blk 2).toNat
    let table := pairAt 3
    let c := e.sideAddr .core co
    let (src, dst) : (Space × Nat) × (Space × Nat) :=
      if kind = .gather then ((.glb, table), (.core, c)) else ((.core, c), (.glb, table))
    e.issueCommand s (some list) (if count = 0 then [] else [(.core, c, count * r.rb)]) (if r.swz then some c else none)
      { (e.command kind x src dst).withShape r with list := list, count := count, table := table }

def execGather (x : ScribeOp) (s : State) : Host.Outcome State Fault Refusal :=
  issue (.gather x) s fun e s => e.tableCommand .gather x x.a x.d s
def execScatter (x : ScribeOp) (s : State) : Host.Outcome State Fault Refusal :=
  issue (.scatter x) s fun e s => e.tableCommand .scatter x x.d x.a s

/-! ### The far side (R269, R285) -/

/-- Why an element's access is not performed. -/
inductive FarStop where
  | failed (code addr : Nat)
  | replay (va : Nat)
  /-- The far side lies on a fenced die. -/
  | fenced
  /-- A page has to be walked first (R262). -/
  | walk (va : Nat) (kind : AccKind)
  /-- What leaves for another package has to wait (R376, R378); the packages where a counter ran out within it (R382). -/
  | busy (pkgs : Option (List Pkg))
  deriving DecidableEq, Repr

/-- Translates the pieces of a global range, after the walks that they need; what lies on another package crosses to it. An
access whose page the driver has marked fatal fails (R259). -/
def State.farPieces (s : State) (c : ScribeCmd) (kind : AccKind) :
    List (Nat × Nat) → State × Except FarStop (List (Nat × Nat))
  | [] => (s, .ok [])
  | (va, n) :: ps =>
    if va + n > 2 ^ 57 ∨ c.fatal.contains (va / 4096) then (s, .error (.failed codeTranslation va))
    else
      let known := (c.pages.find? fun p => p.1 == va / 4096 && p.2.1 == kind).map fun p => p.2.2 + va % 4096
      if known.isNone && (tlbHit (s.tlbs c.core) c.ctx va kind).isNone && !c.walked.contains (va / 4096) then
        (s, .error (.walk va kind))
      else
      let found : State × WalkResult := match known with
        | some pa => (s, .ok pa 0 0)
        | none => s.translate c.core c.ctx va kind
      match found with
      | (s, .ok pa _ _) =>
        if s.fencedAt pa then (s, .error .fenced)
        else if !s.reachable c.core (homeDie pa) then (s, .error (.failed codeLinkDown va))
        else
          match s.cross c.core (homeDie pa) (kind == .write) n with
          | .full => (s, .error (.busy none))
          | .cut s' => (s, .error (.busy (some s'.pkgs)))
          | .lost => (s, .error (.failed codeLinkDown va))
          | .ok s =>
            match s.farPieces c kind ps with
            | (s, .ok l) => (s, .ok ((pa, n) :: l))
            | (s, .error e) => (s, .error e)
      | (s, .replay) => (s, .error (.replay va))
      | (s, .fatal) => (s, .error (.failed codeTranslation va))
      | (s, .permission) => (s, .error (.failed codePermission va))
      | (s, .lost) => (s, .error .fenced)
      | (s, .down) => (s, .error (.failed codeLinkDown va))

/-- The physical bytes of `n` global bytes at `a`. -/
def State.farBytes (s : State) (c : ScribeCmd) (kind : AccKind) (a n : Nat) : State × Except FarStop (List Nat) :=
  match s.farPieces c kind (linePieces (n / 128 + 2) (a % 2 ^ 64) n) with
  | (s, .ok l) => (s, .ok (l.flatMap fun (pa, k) => (List.range k).map (pa + ·)))
  | (s, .error e) => (s, .error e)

/-- A read at the homes: each byte with whether it arrives poisoned; its lines are in their slices. -/
def State.homeBytes (s : State) (pas : List Nat) : State × List (Byte × Bool) :=
  let l := pas.map fun pa => (garbled s.wrongReplies (.home (pa / 32)) (pa % 32) (s.mem.get pa), s.replyPoisoned pa 1)
  let s := ((pas.map (· / 128)).eraseDups).foldl (fun s l => s.touchL2 (128 * l) 1) s
  (s.flitsArrived (((pas.map (· / 32)).eraseDups).map .home), l)

/-- The memory of a side that no translation guards. -/
def State.sideRam (s : State) (c : ScribeCmd) : Space → Ram
  | .core => match c.orphan with
    | some (r, _) => r
    | none => ((s.team? c.team).map Team.scratch).getD {}
  | .clu => ((c.gang.bind s.gang?).map Gang.pool).getD {}
  | .die => (s.die (c.core / 128)).ram
  | _ => {}

/-- Writes to the scratchpad of a team that is gone are discarded (R271). -/
def State.setSideRam (s : State) (c : ScribeCmd) (sp : Space) (r : Ram) : State :=
  match sp with
  | .core => match s.team? c.team with
    | some t => s.setTeam { t with scratch := r }
    | none => s
  | .clu => match c.gang.bind s.gang? with
    | some g => s.setGang { g with pool := r }
    | none => s
  | .die => s.setDie { s.die (c.core / 128) with ram := r }
  | _ => s

/-- The poison of units of `g` bytes after a write of bytes: those covered whole are clear, those that a flagged byte feeds
are poisoned (R179, R285). -/
def poisonAfter (g : Nat) (p : List Nat) (l : List (Nat × Byte × Bool)) : List Nat :=
  (l.filter fun x => x.2.2).foldl (fun q x => insertNat (x.1 / g) q)
    (if p.isEmpty then [] else clearUnits g p (l.map Prod.fst))

def Ram.put (r : Ram) (l : List (Nat × Byte × Bool)) : Ram :=
  { r with cells := l.foldl (fun m x => m.set x.1 x.2.1) r.cells, poison := poisonAfter r.grain r.poison l }

/-- Bytes at consecutive addresses of one line, together: the first address and the bytes. -/
def byteRuns : List (Nat × Byte × Bool) → List (Nat × List Byte)
  | [] => []
  | (a, b, _) :: l =>
    match byteRuns l with
    | (c, bs) :: rs => if c = a + 1 ∧ c % 128 ≠ 0 then (a, b :: bs) :: rs else (a, [b]) :: (c, bs) :: rs
    | [] => [(a, [b])]

/-- Bytes written at their homes; the issuing core's lines of them go home first and are dropped (R270). A sector whose
write flit is bad stays poisoned (R255). -/
def State.putHome (s : State) (core : Nat) (l : List (Nat × Byte × Bool)) : State :=
  let kept := s.badWrites
  let s := (byteRuns l).foldl (fun s r => (s.l1Flush core r.1 r.2.length).homeWrite r.1 r.2) s
  let clean := l.filter fun x => !kept.contains (.home (x.1 / 32))
  (s.clearPoison (clean.map Prod.fst)).poisonHome ((l.filter fun x => x.2.2).map fun x => x.1 / 32)

/-! ### Elements (R276 to R282) -/

/-- One element: its number, its source addresses (none: the bytes are given), its destination addresses. -/
structure Xfer where
  no : Nat
  src : Option (Space × List Nat)
  bytes : List Byte := []
  dst : Space × List Nat
  deriving DecidableEq, Repr

def from' (a n : Nat) : List Nat := (List.range n).map (a + ·)

/-- The core addresses of row r (R281). -/
def ScribeCmd.rowAt (c : ScribeCmd) (base r : Nat) : List Nat :=
  (List.range c.rb).map fun o =>
    base + r * c.rb + if c.swz then ((o / 16) ^^^ (r % 8)) * 16 + o % 16 else o

/-- The elements of `cpy`, `fill` and `tile`; one write of no bytes where nothing is copied (R282). -/
def ScribeCmd.xfers (c : ScribeCmd) : List Xfer :=
  let blocks (f : Nat → Nat → Xfer) : List Xfer :=
    (List.range ((c.len + 127) / 128)).map fun k => f k (min 128 (c.len - 128 * k))
  let none' : List Xfer := [{ no := 0, src := none, dst := (c.dst.1, [c.dst.2]) }]
  match c.kind with
  | .cpy =>
    if c.len = 0 then none'
    else blocks fun k n =>
      { no := k, src := some (c.src.1, from' (c.src.2 + 128 * k) n), dst := (c.dst.1, from' (c.dst.2 + 128 * k) n) }
  | .fill =>
    if c.len = 0 then none'
    else blocks fun k n =>
      { no := k, src := none
        bytes := (from' (c.dst.2 + 128 * k) n).map fun a => c.pattern.extractLsb' (8 * (a % 4)) 8
        dst := (c.dst.1, from' (c.dst.2 + 128 * k) n) }
  | .tile =>
    if c.rows * c.rb = 0 then none'
    else (List.range c.rows).map fun r =>
      { no := r, src := some (.glb, from' (c.src.2 + r * c.rstride) c.rb), dst := (.core, c.rowAt c.dst.2 r) }
  | _ => []

/-- A failed element: number, code, address. -/
abbrev ElemFail := Nat × Nat × Nat

/-- Bytes pass the swizzle unit, whose soft errors no check finds (R265). -/
def State.swizzled (s : State) (c : ScribeCmd) (l : List (Byte × Bool)) : State × List (Byte × Bool) :=
  let d := s.die (c.core / 128)
  match c.swz, d.wrongSwizzles with
  | true, w :: ws => (s.setDie { d with wrongSwizzles := ws }, l.mapIdx fun i b => ((w[i]?).getD b.1, b.2))
  | _, _ => (s, l)

/-- Reads the source of an element: bytes with their poison, and the failure where a far side's byte is poisoned: global
memory and the die scratchpad are far sides, the unified store is not (R285). -/
def State.sourceXfer (s : State) (c : ScribeCmd) (x : Xfer) :
    State × Except FarStop (List (Byte × Bool) × Option ElemFail) :=
  let out (far : Bool) (l : List (Nat × Byte × Bool)) : Except FarStop (List (Byte × Bool) × Option ElemFail) :=
    .ok (l.map Prod.snd, (l.find? fun b => far && b.2.2).map fun b => (x.no, codePoison, b.1))
  match x.src with
  | none => (s, .ok (x.bytes.map fun b => (b, false), none))
  | some (.glb, as) =>
    match s.farBytes c .read ((as.head?).getD 0) as.length with
    | (s, .ok pas) =>
      let (s, bs) := s.homeBytes pas
      (s, out true (as.zip bs))
    | (s, .error e) => (s, .error e)
  | some (.die, as) =>
    let d := c.core / 128
    let base := (s.ctxDie c.ctx d).winBase
    let l := as.map fun a => (a - base, garbled s.wrongReplies (.dieRam d (a / 32)) (a % 32) ((s.die d).ram.cells.get a), s.dieReplyPoisoned d a 1)
    (s.flitsArrived (((as.map (· / 32)).eraseDups).map (.dieRam d)), out true l)
  | some (sp, as) =>
    let r := s.sideRam c sp
    (s, out false (as.map fun a => (a, r.cells.get a, r.poisoned a 1)))

/-- An element's bytes as they reach the write: those of a swizzled command have passed the swizzle unit. -/
def State.readXfer (s : State) (c : ScribeCmd) (x : Xfer) :
    State × Except FarStop (List (Byte × Bool) × Option ElemFail) :=
  match s.sourceXfer c x with
  | (s, .ok (l, f)) => let (s, l) := s.swizzled c l; (s, .ok (l, f))
  | r => r

/-- Writes an element's bytes; the physical lines written. A write of no bytes is translated and checked. -/
def State.writeXfer (s : State) (c : ScribeCmd) (x : Xfer) (bs : List (Byte × Bool)) :
    State × Except FarStop (List Nat) :=
  match x.dst.1 with
  | .glb =>
    match s.farBytes c .write ((x.dst.2.head?).getD 0) x.dst.2.length with
    | (s, .ok pas) =>
      (s.putHome c.core (pas.zip bs), .ok ((pas.zip bs).map fun p => p.1 / 128).eraseDups)
    | (s, .error e) => (s, .error e)
  | .die =>
    let d := c.core / 128
    let l := x.dst.2.zip bs
    let hit := ((l.map fun b => b.1 / 32).eraseDups).filter fun u => s.badWrites.contains (.dieRam d u)
    let s := (byteRuns l).foldl (fun s r => s.dieWrite d r.1 r.2) s
    let ram := (s.die d).ram
    (s.setDie { s.die d with ram := { ram with poison := hit.foldl (fun q u => insertNat u q) (poisonAfter 32 ram.poison l) } },
      .ok [])
  | sp => (s.setSideRam c sp ((s.sideRam c sp).put (x.dst.2.zip bs)), .ok [])

/-- What performing elements gives. -/
structure XOut where
  fails : List ElemFail := []
  lines : List Nat := []
  deriving DecidableEq, Repr

/-- Every source is read before anything is written (R276). -/
def State.readAll (s : State) (c : ScribeCmd) : List Xfer → State × Except FarStop (List (Xfer × List (Byte × Bool)) × List ElemFail)
  | [] => (s, .ok ([], []))
  | x :: xs =>
    match s.readXfer c x with
    | (s, .error (.failed code a)) =>
      match s.readAll c xs with
      | (s, .ok (l, fs)) => (s, .ok (l, (x.no, code, a) :: fs))
      | r => r
    | (s, .error e) => (s, .error e)
    | (s, .ok (bs, f)) =>
      match s.readAll c xs with
      | (s, .ok (l, fs)) => (s, .ok ((x, bs) :: l, f.toList ++ fs))
      | r => r

def State.writeAll (s : State) (c : ScribeCmd) : List (Xfer × List (Byte × Bool)) → State × Except FarStop XOut
  | [] => (s, .ok {})
  | (x, bs) :: l =>
    match s.writeXfer c x bs with
    | (s, .error (.failed code a)) =>
      match s.writeAll c l with
      | (s, .ok o) => (s, .ok { o with fails := (x.no, code, a) :: o.fails })
      | r => r
    | (s, .error e) => (s, .error e)
    | (s, .ok lines) =>
      match s.writeAll c l with
      | (s, .ok o) => (s, .ok { o with lines := lines ++ o.lines })
      | r => r

def State.runXfers (s : State) (c : ScribeCmd) (l : List Xfer) : State × Except FarStop XOut :=
  match s.readAll c l with
  | (s, .error e) => (s, .error e)
  | (s, .ok (l, fs)) =>
    match s.writeAll c l with
    | (s, .ok o) => (s, .ok { o with fails := fs ++ o.fails })
    | r => r

/-! ### Completion and status (R283 to R285) -/

/-- The record of a failed element or of a `.strict` stop. -/
def ScribeCmd.fault (c : ScribeCmd) (no cause addr : Nat) : FaultRec :=
  { code := codeScribeFault, level := 4, ctx := c.ctx, flags := 8, core := c.core % 512, pkg := c.core / 512
    team := c.teamId, slots := BitVec.ofNat 32 no, pc := c.pc.setWidth 64
    addr := BitVec.ofNat 64 (addr % 2 ^ 57 + cause * 2 ^ 57) }

/-- The command has written a fault record: the team's count rises once. -/
def State.noteCommand (s : State) (c : ScribeCmd) : State :=
  if c.noted then s
  else match s.team? c.team with
    | some t => s.setTeam { t with scribeFaults := min (t.scribeFaults + 1) (2 ^ 32 - 1) }
    | none => s

/-- A word of the issuing team's scratchpad at an offset is changed. -/
def State.coreWord (s : State) (c : ScribeCmd) (off : Nat) (f : Word → Word) : State :=
  let r := s.sideRam c .core
  let w : Word := BitVec.ofNat 32 (leNat (r.cells.read off 4))
  s.setSideRam c .core (r.write off (wordBytes (f w)))

/-- The status word after a report: the first out-of-range element, and FAULT (Table 14.6). -/
def statusWord (range : Option Nat) (fault : Bool) (w : Word) : Word :=
  let w := match range with
    | some e => if w.getLsbD 24 then w else (w &&& 0xFF000000) ||| BitVec.ofNat 32 (e % 2 ^ 24) ||| 0x1000000
    | none => w
  if fault then w ||| 0x2000000 else w

/-- Reports the failures, range and stop of the elements just performed. `stop`: element and index. -/
def State.report (s : State) (c : ScribeCmd) (fails : List ElemFail) (range : Option Nat) (stop : Option (Nat × Nat)) :
    State × ScribeCmd :=
  let low := fails.foldl (fun (b : Option ElemFail) f => match b with
    | none => some f
    | some g => if f.1 < g.1 then some f else some g) none
  let (s, c) := match low with
    | some (no, code, a) =>
      if c.recorded then (s, c)
      else ((s.recordFault (c.fault no code a)).noteCommand c, { c with recorded := true, noted := true })
    | none => (s, c)
  let (s, c) := match stop with
    | some (no, index) =>
      ((s.recordFault (c.fault no codeBounds index)).noteCommand c, { c with noted := true, stopped := true })
    | none => (s, c)
  match c.compl with
  | some o =>
    if range.isSome || !fails.isEmpty || stop.isSome then
      (s.coreWord c (o + 4) (statusWord range (!fails.isEmpty || stop.isSome)), c)
    else (s, c)
  | none => (s, c)

/-- The lines written leave the issuing core's L1, then the completion word is written or added to (R270, R283). -/
def State.completeWord (s : State) (c : ScribeCmd) (f : Word → Word) : State :=
  let s := c.lines.foldl (fun s l => s.l1Flush c.core (l * 128) 1) s
  match c.compl with
  | some o => s.coreWord c o f
  | none => s

/-! ### The steps of a scribe -/

def State.setCmd (s : State) (die : Nat) (c : ScribeCmd) : State :=
  let d := s.die die
  s.setDie { d with cmds := setBy ScribeCmd.id c d.cmds }
def State.delCmd (s : State) (die id : Nat) : State :=
  let d := s.die die
  s.setDie { d with cmds := delBy ScribeCmd.id id d.cmds }

/-- SCRIBE_COMMAND_START: a free scribe takes the oldest command that waits (R268). -/
def execScribeCommandStart (die : Nat) (s : State) : Host.Outcome State Fault Refusal :=
  let d := s.die die
  .next (match (List.range 8).find? fun i => !d.cmds.any fun c => c.scribe == some i,
      d.cmds.find? fun c => c.scribe.isNone with
    | some i, some c => if d.fenced then s else s.setCmd die { c with scribe := some i }
    | _, _ => s)

/-- A command that runs and waits for no page and no walk. -/
def State.running? (s : State) (die id : Nat) : Option ScribeCmd :=
  ((s.die die).cmds.find? fun c => c.id == id).bind fun c =>
    if c.scribe.isSome && c.page.isNone && !(s.die die).walks.any fun b => b.owner == .command id then some c else none

/-- An engine asks for the walk of a page; where the queue is full it tries again. -/
def State.engineWalk (s : State) (o : WalkOwner) (core ctx va : Nat) (kind : AccKind) : State :=
  if s.engineWalkRoom (core / 128) 1 then s.askWalks o core ctx kind [va / 4096] else s

/-- What stops a command: it waits for a page, for a walk or for a port, or it ends without its completion write (R285). -/
def State.haltCmd (s : State) (die : Nat) (c : ScribeCmd) : FarStop → State
  | .replay va => s.setCmd die { c with page := some va, walked := [] }
  | .walk va kind => s.engineWalk (.command c.id) c.core c.ctx va kind
  | .busy l => { s with pkgs := l.getD s.pkgs }
  | _ => (s.delCmd die c.id).settleYield c.team

/-- Elements of a batch of `gather` or `scatter` (R279, R280), up to a `.strict` stop. -/
structure Batch where
  xfers : List Xfer := []
  fails : List ElemFail := []
  range : Option Nat := none
  stop : Option (Nat × Nat) := none
  deriving DecidableEq, Repr

/-- The transfer of element e with index x. -/
def ScribeCmd.row (c : ScribeCmd) (e x : Nat) : List Xfer :=
  let table (a : Nat) : List Nat := from' (a + x * c.rstride) c.rb
  if c.kind = .gather then
    if x < c.rows then [{ no := e, src := some (.glb, table c.src.2), dst := (.core, c.rowAt c.dst.2 e) }]
    else [{ no := e, src := none, bytes := List.replicate c.rb 0, dst := (.core, c.rowAt c.dst.2 e) }]
  else if x < c.rows then [{ no := e, src := some (.core, c.rowAt c.src.2 e), dst := (.glb, table c.dst.2) }]
  else []

/-- Reads the indices of elements e to e + n - 1. -/
def State.readBatch (s : State) (c : ScribeCmd) : Nat → Nat → State × Except FarStop Batch
  | 0, _ => (s, .ok {})
  | n + 1, e =>
    let a := c.list + 4 * e
    match s.farBytes c .read a 4 with
    | (s, .error (.failed code va)) =>
      match s.readBatch c n (e + 1) with
      | (s, .ok b) => (s, .ok { b with fails := (e, code, va) :: b.fails })
      | r => r
    | (s, .error x) => (s, .error x)
    | (s, .ok pas) =>
      let (s, bs) := s.homeBytes pas
      if bs.any Prod.snd then
        match s.readBatch c n (e + 1) with
        | (s, .ok b) => (s, .ok { b with fails := (e, codePoison, a) :: b.fails })
        | r => r
      else
        let x := leNat (bs.map Prod.fst)
        let out := decide (c.rows ≤ x)
        if out && c.strict then (s, .ok { xfers := c.row e x, range := some e, stop := some (e, x) })
        else
          match s.readBatch c n (e + 1) with
          | (s, .ok b) =>
            (s, .ok { b with xfers := c.row e x ++ b.xfers, range := if out then some e else b.range })
          | r => r

/-- One batch of eight elements. -/
def State.runBatch (s : State) (die : Nat) (c : ScribeCmd) : State :=
  let n := min 8 (c.count - c.next)
  match s.readBatch c n c.next with
  | (_, .error e) => s.haltCmd die c e
  | (s1, .ok b) =>
    match s1.runXfers c b.xfers with
    | (_, .error e) => s.haltCmd die c e
    | (s, .ok o) =>
      let (s, c) := s.report { c with lines := (c.lines ++ o.lines).eraseDups } (b.fails ++ o.fails) b.range b.stop
      let upto := if b.stop.isSome then c.count else c.next + n
      let s := if c.add then s.completeWord c (· + BitVec.ofNat 32 (c.value * (upto - c.counted))) else s
      s.setCmd die { c with next := upto, counted := upto, fatal := [], walked := [] }

/-- SCRIBE_BATCH_COMPLETE. -/
def execScribeBatchComplete (die cmd : Nat) (s : State) : Host.Outcome State Fault Refusal :=
  .next (match s.running? die cmd with
    | none => s
    | some c =>
      if (c.kind = .gather ∨ c.kind = .scatter) ∧ c.next < c.count ∧ !(s.die die).fenced then s.runBatch die c else s)

/-- The end of a command whose elements are performed: the completion word, then its scribe is free. -/
def State.endCmd (s : State) (die : Nat) (c : ScribeCmd) : State :=
  let byBatch := c.add && (c.kind == .gather || c.kind == .scatter)
  let s := if byBatch then s
    else s.completeWord c fun w => if c.add then w + BitVec.ofNat 32 c.value else BitVec.ofNat 32 c.value
  (s.delCmd die c.id).settleYield c.team

/-- SCRIBE_COMMAND_COMPLETE: `cpy`, `fill` and `tile` perform their elements; `gather` and `scatter` have performed
every batch. -/
def execScribeCommandComplete (die cmd : Nat) (s : State) : Host.Outcome State Fault Refusal :=
  .next (match s.running? die cmd with
    | none => s
    | some c =>
      if (s.die die).fenced then s
      else if c.kind = .gather ∨ c.kind = .scatter then if c.next < c.count then s else s.endCmd die c
      else
        match s.runXfers c c.xfers with
        | (_, .error e) => s.haltCmd die c e
        | (s, .ok o) =>
          let (s, c) := s.report { c with lines := o.lines.eraseDups } o.fails none none
          s.endCmd die c)

/-! ### `scq` (R286) -/

def State.teamCmds (s : State) (t : Team) : Nat := ((s.die t.dieNo).cmds.filter fun c => c.team == t.key).length

/-- Table 14.7. -/
def State.scribeValue (s : State) (t : Team) (n : Nat) : Word :=
  let d := s.die t.dieNo
  match n with
  | 0 => BitVec.ofNat 32 (s.teamCmds t)
  | 1 => BitVec.ofNat 32 (min (16 - s.teamCmds t) (256 - d.cmds.length))
  | 2 => BitVec.ofNat 32 (((d.cmds.filterMap ScribeCmd.scribe).map fun i => 2 ^ i).sum)
  | 3 => BitVec.ofNat 32 t.scribeFaults
  | _ => 0

def execScq (x : PlainOp) (s : State) : Host.Outcome State Fault Refusal :=
  issue (.scq x) s fun e s => e.writeValue x.d (s.scribeValue e.t (e.uniform x.a x.imm).toNat) s

end Sys2Proof.Machine
end

