-- ==== Sys2Proof/Machine/Remote.lean ====
section
/-! DEFINITION. Remote memory instructions, `bflush` and `bstat`, opcodes 0xE0 to 0xE5 and 0xE7 (21 R398 to R407). -/
namespace Sys2Proof.Machine

/-! ### Elements of `rst` and `rred` (R390, R400, R405) -/

/-- The element of one access: the aligned unit, its byte enables and its data. -/
def Ex1.memElement (e : Ex1) (kind : ElemKind) (x : MemOp) (slot va pa : Nat) (bs : List Byte) : Element :=
  let unit := if x.width = .b64 then 8 else 4
  let off := pa % unit
  { e.element kind slot with
    addr := pa - off, va := va, w64 := x.width == .b64
    be := BitVec.ofNat 8 ((2 ^ x.width.bytes - 1) * 2 ^ off)
    data := BitVec.ofNat 64 (leNat bs * 2 ^ (8 * off)) }

/-- One element enters its slot; the core's own bytes of it go home first (R405). -/
def elementLane (x : MemOp) (mk : Nat → Nat → Nat → Element) (accs : List Acc) (s : State) (t : Team)
    (slot : Nat) : LaneStep :=
  match accs.find? fun a => a.slot == slot with
  | none => .done s t
  | some a =>
    let pa := a.physical
    let s := s.l1Flush t.coreNo pa x.width.bytes
    match s.enterFor t (homeDie pa) (mk slot a.addr pa) with
    | some (s, t) => .done s t
    | none => .stalled 0

/-- `rst` and `rred`: the checks of every lane, the release, then one element after another. An element for a fenced die is
made too, and fails there (R368, R396). -/
def execElements (i : Instr) (x : MemOp) (mk : Ex1 → Pops → Nat → Nat → Nat → Element) (s : State) :
    Host.Outcome State Fault Refusal :=
  issue i s fun e s =>
    e.memChecked x true { bytes := x.width.bytes, kind := .write, aligned := true, element := true } s (unit := 1)
      fun e accs s =>
        withKeptPops e.slots i x.ops e s fun e pops s =>
          let go (e : Ex1) (s : State) : State :=
            e.laneByLane false (elementLane x (mk e pops) accs) (accs.map Acc.slot) s
          if x.order = .sync ∧ !e.begun then e.release x.scope.toNat (accWords s e.t x.width.bytes accs) s go else go e s

def execRst (x : MemOp) (s : State) : Host.Outcome State Fault Refusal :=
  execElements (.rst x) x (fun e pops slot va pa =>
    e.memElement .store x slot va pa (dataBytes e.t x pops.c slot x.c)) s

def execRred (op : AOp) (ty : AType) (x : MemOp) (s : State) : Host.Outcome State Fault Refusal :=
  execElements (.rred op ty x) x (fun e pops slot va pa =>
    { e.memElement .reduction x slot va pa (dataBytes e.t x pops.c slot x.c) with op := op, ty := ty }) s

/-! ### Requests: `ratom`, `rld`, `rcas` (R401 to R405) -/

/-- An element of the team to one of these dies that entered earlier is not acknowledged: the request waits for it (R405). -/
def State.elementsTo (s : State) (t : Team) (before : Nat) (dies : List Nat) : Bool :=
  (s.outstanding t.key t.dieNo).any fun o => dies.contains o.2 && o.1.byLane && decide (o.1.issued < before)

/-- The frame of a request: what is homed on the team's own package is performed at once, the rest leaves (R399). `data`:
the operands B and C of a slot as the home uses them. -/
def execRequest (i : Instr) (x : MemOp) (indexed : Bool) (kind : AccKind) (rel acq : Bool) (req : ReqKind)
    (data : Pops → Team → Nat → Nat × Nat) (one : List Acc → Pops → State → Team → Acc → AccOut) (s : State) :
    Host.Outcome State Fault Refusal :=
  issue i s fun e s =>
    e.memChecked x indexed { bytes := x.width.bytes, kind := kind, aligned := true } s fun e accs s =>
      if s.elementsTo e.t e.x.issuedAt (accs.map fun a => homeDie a.physical) then s.stall e.t e.x
      else
        e.memRun accs x.scope.toNat rel acq false indexed (fun p =>
          { i := i, x := x, use := { home := true }, long := true, look := headShadow x.head, one := one accs p
            remote := some (req, data p) }) s

/-- The accesses that share a request with one: those of its address, in slot order, whatever their mask word (R401,
R402). The request is performed at the lowest of them. -/
def groupOf (accs : List Acc) (a : Acc) : List Acc := accs.filter fun b => b.addr == a.addr

/-- The combined operand of the first lanes of a group; none of no lane. `exch` takes the last. -/
def prefixOp (op : AOp) (ty : AType) (w : Nat) : List Nat → Option Nat
  | [] => none
  | c :: cs => some (cs.foldl (atomNew op ty w) c)

/-- The word after the lanes whose operands these are. -/
def afterOps (op : AOp) (ty : AType) (w old : Nat) (l : List Nat) : Nat :=
  match prefixOp op ty w l with
  | some v => atomNew op ty w old v
  | none => old

/-- A group of a `ratom`: each lane's word, and the word that the home keeps. -/
def ratomGroup (op : AOp) (ty : AType) (w : Nat) (l : List (Nat × Nat)) (old : Nat) : List (Nat × Nat) × Option Nat × Bool :=
  (l.map fun p => (p.1, afterOps op ty w old ((l.filter fun q => decide (q.1 < p.1)).map Prod.snd)),
    some (afterOps op ty w old (l.map Prod.snd)), false)

/-- A group of an `rcas`: slot, compare and new word of each lane. -/
def rcasGroup : List (Nat × Nat × Nat) → Nat → List (Nat × Nat) × Option Nat × Bool
  | [], old => ([], some old, false)
  | (i, b, c) :: l, old =>
    let (outs, new, failed) := rcasGroup l (if old = b then c else old)
    ((i, old) :: outs, new, failed || old != b)

/-- What the home does for the lanes of one address: each lane's word, the new word, whether a lane failed. -/
def ReqKind.group (k : ReqKind) (w : Nat) (l : List (Nat × Nat × Nat)) (old : Nat) : List (Nat × Nat) × Option Nat × Bool :=
  match k with
  | .read _ => (l.map fun p => (p.1, old), none, false)
  | .atom op ty => ratomGroup op ty w (l.map fun p => (p.1, p.2.2)) old
  | .cas => rcasGroup l old

/-- One request at its home in the team's own package: at the lowest lane of its group the word is read, and the group is
performed. -/
def requestOne (x : MemOp) (k : ReqKind) (data : Pops → Team → Nat → Nat × Nat) (accs : List Acc) (p : Pops) (s : State)
    (t : Team) (a : Acc) : AccOut :=
  let g := groupOf accs a
  if (g.head?).map Acc.slot ≠ some a.slot then { s := s, t := t }
  else
    let w := x.width.bytes
    match s.homeReadLoc t w a.loc with
    | (s, _, true) => { s := s, t := t, outs := g.map fun b => (b.slot, none) }
    | (s, bs, false) =>
      let (outs, new, failed) := k.group w (g.map fun b => (b.slot, data p t b.slot)) (leNat bs)
      let (s, t) := match new with
        | some v => s.homeWriteLoc t (leBytes w v) a.loc
        | none => (s, t)
      { s := s, t := t, outs := outs.map fun (i, v) => (i, some (loadWords (leBytes w v))), failed := failed }

/-- Operands B and C of a slot as words of the access. -/
def requestData (x : MemOp) (p : Pops) (t : Team) (slot : Nat) : Nat × Nat :=
  (opWord t x p.b slot x.b, opWord t x p.c slot x.c)

def execRatom (op : AOp) (ty : AType) (x : MemOp) (s : State) : Host.Outcome State Fault Refusal :=
  let data (p : Pops) (t : Team) (slot : Nat) : Nat × Nat := (0, opWord t x p.c slot x.c)
  execRequest (.ratom op ty x) x true .write (x.order == .ar) (x.order != .weak) (.atom op ty) data
    (requestOne x (.atom op ty) data) s

def execRld (x : MemOp) (s : State) : Host.Outcome State Fault Refusal :=
  execRequest (.rld x) x true .read false (x.order == .sync) (.read (x.ro && x.order == .weak)) (fun _ _ _ => (0, 0))
    (fun _ _ => loadOne x true) s

def execRcas (x : MemOp) (s : State) : Host.Outcome State Fault Refusal :=
  execRequest (.rcas x) x false .write (x.order == .ar) (x.order != .weak) .cas (requestData x)
    (requestOne x .cas (requestData x)) s

/-! ### `bflush`, `bstat` (R406, R407) -/

def execBflush (h : Head) (s : State) : Host.Outcome State Fault Refusal :=
  issue (.bflush h) s fun e s => (s.pushAll e.t).setTeam (e.advance (e.charged s).t)

/-- `bflush.wait`: reason 10 until every element that the team entered before it has been acknowledged. -/
def execBflushWait (h : Head) (s : State) : Host.Outcome State Fault Refusal :=
  issue (.bflushWait h) s fun e s =>
    let s := if e.x.accepted = 0 then s.pushAll e.t else s
    if (s.outstanding e.t.key e.t.dieNo).any fun o => o.1.byLane && decide (o.1.entered < e.x.issuedAt) then
      s.stall e.t { e.x with accepted := 1 }
    else s.setTeam (e.advance (e.charged s).t)

/-- Table 21.5. -/
def State.blotterValue (s : State) (t : Team) (n : Nat) : Word :=
  let d := s.die t.dieNo
  let c := s.ctx? t.ctx
  let lost : DWord := (c.map Ctx.routeOverflow).getD 0
  match n with
  | 0 => BitVec.ofNat 32 (min (s.outstanding t.key t.dieNo).length (2 ^ 32 - 1))
  | 1 => BitVec.ofNat 32 d.blotters.length
  | 2 => BitVec.ofNat 32 t.elemFaults
  | 3 => BitVec.ofNat 32 ((c.map Ctx.ageNs).getD 0)
  | 4 => lost.extractLsb' 0 32
  | 5 => lost.extractLsb' 32 32
  | 6 => BitVec.ofNat 32 (d.routes.filter fun r => r.team == t.key).length
  | _ => 0

def execBstat (x : PlainOp) (s : State) : Host.Outcome State Fault Refusal :=
  issue (.bstat x) s fun e s => e.writeValue x.d (s.blotterValue e.t (e.uniform x.a x.imm).toNat) s

end Sys2Proof.Machine
end

