-- ==== Sys2Proof/Machine/Route.lean ====
section
/-! DEFINITION. The route engine: `route`, opcode 0xE6, and the completion of its commands (21 R408 to R412). -/
namespace Sys2Proof.Machine

/-! ### What a lane asks for (R409) -/

def routeLane (t : Team) (a : Operand) (slot : Nat) : RouteLane :=
  let w (k : Nat) : Word := t.regRead slot a k
  { slot := slot, row := (w 0).toNat, first := ((w 1).extractLsb' 0 8).toNat
    second := if (w 1).getLsbD 16 then some ((w 1).extractLsb' 8 8).toNat else none, weight := w 2, token := w 3 }

def RouteLane.experts (l : RouteLane) : List Nat := l.first :: l.second.toList

def Ctx.expert? (c : Ctx) (e : Nat) : Option RouteExpert :=
  (getBy RouteEntry.index e c.routes).map fun r =>
    let f := imgField r.image
    ⟨f 0 8, f 8 8, f 16 8, f 24 2, f 26 2, f 28 2⟩

/-! ### Checks (R410) -/

/-- Outcome of translating one byte. -/
inductive ByteAt where
  | ok (pa : Nat)
  | fault (code : Nat)
  | replay
  deriving DecidableEq, Repr

def State.byteAt (s : State) (t : Team) (kind : AccKind) (va : Nat) : State × ByteAt :=
  match s.locateGlb t.coreNo t.ctx va { bytes := 1, kind := kind } with
  | (s, .ok (.glb ((_, pa, _) :: _))) => (s, .ok pa)
  | (s, .error (.fault code)) => (s, .fault code)
  | (s, .error (.replay _)) => (s, .replay)
  | (s, _) => (s, .fault codeTranslation)

/-- The addresses that check 2 translates for a lane. -/
def routeAddrs (c : Ctx) (l : RouteLane) : List (AccKind × Nat) :=
  (.read, l.row) :: l.experts.flatMap fun e => match c.expert? e with
    | some x => [(.write, x.buf), (.write, x.tags), (.write, x.count)]
    | none => []

/-- The order in which outcomes decide, as for one access (R178). -/
def ByteAt.rank : ByteAt → Nat
  | .ok _ => 4
  | .fault code => (Denied.fault code).rank
  | .replay => (Denied.replay 0).rank

/-- Of the addresses of a list that are not accessible the first with the outcome that decides. -/
def State.firstDenied (s : State) (t : Team) : List (AccKind × Nat) → State × Option (Nat × ByteAt)
  | [] => (s, none)
  | (k, va) :: l =>
    let (s, b) := s.byteAt t k va
    let (s, r) := s.firstDenied t l
    (s, match b, r with
      | .ok _, r => r
      | b, none => some (va, b)
      | b, some (a, c) => some (if c.rank < b.rank then (a, c) else (va, b)))

/-- Check 2 over all lanes: lane, address and outcome where one is not accessible. -/
def State.routeDenied (s : State) (t : Team) (c : Ctx) : List RouteLane → State × List (Nat × Nat × ByteAt)
  | [] => (s, [])
  | l :: ls =>
    let (s, d) := s.firstDenied t (routeAddrs c l)
    let (s, r) := s.routeDenied t c ls
    (s, match d with | some (va, b) => (l.slot, va, b) :: r | none => r)

/-- The pages of the addresses that check 2 translated: virtual page, access, physical address (R411). -/
def State.routePages (s : State) (t : Team) (l : List (AccKind × Nat)) : List (Nat × AccKind × Nat) :=
  (l.filterMap fun (k, va) => match (s.byteAt t k va).2 with
    | .ok pa => some (va / 4096, k, pa / 4096 * 4096)
    | _ => none).eraseDups

/-- The physical address that translated pages give a byte that is written. -/
def pageAddr (pages : List (Nat × AccKind × Nat)) (va : Nat) : Nat :=
  ((pages.find? fun p => p.1 == va / 4096 && p.2.1 == .write).map fun p => p.2.2 + va % 4096).getD 0

/-- Check 3: the expert is not homed on DPKG. -/
def wrongHome (pages : List (Nat × AccKind × Nat)) (c : Ctx) (e : Nat) : Bool :=
  match c.expert? e with
  | none => false
  | some x => [x.buf, x.tags, x.count].any fun va => homeDie (pageAddr pages va) / 4 != x.dpkg

/-- The first lane and expert that fail a test. -/
def routeBad (ls : List RouteLane) (bad : Nat → Bool) : Option (Nat × Nat) :=
  ls.findSome? fun l => (l.experts.find? bad).map fun e => (l.slot, e)

/-- The checks in their order, then `k`. -/
def Ex1.routeChecked (e : Ex1) (x : PlainOp) (s : State)
    (k : Ctx → List RouteLane → List (Nat × AccKind × Nat) → Option Nat → State → State) : State :=
  match s.ctx? e.t.ctx with
  | none => s
  | some c =>
    let ls := e.slots.map (routeLane e.t x.a)
    match routeBad ls fun i => (c.expert? i).isNone with
    | some (slot, i) => s.raise e.t e.x (e.cause codeBounds (BitVec.ofNat 32 i) slot e.mask i)
    | none =>
      let ask (kind : AccKind) : List Nat := (ls.flatMap (routeAddrs c)).filterMap fun q => if q.1 = kind then some q.2 else none
      e.withWalks { bytes := 1, kind := .read } (ask .read) s fun s =>
      e.withWalks { bytes := 1, kind := .write } (ask .write) s fun s =>
      let (s, denied) := s.routeDenied e.t c ls
      let faults := denied.filterMap fun (slot, va, b) => match b with | .fault code => some (slot, va, code) | _ => none
      match faults, denied with
      | (slot, va, code) :: r, _ =>
        s.raise e.t e.x (e.cause code (BitVec.ofNat 32 va) slot (maskOf (slot :: r.map Prod.fst)) va)
      | [], _ :: _ =>
        s.setTeam (e.t.setSplit { e.x with
          wait := .fault, since := s.tick, again := true
          block := .page .write (e.cause codeTranslation 0 0 0) (denied.map fun (i, a, _) => (i, a, a))
          holds := denied.flatMap fun (_, a, _) => vaKeys a 1 })
      | [], [] =>
        let pages := s.routePages e.t (ls.flatMap (routeAddrs c))
        match routeBad ls (wrongHome pages c) with
        | some (_, i) => e.fault s codeBounds (BitVec.ofNat 32 i) i
        | none =>
          match if x.c = .zero then none else some (e.uniform x.c x.imm).toNat with
          | none => k c ls pages none s
          | some o =>
            if e.t.entry.scratch < o + 4 then e.fault s codeBounds (BitVec.ofNat 32 o) o
            else if o % 4 ≠ 0 then e.fault s codeMisaligned (BitVec.ofNat 32 o) o
            else k c ls pages (some o) s

/-! ### Allocation (R410) -/

/-- The step of one expert for the lanes that name it: its count word, read and written at its home as one step. What cannot
be reached places nothing (notes/assumptions/41); none where what leaves for another package has to wait. -/
def State.allocExpert (s : State) (r : RouteCmd) (a : RouteAlloc) (e : Nat) (x : RouteExpert) (mine : List RouteLane) :
    State × Option RouteAlloc :=
  let pa := pageAddr r.pages x.count
  match s.cross r.core (homeDie pa) true 4 with
  | .full => (s, none)
  | .cut s => (s, none)
  | .lost => (s, some a)
  | .ok s =>
    let s := s.l1Flush r.core pa 4
    let old := leNat (s.replyRead pa 4)
    let g := min mine.length (x.cap - min old x.cap)
    let s := (s.touchL2 pa 4).homeWrite pa (leBytes 4 (old + g))
    let new := (mine.take g).zipIdx.map fun (l, i) =>
      { lane := l.slot, row := l.row, expert := e, choice := a.choice, buf := x.buf, tags := x.tags, count := x.count
        rowb := x.rowb, dpkg := x.dpkg, index := old + i, token := l.token, weight := l.weight : RouteToken }
    (s, some { a with placed := a.placed ++ new, left := a.left.filter fun l => !(new.map RouteToken.lane).contains l.slot })

/-- Lanes that name an expert under the choice that is being made. -/
def RouteAlloc.naming (a : RouteAlloc) (e : Nat) : List RouteLane :=
  a.left.filter fun l => (if a.choice = 0 then some l.first else l.second) == some e

/-- The next expert that has a step: its choice and number. Experts in increasing order, first choices before second ones. -/
def RouteAlloc.due (a : RouteAlloc) : Option RouteAlloc :=
  let from' (a : RouteAlloc) : Option RouteAlloc :=
    ((List.range 256).find? fun e => decide (a.next ≤ e) && !(a.naming e).isEmpty).map fun e => { a with next := e }
  (from' a).or (if a.choice = 0 then from' { a with choice := 1, next := 0 } else none)

/-- The result word of a lane. -/
def routeResult (a : RouteAlloc) (slot : Nat) : Word :=
  match a.placed.find? fun p => p.lane == slot with
  | some p => BitVec.ofNat 32 (p.expert * 2 ^ 16 + p.index)
  | none => 0xFFFFFFFF

/-! #### The send list and its packets (R411, R414) -/

/-- Tokens in the order sent: destination package, lane slot. -/
def insertToken (a : RouteToken) : List RouteToken → List RouteToken
  | [] => [a]
  | b :: l => if a.dpkg < b.dpkg ∨ (a.dpkg = b.dpkg ∧ a.lane < b.lane) then a :: b :: l else b :: insertToken a l

/-- A token joins the open packet: one destination package, one expert, the next slot, at most eight tokens. -/
def RoutePacket.takes (p : RoutePacket) (t : RouteToken) : Bool :=
  decide (p.tokens.length < 8) && p.expert == t.expert && p.tokens.all (fun u => u.dpkg == t.dpkg) &&
    t.index == p.first + p.tokens.length

/-- The packets of a send list, the last of `done` being open. -/
def routePackets (done : List RoutePacket) : List RouteToken → List RoutePacket
  | [] => done
  | t :: ts =>
    let fresh : RoutePacket := ⟨t.expert, t.index, [t]⟩
    match done.getLast? with
    | some p =>
      routePackets (if p.takes t then done.dropLast ++ [{ p with tokens := p.tokens ++ [t] }] else done ++ [fresh]) ts
    | none => routePackets [fresh] ts

def State.setRoute (s : State) (die : Nat) (r : RouteCmd) : State :=
  let d := s.die die
  s.setDie { d with routes := setBy RouteCmd.id r d.routes }

/-- The split waits while its command allocates. -/
def Ex1.routing (e : Ex1) (id : Nat) (s : State) : State :=
  s.setTeam (e.t.setSplit { e.x with wait := .scoreboard, block := .routing id, since := s.tick, again := true })

/-- One step of a command's allocation: the count word of one expert, so that steps of other commands can fall between any
two (R410); after the last one the results are written and the command is the engine's. `c`: the context whose entries the
command read when it passed its checks. -/
def Ex1.routeStep (e : Ex1) (x : PlainOp) (r : RouteCmd) (a : RouteAlloc) (s : State) : State :=
  match a.due with
  | some a =>
    match a.experts.find? fun p => p.1 == a.next with
    | none => e.routing r.id (s.setRoute e.t.dieNo { r with alloc := some { a with next := a.next + 1 } })
    | some (_, f) =>
      match s.allocExpert r a a.next f (a.naming a.next) with
      | (s, none) => e.routing r.id s
      | (s, some a) => e.routing r.id (s.setRoute e.t.dieNo { r with alloc := some { a with next := a.next + 1 } })
  | none =>
    let s := match s.ctx? r.ctx with
      | some c => s.setCtx { c with routeOverflow := c.routeOverflow + BitVec.ofNat 64 a.left.length }
      | none => s
    let s := s.setRoute e.t.dieNo { r with alloc := none, packets := routePackets [] (a.placed.foldl (fun l t => insertToken t l) []) }
    let t := (e.charged s).t.landAll.applyWrites (e.slots.flatMap fun i => destWrites x.d i [routeResult a i])
    s.setTeam (e.advance t)

/-- `route`: the checks, then the fork of its command, whose allocation begins (R410). -/
def execRoute (x : PlainOp) (s : State) : Host.Outcome State Fault Refusal :=
  issue (.route x) s fun e s =>
    match e.x.block with
    | .routing id =>
      match (s.die e.t.dieNo).routes.find? fun r => r.id == id with
      | some r => match r.alloc with
        | some a => e.routeStep x r a s
        | none => s.setTeam (e.advance e.t)
      | none => s.setTeam (e.advance e.t)
    | _ =>
    e.routeChecked x s fun c ls pages compl s =>
      if 64 ≤ (s.die e.t.dieNo).routes.length ∨ e.t.openBefore e.x false ∨ e.t.fenced e.x then s.stall e.t e.x
      else
        let s := s.releaseL1 e.t.coreNo e.t.ctx ⟨[], true⟩
        let d := s.die e.t.dieNo
        let experts := ((ls.flatMap RouteLane.experts).eraseDups).filterMap fun i => (c.expert? i).map fun f => (i, f)
        let a : RouteAlloc := { left := ls, experts := experts }
        let r : RouteCmd :=
          { id := d.nextRoute, team := e.t.key, teamId := e.t.id, core := e.t.coreNo, ctx := c.id, pc := e.pc
            gate := if x.b = .zero then none else some (e.uniform x.b x.imm), compl := compl, value := x.imm.toNat
            alloc := some a, pages := pages }
        let s := s.setDie { d with routes := d.routes ++ [r], nextRoute := d.nextRoute + 1 }
        ({ e with x := { e.x with holds := [] } }).routeStep x r a s

/-! ### The engine (R411, R412) -/

/-- The header of a packet: source package, expert, first slot, count, and the ids of the tokens. -/
def RoutePacket.header (p : RoutePacket) (core : Nat) : List Nat :=
  [core / 512, p.expert, p.first, p.tokens.length] ++ p.tokens.map fun t => t.token.toNat

/-- The 16-byte tag. -/
def RouteToken.tag (r : RouteToken) (core : Nat) : List Byte :=
  wordBytes r.token ++ leBytes 2 (core / 512) ++ leBytes 1 r.choice ++ leBytes 1 (core / 128 % 4) ++ wordBytes r.weight ++
    leBytes 4 0

/-- The command as the scribe functions see it: its core, context and the pages that the driver marked fatal. -/
def RouteCmd.asCmd (r : RouteCmd) : ScribeCmd :=
  { id := r.id, kind := .cpy, team := r.team, teamId := r.teamId, core := r.core, ctx := r.ctx, gang := none, pc := r.pc
    add := true, strict := false, value := r.value, compl := r.compl, src := (.glb, 0), dst := (.glb, 0), fatal := r.fatal
    walked := r.walked, pages := r.pages
    orphan := r.orphan.map fun n => ({}, n) }

/-- The record of a row or tag that failed (Table 21.3). -/
def RouteCmd.fault (r : RouteCmd) (t : RouteToken) (code va home : Nat) : FaultRec :=
  { code := if code = codeLinkDown then codeLinkDown else codeRemoteElement, level := 4, ctx := r.ctx, flags := 8
    core := r.core % 512, pkg := r.core / 512, team := r.teamId
    slots := BitVec.ofNat 32 (t.lane + home % 4 * 2 ^ 10 + home / 4 * 2 ^ 12 + code * 2 ^ 24)
    pc := r.pc.setWidth 64, addr := BitVec.ofNat 64 (va % 2 ^ 57) }

/-- The outcome of one write of the engine: performed, failed with its record, or a stop before it. -/
inductive RouteWrite where
  | done (s : State)
  | failed (s : State)
  | stop (e : FarStop)

/-- Writes `n` bytes that `src` gives at a virtual address; of none, the access alone (R180). -/
def State.routeWrite (s : State) (r : RouteCmd) (t : RouteToken) (va : Nat) (src : State → State × Except FarStop (List (Byte × Bool)))
    (n : Nat) : RouteWrite :=
  let c := r.asCmd
  let home := homeDie (match s.walk r.core r.ctx va .write with | { result := .ok pa _ _, .. } => pa | _ => 0)
  let fail (code a : Nat) : RouteWrite := .failed (s.recordFault (r.fault t code a home))
  match src s with
  | (_, .error (.failed code a)) => fail code a
  | (_, .error .fenced) => fail codeDieLost t.row
  | (_, .error e) => .stop e
  | (s1, .ok bs) =>
    match if n = 0 then s1.farPieces c .write [(va, 0)] else s1.farPieces c .write (linePieces (n / 128 + 2) va n) with
    | (_, .error (.failed code a)) => fail code a
    | (_, .error .fenced) => fail codeDieLost va
    | (_, .error e) => .stop e
    | (s2, .ok l) => .done (s2.putHome r.core ((l.flatMap fun (pa, k) => from' pa k).zip bs))

/-- The row of a token as the engine reads it; poison goes along (R285). -/
def State.routeRow (r : RouteCmd) (t : RouteToken) (s : State) : State × Except FarStop (List (Byte × Bool)) :=
  match s.farBytes r.asCmd .read t.row t.rowb with
  | (s, .ok pas) => let (s, bs) := s.homeBytes pas; (s, .ok bs)
  | (s, .error e) => (s, .error e)

/-- The rows and tags of a packet, token by token, at the slots from its header's first on; or what stops the command. -/
def State.routeTokens (r : RouteCmd) : Nat → List RouteToken → State → State × Option FarStop
  | _, [], s => (s, none)
  | slot, t :: ts, s =>
    let tag (s : State) : State × Option FarStop :=
      match s.routeWrite r t (t.tags + slot * 16) (fun s => (s, .ok ((t.tag r.core).map fun b => (b, false)))) 16 with
      | .done s | .failed s => State.routeTokens r (slot + 1) ts s
      | .stop e => (s, some e)
    match s.routeWrite r t (t.buf + slot * t.rowb) (State.routeRow r t) t.rowb with
    | .done s | .failed s => tag s
    | .stop e => (s, some e)

/-- The writes of zero length to the count words of a package's experts, which the destination acknowledges after every
earlier packet of the command to it has been performed (R180, R411). -/
def State.routeEnds (r : RouteCmd) : List RouteToken → State → State × Option FarStop
  | [], s => (s, none)
  | t :: ts, s =>
    match s.routeWrite r t t.count (fun s => (s, .ok [])) 0 with
    | .done s | .failed s => State.routeEnds r ts s
    | .stop e => (s, some e)

/-- One token for each expert of a package. -/
def RouteCmd.ends (r : RouteCmd) (pkg : Nat) : List RouteToken :=
  (r.packets.flatMap RoutePacket.tokens).foldl (fun l t =>
    if t.dpkg = pkg ∧ !l.any (fun u => u.expert == t.expert) then l ++ [t] else l) []

def RoutePacket.pkg (p : RoutePacket) : Nat := ((p.tokens.head?).map RouteToken.dpkg).getD 0

/-- Packet by packet; after the last one to a package its writes of zero length. -/
def State.routeSend (r : RouteCmd) : List RoutePacket → State → State × Option FarStop
  | [], s => (s, none)
  | p :: ps, s =>
    match State.routeTokens r p.first p.tokens s with
    | (s, some e) => (s, some e)
    | (s, none) =>
      match if ps.any fun q => q.pkg == p.pkg then (s, none) else State.routeEnds r (r.ends p.pkg) s with
      | (s, some e) => (s, some e)
      | (s, none) => State.routeSend r ps s

/-- The completion word rises by IMM8, then the gate is signalled; none where the signal's element cannot enter. -/
def State.routeEnd (s : State) (die : Nat) (r : RouteCmd) : Option State :=
  let s := match r.compl with
    | some o => s.coreWord r.asCmd o (· + BitVec.ofNat 32 r.value)
    | none => s
  match r.gate, s.ctx? r.ctx with
  | some h, some c =>
    if signalTravels c die h then
      s.enterElement die r.ctx (gateDieOf h)
        { kind := .signal, addr := h.toNat, scope := 5, team := r.team, core := r.core, lane := 0, pc := r.pc, byLane := false }
    else some (s.gateAct ⟨r.ctx, r.core % 512, r.core / 512, r.teamId, r.pc, 0xFFFFFFFF⟩ h none)
  | _, _ => some s

/-- ROUTE_COMMAND_COMPLETE: rows, tags and the writes of zero length are performed and acknowledged. A page may have to be
walked, or the driver's, first. -/
def execRouteCommandComplete (die cmd : Nat) (s : State) : Host.Outcome State Fault Refusal :=
  let d := s.die die
  .next (match d.routes.find? fun r => r.id == cmd with
    | none => s
    | some r =>
      if d.fenced || r.alloc.isSome || r.page.isSome || d.walks.any fun b => b.owner == .route cmd then s
      else
        match State.routeSend r r.packets s with
        | (_, some (.replay va)) => s.setRoute die { r with page := some va, walked := [] }
        | (_, some (.walk va kind)) => s.engineWalk (.route cmd) r.core r.ctx va kind
        | (_, some (.busy l)) => { s with pkgs := l.getD s.pkgs }
        | (_, some _) => s
        | (s1, none) =>
          match s1.routeEnd die r with
          | none => s
          | some s => let d := s.die die; (s.setDie { d with routes := delBy RouteCmd.id cmd d.routes }).settleYield r.team)

end Sys2Proof.Machine
end

