-- ==== Sys2Proof/Machine/Preempt.lean ====
section
/-! DEFINITION. Safe points, pre-emption, saves, context switches and held teams (07 R154, 17 R332 to R337). -/
namespace Sys2Proof.Machine

/-! ### `yield`, `yield.done` (R332) -/

/-- `yield T`: with a pre-emption pending the team is saved there, once its commands and accesses are complete. -/
def execYield (x : BrOp) (s : State) : Host.Outcome State Fault Refusal :=
  issue (.yield x) s fun e s =>
    let target := branchTarget e.pc x.toff x.tslot
    let t := ((e.charged s).t.setSplit (e.x.jump e.pc target)).endShadow e.x.id
    if e.t.preempt.isNone then s.setTeam t else (s.setTeam t).askSave t

/-- Another split of the team waits at `yield.done` with a different label. -/
def Team.otherLabel (t : Team) (id : Nat) (target : Pc) : Bool :=
  t.splits.any fun y => y.id != id && match y.block with | .yieldDone u => u != target | _ => false

/-- `yield.done T`. -/
def execYieldDone (x : BrOp) (s : State) : Host.Outcome State Fault Refusal :=
  issue (.yieldDone x) s fun e s =>
    let target := branchTarget e.pc x.toff x.tslot
    if e.t.otherLabel e.x.id target then e.fault s codeIllegalTarget (target.setWidth 32) target.toNat
    else
      let t := (e.charged s).t.landAll
      (s.setTeam (t.setSplit { e.x.clear with
        wait := .sync, block := .yieldDone target, trap := none, since := s.tick })).settleYield e.t.key

/-- Places a parked team again on a die as R327 says: a gang on the lowest cluster, an event team on the core of its own
die with the fewest resident teams. -/
def State.resumeOn (s : State) (t : Team) (die : Nat) : Option State :=
  match t.gang with
  | some _ => (List.range 32).findSome? fun i => s.bringBack t (die * 128 + 4 * i)
  | none =>
    if die ≠ t.dieNo then none
    else (s.emptiestCore die t.entry t.lanes.length).bind (s.returnTeam t.key)

/-- YIELD_DONE_RESUME: a parked team, or its gang, is placed again when its context runs with a free place, on the die of
the core named. -/
def execYieldDoneResume (team core : Nat) (s : State) : Host.Outcome State Fault Refusal :=
  .next (match s.team? team with
    | none => s
    | some t =>
      match s.ctx? t.ctx with
      | none => s
      | some c =>
        if t.status = .parked ∧ core / 512 = t.pkg ∧ c.dies.contains (core / 128) ∧ s.mayPlace t.ctx t.pkg ∧
            !(s.die (core / 128)).fenced then
          (s.resumeOn t (core / 128)).getD s
        else s)

/-! ### Requests and deadlines (R333, R335) -/

def Ctx.deadlineOf (c : Option Ctx) : Nat := (c.map Ctx.deadline).getD 75000

/-- A request for one team: saved at once without a pre-emption label, else the deadline timer starts. -/
def State.requestPreempt (s : State) (key : Nat) : State :=
  match s.team? key with
  | none => s
  | some t =>
    if !t.placed || t.preempt.isSome then s
    else if t.entry.preempt.isNone then s.askSave t
    else
      let n := Ctx.deadlineOf (s.ctx? t.ctx)
      s.setTeam { t with preempt := some { due := s.cycle t.pkg + n, cycles := n } }

/-- PREEMPT_REQUEST. -/
def execPreemptRequest (target : PreemptTarget) (s : State) : Host.Outcome State Fault Refusal :=
  .next (match target with
    | .team t => s.requestPreempt t
    | .context c => ((s.teams.filter fun t => t.ctx == c).map Team.key).foldl State.requestPreempt s)

/-- The lanes of all splits. -/
def Team.allLanes (t : Team) : Mask :=
  maskOf ((List.range t.lanes.length).filter fun i => (t.lane i).live)

/-- An issued instruction of the team has to complete before PREEMPT; waits at `wait` and on replayable faults are
abandoned (R334). -/
def Team.midInstruction (t : Team) : Bool :=
  t.splits.any fun x => match x.wait with
    | .value | .fault => false
    | _ => x.inFlight.isSome || x.block == .acks

/-- PREEMPT_DELIVERY: one root split at the label, marked; j2 counts the cycles left. A participant of a regroup leaves it,
also where it has not arrived: DESIGN CHOICE (R204 speaks of one that has arrived; notes/assumptions/18). -/
def State.deliverPreempt (s : State) (t : Team) (p : PreemptState) (label : Pc) : State :=
  let s := (((s.dropXshuf t).dropWalks t).leaveRegroup t).abortPartial t.coreNo
  let t := t.landAll
  let pc : Pc := (t.lowestSplit.map Split.pc).getD 0
  let left := p.due - s.cycle t.pkg
  let j := (((t.j.set 0 (BitVec.ofNat 32 codePreempt)).set 1 (pc.setWidth 32)).set 2 (BitVec.ofNat 32 left)).set 3 0
  s.setTeam { t with
    j := j, timer := none, held := []
    f := t.f.map fun q => { q with queued := [] }
    preempt := some { p with delivered := true }
    splits := [{ mask := t.allLanes, pc := label, check := some pc
                 trap := some ⟨pc, pc.setWidth 32, 0, noEntry, 0, 0, true, []⟩ }] }

/-- PREEMPT_DELIVERY: once no split of the team is in a trap handler. -/
def execPreemptDelivery (team : Nat) (s : State) : Host.Outcome State Fault Refusal :=
  .next (match s.team? team with
    | none => s
    | some t =>
      match t.preempt, t.entry.preempt with
      | some p, some label =>
        if p.delivered || t.inHandler || !t.held.isEmpty || t.midInstruction || s.relocating t || t.status != .resident ||
            !t.constLoaded || (s.die t.dieNo).fenced then s
        else s.deliverPreempt t p label
      | _, _ => s)

/-- DEADLINE: not before its cycle; the team is saved wherever it stands, with the record. -/
def execDeadline (team : Nat) (s : State) : Host.Outcome State Fault Refusal :=
  .next (match s.team? team with
    | none => s
    | some t =>
      match t.preempt with
      | none => s
      | some p =>
        (s.clockTo t.pkg p.due).askSave t)

/-! ### Saves, restores, context switches (R336, R337) -/

/-- FORCED_SAVE. -/
def execForcedSave (team : Nat) (s : State) : Host.Outcome State Fault Refusal :=
  .next (match s.team? team with
    | none => s
    | some t => s.askSave t)

/-- The constants of restored teams that had not been read are read now (R444). -/
def State.resumeConstants (s : State) (keys : List Nat) : State :=
  keys.foldl (fun s k => match s.team? k with
    | some t => if t.placed && !t.constLoaded then s.giveConstants t else s
    | none => s) s

/-- RESTORE: a saved team, or its gang, on a core of its package. -/
def execRestore (team core : Nat) (s : State) : Host.Outcome State Fault Refusal :=
  .next (match s.team? team with
    | none => s
    | some t =>
      match s.ctx? t.ctx with
      | none => s
      | some c =>
        if t.status = .saved ∧ core / 512 = t.pkg ∧ c.dies.contains (core / 128) ∧ s.mayDispatch c t.pkg ∧
            !(s.die (core / 128)).fenced then
          match s.bringBack t core with
          | some s' => s'.resumeConstants ((s.unit t).map Team.key)
          | none => s
        else s)

/-- CONTEXT_SWITCH: out, by a forced save of every team of the context on the package; in again by a second one. -/
def execContextSwitch (ctx pkg : Nat) (s : State) : Host.Outcome State Fault Refusal :=
  let c := s.ctxPkg ctx pkg
  .next (if c.switchedOut then s.setCtxPkg { c with switchedOut := false }
    else
      let here := s.teams.filter fun t => t.ctx == ctx && t.pkg == pkg && t.placed
      let s := (here.map Team.key).foldl (fun s k => match s.team? k with
        | some t => if t.saving then s else s.askSave t
        | none => s) s
      s.setCtxPkg { s.ctxPkg ctx pkg with switchedOut := true })

/-! ### Held teams (R154) -/

/-- DRIVER_RESUME_HELD_TEAM: the team goes on at its recorded resume PC, or is terminated. -/
def execDriverResumeHeldTeam (team : Nat) (terminate : Bool) (s : State) : Host.Outcome State Fault Refusal :=
  .next (match s.team? team with
    | none => s
    | some t =>
      if t.status = .held then
        if terminate then s.endTeam t.landAll else s.setTeam { t with status := .resident }
      else s)

end Sys2Proof.Machine
end

