-- ==== Sys2Proof/Machine/Ordering.lean ====
section
/-! DEFINITION. Ordering instructions, opcodes 0xD0 to 0xD3 (19 R354, R361 to R366). -/
namespace Sys2Proof.Machine

/-! ### `fence` (R361, R363) -/

/-- The L1 action of a fence: unbound dirty bytes go home, then unbound clean ones are dropped. -/
def State.fenceL1 (s : State) (t : Team) (scope : Nat) : State :=
  if scopeActs scope then (s.releaseL1 t.coreNo t.ctx ⟨[], false⟩).acquireL1 t.coreNo t.ctx ⟨[], false⟩ else s

/-- `fence`: later accesses of the team wait until it is complete. -/
def execFence (bl : Bool) (scope : BitVec 5) (h : Head) (s : State) : Host.Outcome State Fault Refusal :=
  issue (.fence bl scope h) s fun e s =>
    let e := e.holding [fenceKey]
    let cov : Coverage := ⟨[], false⟩
    let before := e.x.issuedAt
    if e.t.openBefore e.x bl then s.stall e.t e.x
    else if bl && s.elementsOpen e.t scope.toNat cov before then
      (s.pushFor e.t (s.scopeHasDie e.t scope.toNat) cov before).stall e.t e.x
    else
      let s := s.fenceL1 e.t scope.toNat
      s.setTeam (e.advance (e.charged s).t.landAll)

/-! ### `bind`, `unbind` (R364, R365) -/

/-- Every core writes back and drops the context's lines that a range overlaps. -/
def State.dropRange (s : State) (ctx base len : Nat) : State :=
  s.cores.foldl (fun s c =>
    (s.l1WriteBack c.id ctx (inRange base len)).l1Invalidate false c.id ctx (inRange base len)) s

def Ctx.bind? (c : Ctx) (i : Nat) : Option Binding := getBy Binding.index i c.binds

/-- The range of an entry that is valid. -/
def State.dropBinding (s : State) (ctx : Nat) (b : Option Binding) : State :=
  match b with
  | some b => s.dropRange ctx b.base b.len
  | none => s

/-- The checks of `bind` in their order: code and j2. -/
def bindError (entry base len word : Nat) : Option (Nat × Nat) :=
  if 255 < entry then some (codeBounds, entry)
  else if len = 0 ∨ 2 ^ 32 < base + len then some (codeBounds, len)
  else if word % 4 ≠ 0 then some (codeMisaligned, word)
  else none

def execBind (x : PlainOp) (s : State) : Host.Outcome State Fault Refusal :=
  issue (.bind x) s fun e s =>
    let u (o : Operand) : Nat := (e.uniform o x.imm).toNat
    match bindError (u x.d) (u x.a) (u x.b) (u x.c) with
    | some (code, v) => e.fault s code (BitVec.ofNat 32 v) v
    | none =>
      e.releaseUnion [5] s fun s =>
        match s.ctx? e.t.ctx with
        | none => s
        | some c =>
          let b : Binding := ⟨u x.d, u x.a, u x.b, u x.c⟩
          let s := (s.dropBinding c.id (c.bind? b.index)).dropRange c.id b.base b.len
          e.awaitAcks (s.setCtx { c with binds := putBy Binding.index b c.binds })

def execUnbind (x : PlainOp) (s : State) : Host.Outcome State Fault Refusal :=
  issue (.unbind x) s fun e s =>
    let i := (e.uniform x.d x.imm).toNat
    if 255 < i then e.fault s codeBounds (BitVec.ofNat 32 i) i
    else
      match (s.ctx? e.t.ctx).bind fun c => c.bind? i with
      | none => s.setTeam (e.advance (e.charged s).t)
      | some b =>
        e.releaseUnion [5] s fun s =>
          match s.ctx? e.t.ctx with
          | none => s
          | some c =>
            let s := s.dropBinding c.id (some b)
            e.awaitAcks (s.setCtx { c with binds := delBy Binding.index i c.binds })

/-! ### `scset` (R354, R366) -/

def scopeEntry (i : Nat) (bs : List Byte) : ScopeEntry :=
  ⟨i, BitVec.ofNat 512 (leNat (bs.take 64)), BitVec.ofNat 512 (leNat (bs.drop 64))⟩

def execScset (x : PlainOp) (s : State) : Host.Outcome State Fault Refusal :=
  issue (.scset x) s fun e s =>
    let i := (e.uniform x.a x.imm).toNat
    if i ≤ 5 ∨ 31 < i then e.fault s codeBounds (BitVec.ofNat 32 i) i
    else
      e.uniformRead (e.uniform x.b 0).toNat 128 128 s fun e bs s =>
        e.releaseUnion [5] s fun s =>
          match s.ctx? e.t.ctx with
          | none => s
          | some c => e.awaitAcks (s.setCtx { c with scopes := putBy ScopeEntry.index (scopeEntry i bs) c.scopes })

end Sys2Proof.Machine
end

