-- ==== Sys2Proof/Machine/Watch.lean ====
section
/-! DEFINITION. Translation steps of the driver, held traps, the watchdog and the end of a context
(07 R90, R444, 10 R235 to R237, R242, 13 R256 to R263, 19 R372). -/
namespace Sys2Proof.Machine

/-! ### Walks, resolutions, invalidations (R259, R261, R263) -/

/-- Some request of the batch has no walker. -/
def WalkBatch.waits (b : WalkBatch) : Bool := b.pages.any fun p => !p.2

/-- The batch that the next free walker serves: the oldest of those that have waited more than 2^16 cycles, else the
oldest of those with the fewest outstanding walks. -/
def nextBatch (now : Nat) (l : List WalkBatch) : Option WalkBatch :=
  let l := l.filter WalkBatch.waits
  (l.find? fun b => decide (b.since + 2 ^ 16 < now)).or (l.foldl (fun best b =>
    match best with
    | none => some b
    | some c => if b.pages.length < c.pages.length then some b else some c) none)

/-- A walker takes the first request of the batch that has none. -/
def WalkBatch.take (b : WalkBatch) : WalkBatch :=
  { b with pages := b.pages.mapIdx fun i p => (p.1, p.2 || (b.pages.findIdx fun q => !q.2) == i) }

/-- Free walkers take walks. -/
def takeWalks (now : Nat) : Nat → List WalkBatch → List WalkBatch
  | 0, l => l
  | n + 1, l =>
    match nextBatch now l with
    | none => l
    | some b => takeWalks now n (l.map fun c => if c = b then b.take else c)

/-- Walks that the walkers run. -/
def takenWalks (l : List WalkBatch) : List (WalkBatch × Nat) :=
  l.flatMap fun b => (b.pages.filter Prod.snd).map fun p => (b, p.1)

/-- What asked for the walk of a page knows that it has ended; after the last of its batch it goes on. -/
def State.noteWalk (s : State) (die : Nat) (o : WalkOwner) (page : Nat) (last : Bool) : State :=
  let d := s.die die
  let split (team : Nat) (f : Split → Option Split) : State := match s.team? team with
    | none => s
    | some t => s.setTeam { t with splits := t.splits.map fun x => (f x).getD x }
  let noted (x : Split) : Split :=
    let x := { x with walked := page :: x.walked }
    if last && x.block == .walks then { x with wait := .ready, block := .none } else x
  match o with
  | .split team id => split team fun x => if x.id = id then some (noted x) else none
  | .queue team f =>
    match s.team? team with
    | none => s
    | some t => s.setTeam { t with f := t.f.mapIdx fun i q => if i = f then { q with walked := page :: q.walked } else q }
  | .constants team =>
    let s := split team fun x => if x.block = .walks then some (noted x) else none
    match s.team? team with
    | some t => if last && t.placed && !t.constLoaded then s.giveConstants t else s
    | none => s
  | .command id => s.setDie { d with cmds := d.cmds.map fun c => if c.id = id then { c with walked := page :: c.walked } else c }
  | .route id => s.setDie { d with routes := d.routes.map fun c => if c.id = id then { c with walked := page :: c.walked } else c }

/-- A walk has ended: the TLBs and the walk cache are filled with what it found, and the batch is done once it has no
request left. -/
def State.endWalk (s : State) (die : Nat) (b : WalkBatch) (page : Nat) : State :=
  let s := (s.translate b.core b.ctx (4096 * page) b.kind).1
  let left := { b with pages := b.pages.filter fun p => p.1 != page }
  let d := s.die die
  let s := s.setDie { d with walks := d.walks.flatMap fun c =>
    if c = b then if left.pages.isEmpty then [] else [left] else [c] }
  s.noteWalk die b.owner page left.pages.isEmpty

/-- The queue of a die once its 64 walkers have taken walks. -/
def State.walksTaken (s : State) (die : Nat) : List WalkBatch :=
  let l := (s.die die).walks
  takeWalks (s.cycle (die / 4)) (64 - (takenWalks l).length) l

/-- The walk that a die's walkers can end first, if any. -/
def State.walkDue (s : State) (die : Nat) : Option Instr :=
  (takenWalks (s.walksTaken die)).head?.map fun w => .walkComplete w.1.core w.1.ctx (4096 * w.2) w.1.kind

/-- WALK_COMPLETE: the walkers of the core's die take walks, and one that they run ends: of the page of an address, for
an access of the core (R261, R262). -/
def execWalkComplete (core ctx va : Nat) (kind : AccKind) (s : State) : Host.Outcome State Fault Refusal :=
  let die := core / 128
  let d := s.die die
  let l := s.walksTaken die
  let named (w : WalkBatch × Nat) : Bool := w.1.core == core && w.1.ctx == ctx && w.1.kind == kind && w.2 == va / 4096
  .next (match (takenWalks l).find? named with
    | none => s
    | some (b, page) => if d.fenced then s else (s.setDie { d with walks := l }).endWalk die b page)

def samePage (a b : Nat) : Bool := a / 4096 == b / 4096

/-- The lanes that wait on a page, with their addresses. -/
def Block.lanesOn (va : Nat) : Block → List (Nat × Nat)
  | .page _ _ lanes => (lanes.filter fun l => samePage l.2.2 va).map fun l => (l.1, l.2.1)
  | _ => []

/-- The split waits on the page. -/
def Split.onPage (x : Split) (va : Nat) : Bool := x.wait == .fault && !(x.block.lanesOn va).isEmpty

/-- Run-ahead elements that met a replayable outcome on the page are loaded again. -/
def Stream.reload (va : Nat) (q : Stream) : Stream :=
  { q with walked := [], queued := q.queued.filter fun e => match e.load with | .replay a => !samePage a va | _ => true }

/-- Commands and launch records that wait on the page go on; `fatal`: with the outcome marked fatal. -/
def State.resumeEngines (s : State) (ctx va : Nat) (fatal : Bool) : State :=
  let mark (page : Option Nat) (l : List Nat) : Option Nat × List Nat :=
    match page with
    | some a => if samePage a va then (none, if fatal then (va / 4096) :: l else l) else (page, l)
    | none => (page, l)
  { s with dies := s.dies.map fun d => { d with
      cmds := d.cmds.map fun c => if c.ctx = ctx then { c with page := (mark c.page c.fatal).1, fatal := (mark c.page c.fatal).2 } else c
      routes := d.routes.map fun c => if c.ctx = ctx then { c with page := (mark c.page c.fatal).1, fatal := (mark c.page c.fatal).2 } else c } }

/-- Queue records whose counts wait on the page, with their packages. -/
def State.pagedRecords (s : State) (ctx va : Nat) : List (Nat × LaunchRec) :=
  s.ctxPkgs.flatMap fun cp =>
    if cp.ctx = ctx then
      cp.queues.flatMap fun (_, rs) => (rs.filter fun r => r.page.any fun a => samePage a va).map fun r => (cp.pkg, r.rec')
    else []

/-- Changes the queue records that wait on the page. -/
def State.mapPaged (s : State) (ctx va : Nat) (f : QRec → List QRec) : State :=
  { s with ctxPkgs := s.ctxPkgs.map fun cp =>
      if cp.ctx = ctx then
        { cp with queues := cp.queues.map fun (q, rs) =>
            (q, rs.flatMap fun r => if r.page.any fun a => samePage a va then f r else [r]) }
      else cp }

/-- RESOLVE_REPLAYABLE_FAULT: the driver writes page-table entries; what waits on the page starts again from
translation. -/
def execResolveReplayableFault (ctx va : Nat) (ptes : List (Nat × DWord)) (s : State) :
    Host.Outcome State Fault Refusal :=
  let s := ptes.foldl (fun (s : State) (p : Nat × DWord) => s.homeWrite p.1 (leBytes 8 p.2.toNat)) s
  let creations := (s.teams.filter fun t => t.ctx == ctx && t.placed && !t.constLoaded && t.splits.any fun x => x.onPage va).map Team.key
  let s : State := { s with teams := s.teams.map fun t =>
    if t.ctx = ctx then
      { t with splits := t.splits.map fun x => if x.onPage va then x.retranslate else x, f := t.f.map (Stream.reload va) }
    else t }
  let s := (s.resumeEngines ctx va false).mapPaged ctx va fun r => [{ r with page := none }]
  .next (creations.foldl (fun s k => match s.team? k with | some t => s.giveConstants t | none => s) s)

/-- The lanes of one split that wait on the page raise their fault; at a creation the team is terminated (R444). -/
def State.failPage (s : State) (va key split : Nat) : State :=
  match s.team? key with
  | none => s
  | some t =>
    match t.split? split with
    | none => s
    | some x =>
      match x.block with
      | .page kind c _ =>
        let lanes := x.block.lanesOn va
        if !t.constLoaded then s.creationFault t codeTranslation ((lanes.head?.map Prod.snd).getD 0)
        else s.raise (t.setSplit x.wake) x.wake (if kind = .fetch then c else c.at' lanes)
      | _ => s

/-- Numbers in increasing order. -/
def sortNat (l : List Nat) : List Nat := l.foldl (fun a i => insertNat i a) []

/-- Launches of the driver whose record lies on the page fail (R178, R424). -/
def State.failHostLaunches (s : State) (ctx va : Nat) : State :=
  let hit (h : HostLaunch) : Bool := h.rec'.isNone && samePage h.record va
  match s.ctxPkgs.findSome? fun cp => if cp.ctx = ctx then cp.hostLaunches.find? hit else none, s.ctx? ctx with
  | some h, some c =>
    { s.setCtx { c with hostAnswer := some (codeTranslation, BitVec.ofNat 32 h.record) } with
      ctxPkgs := s.ctxPkgs.map fun cp => if cp.ctx = ctx then { cp with hostLaunches := cp.hostLaunches.filter fun h => !hit h } else cp }
  | _, _ => s

/-- MARK_FAULT_FATAL: only what waits on the page at this moment; of one team the lowest entry id first (R90). -/
def execMarkFaultFatal (ctx va : Nat) (s : State) : Host.Outcome State Fault Refusal :=
  let waits := s.teams.flatMap fun t =>
    if t.ctx = ctx then (sortNat ((t.splits.filter fun x => x.onPage va).map Split.id)).map fun i => (t.key, i) else []
  let recs := s.pagedRecords ctx va
  let s := ((s.resumeEngines ctx va true).mapPaged ctx va fun _ => []).failHostLaunches ctx va
  let s := recs.foldl (fun s (p, r) => s.launchFault ctx p r.addr) s
  .next (waits.foldl (fun s (k, i) => s.failPage va k i) s)

/-- A translation that the range [lo, hi] meets. -/
def TlbEntry.meets (e : TlbEntry) (ctx lo hi : Nat) : Bool :=
  e.ctx == ctx && decide (e.page * pageBytes e.level ≤ hi) && decide (lo < (e.page + 1) * pageBytes e.level)

/-- An entry of the walk cache that maps some address of the range. -/
def WalkEntry.meets (e : WalkEntry) (ctx lo hi : Nat) : Bool :=
  e.ctx == ctx && decide (e.page * pageBytes e.level ≤ hi) && decide (lo < (e.page + 1) * pageBytes e.level)

def inSpan (lo hi va : Nat) : Bool := decide (lo ≤ va) && decide (va ≤ hi)

/-- Elements of the context that a die sent to the range and that are not performed. -/
def State.spanElements (s : State) (die ctx lo hi : Nat) : Bool :=
  let d := s.die die
  let hit (es : List Element) : Bool := es.any fun e => (e.kind == .store || e.kind == .reduction) && inSpan lo hi e.va
  ((d.blotters ++ d.resend).any fun b => b.ctx == ctx && hit b.elems) || d.packets.any fun p => p.ctx == ctx && hit p.elems

/-- PACKAGE_INVALIDATION: complete once every access under a matching entry is performed. -/
def execPackageInvalidation (pkg ctx lo hi : Nat) (s : State) : Host.Outcome State Fault Refusal :=
  let dies := (List.range 4).map (pkg * 4 + ·)
  .next (if dies.any fun d => s.spanElements d ctx lo hi then
      dies.foldl (fun s d => s.setDie ((s.die d).pushSlots fun b => b.ctx == ctx)) s
    else
      let mine (core : Nat) : Bool := core / 512 == pkg
      let span (va : Nat) : Bool := inSpan (lo / 128 * 128) hi va
      let s := (s.cores.filter fun c => mine c.id).foldl
        (fun s c => (s.l1WriteBack c.id ctx span).l1Invalidate false c.id ctx span) s
      let keep (l : List TlbEntry) : List TlbEntry := l.filter fun e => !e.meets ctx lo hi
      { s with
        cores := s.cores.map fun c => if mine c.id then
          { c with tlb := keep c.tlb, icache := c.icache.filter fun l => !(l.ctx == ctx && inSpan (lo / 64 * 64) hi l.va) } else c
        clusters := s.clusters.map fun c => if c.id / 128 = pkg then { c with tlb := keep c.tlb } else c
        dies := s.dies.map fun d => if d.id / 4 = pkg then
          { d with tlb := keep d.tlb, walkCache := d.walkCache.filter fun e => !e.meets ctx lo hi } else d })

/-! ### Held traps -/

/-- TRAP_DELIVERY: the next held trap, once no split of the team is in a handler (R90). -/
def execTrapDelivery (team : Nat) (s : State) : Host.Outcome State Fault Refusal :=
  .next (match s.team? team with
    | none => s
    | some t => let (s, t) := s.deliverNext t; s.setTeam t)

/-! ### The end of a context (R236, R372, R425) -/

/-- Every team of the context is terminated without a record; nothing more of it is dispatched; its launches, gangs
and formed teams are gone. -/
def State.endContext (s : State) (ctx : Nat) (why : EndReason) : State :=
  match s.ctx? ctx with
  | none => s
  | some c =>
    let s := s.setCtx { c with ended := why }
    let s := { s with launches := s.launches.filter fun l => l.ctx != ctx }
    let s := ((s.teams.filter fun t => t.ctx == ctx).map Team.key).foldl (fun s k => match s.team? k with
      | some t => s.endTeam { t with held := [] }.landAll
      | none => s) s
    let touched := s.cores.filter fun k => k.regroups.any fun r => r.ctx == ctx
    { s with
      gangs := s.gangs.filter fun g => g.ctx != ctx
      dies := s.dies.map fun d => { d with formed := d.formed.filter fun f => f.ctx != ctx }
      cores := s.cores.map fun k => if touched.any fun t => t.id == k.id then
        { k with regroups := k.regroups.filter fun r => r.ctx != ctx } else k }

/-! ### Diagnostic records (Table 10.3) -/

/-- One rank or team of a record. -/
structure DiagRow where
  arrived : Bool
  /-- None: every lane of it has exited. -/
  team : Option Word
  waits : Bool
  pc : Pc
  deriving DecidableEq, Repr

structure Diag where
  kind : Nat
  barrier : Nat
  ctx : Nat
  expected : Nat
  arrived : Nat
  log2t : Nat
  /-- Core that gives the place. -/
  core : Nat
  part : Nat := 0
  rows : List DiagRow
  deriving DecidableEq, Repr

def rowMask (l : List DiagRow) (p : DiagRow → Bool) : Nat := ((l.zipIdx.filter fun r => p r.1).map fun r => 2 ^ r.2).sum

def Diag.bytes (d : Diag) : List Byte :=
  let pad (n : Nat) (l : List Byte) : List Byte := (l ++ List.replicate n 0).take n
  [BitVec.ofNat 8 d.kind, BitVec.ofNat 8 d.barrier, BitVec.ofNat 8 (d.ctx % 64), BitVec.ofNat 8 d.expected, BitVec.ofNat 8 d.arrived
  , BitVec.ofNat 8 d.log2t, BitVec.ofNat 8 (d.core / 128 % 4), BitVec.ofNat 8 (d.core / 4 % 32)] ++
    leBytes 2 (d.core / 512) ++ leBytes 2 (rowMask d.rows DiagRow.arrived) ++ leBytes 2 (rowMask d.rows fun r => r.team.isNone) ++
    leBytes 2 (rowMask d.rows DiagRow.waits) ++ leBytes 1 d.part ++ List.replicate 15 0 ++
    pad 128 (d.rows.flatMap fun r => leBytes 8 r.pc.toNat) ++
    pad 64 (d.rows.flatMap fun r => wordBytes (r.team.getD 0xFFFFFFFF)) ++ List.replicate 32 0

/-- Writes a record at the next position: its address, and whether it was not written (R236). -/
def State.writeDiag (s : State) (d : Diag) : State × Nat × Bool :=
  match s.ctx? d.ctx with
  | none => (s, 0, true)
  | some c =>
    let va := c.diag + 256 * c.diagPos
    let s := s.setCtx { c with diagPos := (c.diagPos + 1) % 64 }
    match s.locateGlb d.core d.ctx va { bytes := 256, kind := .write } with
    | (s, .ok (.glb ps)) =>
      if ps.any fun (_, pa, n) => s.homePoisoned pa n || !s.reachable d.core (homeDie pa) then (s, va, true)
      else ((pieceBytes ps d.bytes).foldl (fun s (_, pa, b) => s.homeWrite pa b) s, va, false)
    | (s, _) => (s, va, true)

/-- The PC of a team's waiting split of lowest entry id, else of its lowest split. -/
def Team.diagPc (t : Team) (waits : Split → Bool) : Pc :=
  match ({ t with splits := t.splits.filter waits }).lowestSplit with
  | some x => x.pc
  | none => (t.lowestSplit.map Split.pc).getD 0

def Team.diagRow (t : Team) (arrived : Bool) (waits : Split → Bool) : DiagRow :=
  { arrived := arrived, team := some t.id, waits := t.splits.any waits, pc := t.diagPc waits }

/-! ### BARRIER_TIMEOUT (R235, R236, R242) -/

def Split.atBarrier (b : Nat) (x : Split) : Bool :=
  match x.block with
  | .gbarPhase c | .gbarArrived c _ | .gbarTeam c => c == b
  | _ => false

/-- The rows of a gang's ranks. -/
def State.gangRows (s : State) (g : Gang) (b : Nat) : List DiagRow :=
  (List.range g.expected).map fun r =>
    let arrived := (g.barrier b).arrived.getLsbD r
    match s.teams.find? fun t => t.gang == some g.id && t.rank == r with
    | some t => t.diagRow arrived (Split.atBarrier b)
    | none => { arrived := arrived, team := none, waits := false, pc := 0 }

/-- The rank that the fault record names. -/
def namedRank (rows : List DiagRow) : Option Nat :=
  let first (p : DiagRow → Bool) : Option Nat := (rows.zipIdx.find? fun r => p r.1).map Prod.snd
  (first DiagRow.waits).or ((first fun r => r.arrived && r.team.isSome).or (first fun r => r.team.isSome))

/-- The fault record (Table 10.4). -/
def State.barrierRecord (s : State) (g : Gang) (rows : List DiagRow) (addr : Nat) (lost : Bool) : FaultRec :=
  let none' : FaultRec :=
    { code := codeBarrierTimeout, level := 3, ctx := g.ctx, flags := if lost then 0x11 else 1, core := g.cluster % 128 * 4
      pkg := g.pkg, team := 0xFFFFFFFF, slots := 0, pc := 0, addr := BitVec.ofNat 64 addr }
  match (namedRank rows).bind fun r => s.teams.find? fun t => t.gang == some g.id && t.rank == r with
  | some t =>
    let pc := (((namedRank rows).bind fun r => rows[r]?).map DiagRow.pc).getD 0
    { none' with core := t.core, pkg := t.pkg, team := t.id, pc := pc.setWidth 64 }
  | none => none'

/-- The timers of a gang that run: due cycle and barrier. -/
def Gang.timers (g : Gang) : List (Nat × Nat) :=
  (List.range 16).filterMap fun b => (g.barrier b).timer.map fun n => (n + 2 ^ g.log2bar, b)

/-- BARRIER_TIMEOUT: the first timer of the gang to expire, the lowest id in one cycle. -/
def execBarrierTimeout (gang barrier : Nat) (s : State) : Host.Outcome State Fault Refusal :=
  .next (match s.gang? gang with
    | none => s
    | some g =>
      match g.timers.find? fun t => t.2 == barrier with
      | none => s
      | some (due, _) =>
        if g.timers.any fun (d, i) => decide (d < due) || (d == due && decide (i < barrier)) then s
        else
          let s := s.clockTo g.pkg due
          let x := g.barrier barrier
          let rows := s.gangRows g barrier
          let (s, addr, lost) := s.writeDiag
            { kind := 0, barrier := barrier, ctx := g.ctx, expected := g.expected, arrived := x.count, log2t := g.log2bar
              core := g.cluster * 4, rows := rows }
          let r := s.barrierRecord g rows addr lost
          (s.endContext g.ctx .barrierTimeout).recordFault r)

/-! ### WATCHDOG (R204, R237) -/

/-- Barrier timeout of a team (R235). -/
def State.log2Timeout (s : State) (t : Team) : Nat :=
  match t.gang.bind s.gang? with
  | some g => g.log2bar
  | none => t.entry.log2bar

/-- The waiting splits of a team raise WATCHDOG at their instruction, the lowest entry id first (R90); the faulting
lanes are those that contribute (R445). -/
def State.raiseWatchdog (s : State) (key : Nat) (waits : Split → Bool) (addr : Nat) (lost : Bool) : State :=
  let ids := sortNat (((s.team? key).map fun t => (t.splits.filter waits).map Split.id).getD [])
  ids.foldl (fun s i => match s.team? key with
    | none => s
    | some t => match t.split? i with
      | none => s
      | some x =>
        let lanes := match x.block with | .xshuf m => m | _ => x.mask
        s.raise (t.setSplit x.wake) x.wake
          { code := codeWatchdog, level := 1, pc := x.pc, j3 := BitVec.ofNat 32 (lowestSlot lanes), addr := addr
            lanes := lanes, noDiag := lost, resume := x.pc }) s

def insertById (t : Team) : List Team → List Team
  | [] => [t]
  | u :: l => if t.id.toNat < u.id.toNat then t :: u :: l else u :: insertById t l

/-- The records of a regroup, sixteen participants each; then each arrived team raises. -/
def State.watchRegroup (s : State) (core : Nat) (r : Regroup) (log2 : Nat) : Nat → List Team → Nat → State
  | 0, _, _ => s
  | n + 1, ts, part =>
    if ts.isEmpty then s
    else
      let here := ts.take 16
      let arrived (t : Team) : Bool := r.arrivals.any fun a => a.team == t.key
      let (s, addr, lost) := s.writeDiag
        { kind := 1, barrier := 0, ctx := r.ctx, expected := r.participants.length, arrived := r.arrivals.length
          log2t := log2, core := core, part := part
          rows := here.map fun t => t.diagRow (arrived t) fun x => x.block == .regroup }
      let s := (here.filter arrived).foldl (fun s t =>
        s.raiseWatchdog t.key (fun x => r.arrivals.any fun a => a.team == t.key && a.split == x.id) addr lost) s
      s.watchRegroup core r log2 n (ts.drop 16) 1

def State.regroupLog2 (s : State) (r : Regroup) : Nat := ((r.participants.findSome? s.team?).map s.log2Timeout).getD 20

/-- Cycle at which the timer of a regroup expires. -/
def State.regroupDue (s : State) (r : Regroup) : Nat := r.started + 2 ^ s.regroupLog2 r

/-- The waiting regroup of a core whose timer expires first. -/
def State.firstRegroup (s : State) (core : Nat) : Option Regroup :=
  ((s.core core).regroups.filter fun r => r.nmax.isNone && r.aborted.isNone && !r.arrivals.isEmpty).foldl
    (fun best r => match best with
      | none => some r
      | some q => if s.regroupDue r < s.regroupDue q then some r else some q) none

/-- A regroup that has waited beyond its timeout. -/
def State.regroupTimeout (s : State) (core : Nat) : State :=
  let k := s.core core
  match s.firstRegroup core with
  | none => s
  | some r =>
    let ts := (r.participants.filterMap s.team?).foldl (fun l t => insertById t l) []
    let log2 := s.regroupLog2 r
    let s := s.clockTo (core / 512) (s.regroupDue r)
    let s := s.setCore { s.core core with regroups := k.regroups.filter fun q => q != r }
    (s.watchRegroup core r log2 3 ts 0).wakeRegroup core

/-- One team's wait: its record, then its waiting splits raise. -/
def State.watchTeam (s : State) (t : Team) (kind : Nat) (arrived : Bool) (start : Nat) (waits : Split → Bool)
    (withdraw : State → State) : State :=
  let log2 := s.log2Timeout t
  let s := s.clockTo t.pkg (start + 2 ^ log2)
  let (s, addr, lost) := s.writeDiag
    { kind := kind, barrier := 0, ctx := t.ctx, expected := 1, arrived := if arrived then 1 else 0, log2t := log2
      core := t.coreNo, rows := [t.diagRow arrived waits] }
  (withdraw s).raiseWatchdog t.key waits addr lost

/-- WATCHDOG. -/
def execWatchdog (kind : WatchKind) (s : State) : Host.Outcome State Fault Refusal :=
  .next (match kind with
    | .regroup core => s.regroupTimeout core
    | .xshuf team =>
      match s.team? team with
      | none => s
      | some t =>
        match (s.die t.dieNo).xshuf.find? fun a => a.team == team with
        | none => s
        | some a => s.watchTeam t 2 true a.since Split.atXshuf fun s => s.dropXshuf t
    | .tsync team =>
      match s.team? team with
      | none => s
      | some t =>
        match t.timer with
        | none => s
        | some n =>
          if t.placed then
            s.watchTeam t 3 false n (fun x => x.block == .tsync) fun s => match s.team? team with
              | some t => s.setTeam { t with timer := none }
              | none => s
          else s)

end Sys2Proof.Machine
end

