-- ==== Sys2Proof/Machine/Fabric.lean ====
section
/-! DEFINITION. Blotter packets from their departure to their acknowledgement, and the Rinkway links that carry them
(20 R374 to R382, 21 R389 to R397). -/
namespace Sys2Proof.Machine

/-! ### Departure (R389, R391, R393) -/

/-- Refused elements leave again. -/
def Die.sendAgain (d : Die) (b : BlotterSlot) : Die :=
  { d with
    resend := d.resend.filter fun r => !(r.ctx == b.ctx && r.dst == b.dst)
    packets := d.packets ++ [{ id := d.nextPacket, order := b.order, slot := b.slot, ctx := b.ctx, dst := b.dst, elems := b.elems }]
    nextPacket := d.nextPacket + 1 }

/-- Refused elements wait in the order in which they left first (R393). -/
def Die.refuse (d : Die) (b : BlotterSlot) : Die :=
  { d with resend := (d.resend.filter fun r => decide (r.order < b.order)) ++ b :: d.resend.filter fun r => !decide (r.order < b.order) }

/-- BLOTTER_DEPART: what was refused goes first, then a slot that something has asked to depart. -/
def execBlotterDepart (die slot : Nat) (s : State) : Host.Outcome State Fault Refusal :=
  let d := s.die die
  .next (if d.fenced then s
    else match d.resend.find? fun b => b.slot == slot && !d.inFlight b.ctx b.dst with
      | some b => if d.packets.length < 1024 then s.setDie (d.sendAgain b) else s
      | none => match getBy BlotterSlot.slot slot d.blotters with
        | some b => if b.push && d.canDepart b then s.setDie (d.depart b) else s
        | none => s)

/-- A threshold in nanoseconds has passed after this many cycles of 2/3 ns. -/
def ageCycles (ns : Nat) : Nat := 3 * ns / 2 + 1

/-- BLOTTER_AGE_EXPIRY: the first element has waited longer than the threshold. -/
def execBlotterAgeExpiry (die slot : Nat) (s : State) : Host.Outcome State Fault Refusal :=
  .next (match getBy BlotterSlot.slot slot (s.die die).blotters with
    | none => s
    | some b =>
      if (s.die die).fenced then s
      else
        let s := s.clockTo (die / 4) (b.since + ageCycles (((s.ctx? b.ctx).map Ctx.ageNs).getD 2000))
        s.setDie ((s.die die).pushSlots fun c => c.slot == slot))

/-! ### Application at the destination (R392, R393, R396) -/

/-- Performs a store element: its enabled bytes. A line that its slice lacks stays out of it (R352). -/
def State.applyStore (s : State) (e : Element) : State :=
  (List.range 8).foldl (fun s i =>
    if e.be.getLsbD i then s.homeWrite (e.addr + i) [e.data.extractLsb' (8 * i) 8] (alloc := false) else s) s

def State.applyReduction (s : State) (e : Element) : State :=
  let w := if e.w64 then 8 else 4
  s.homeWrite e.addr (leBytes w (atomNew e.op e.ty w (leNat (s.homeRead e.addr w)) (e.data.toNat % 2 ^ (8 * w)))) (alloc := false)

/-- The root has not accepted a report at or below a time yet: the acknowledgement is held (R301, R386). -/
def State.needsReport (s : State) (c : Ctx) (pkg : Nat) (t : DWord) : Option DWord :=
  let x := s.ctxPkg c.id pkg
  if pkg = c.root ∨ (x.unacked.isEmpty ∧ x.sent.any fun v => decide (v.toNat ≤ t.toNat)) then none else some t

/-- Inserts the record of a post element; below the die's last report the new report goes first. -/
def State.applyPost (s : State) (c : Ctx) (dst : Nat) (r : PRec) : State × Option DWord :=
  let below := match (s.ctxDie c.id dst).reported with
    | none => true
    | some v => decide (r.ev.time.toNat < v.toNat)
  let s := s.insertRecord c.id dst r
  if below then
    let s := s.dieReport c.id dst
    (s, s.needsReport c (dst / 4) r.ev.time)
  else (s, none)

/-- One element: the state, its status code, and a report that has to be accepted first. -/
def State.applyElement (s : State) (c : Ctx) (dst : Nat) (e : Element) : State × Nat × Option DWord :=
  match e.kind, e.rec' with
  | .store, _ => (s.applyStore e, 0, none)
  | .reduction, _ =>
    if s.homePoisoned e.addr (if e.w64 then 8 else 4) then (s, codePoison, none) else (s.applyReduction e, 0, none)
  | .post, some r =>
    if (c.handler? r.ev.handler).isNone then (s, codeBounds, none)
    else if refusing c (s.ctxDie c.id dst) then (s, 1, none)
    else
      let (s, n) := s.applyPost c dst r
      (s, 0, n)
  | .cancel, some r =>
    if (c.handler? r.ev.handler).isNone then (s, codeBounds, none) else ((s.cancelAt c.id dst r.ev).1, 0, none)
  | .signal, _ =>
    let h : Word := BitVec.ofNat 32 e.addr
    if (s.gateHit c.id h false).isNone then (s, codeGateFree, none)
    else (s.gateAct ⟨c.id, e.core % 512, e.core / 512, 0, e.pc, 0⟩ h none, 0, none)
  | _, none => (s, 0, none)

/-- The elements in their order; from a refused one on, every element is refused. -/
def State.applyElements (s : State) (ctx dst : Nat) : List Element → State × List Nat × Option DWord
  | [] => (s, [], none)
  | e :: es =>
    match s.ctx? ctx with
    | none => (s, List.replicate (es.length + 1) codeContextLost, none)
    | some c =>
      match s.applyElement c dst e with
      | (s, 1, _) => (s, List.replicate (es.length + 1) 1, none)
      | (s, code, n) =>
        let (s, codes, m) := s.applyElements ctx dst es
        (s, code :: codes, match n, m with
          | some a, some b => some (if a.toNat < b.toNat then a else b)
          | some a, none => some a
          | none, m => m)

/-- What the destination does with a packet. `blocked`: a refused part of the slot has not arrived again. -/
def State.applyPacket (s : State) (p : Packet) (blocked : Bool) : State × List Nat × Option DWord :=
  let all (code : Nat) : State × List Nat × Option DWord := (s, List.replicate p.elems.length code, none)
  if (s.die p.dst).fenced then all codeDieLost
  else if !(s.ctx? p.ctx).any fun c => c.ended == .running then all codeContextLost
  else if blocked then all 1
  else s.applyElements p.ctx p.dst p.elems

/-! ### The poster's part (R393, R397, R405) -/

def ElemKind.code : ElemKind → Nat
  | .store => 0 | .reduction => 1 | .post => 2 | .cancel => 3 | .signal => 4

/-- The record of a failed element (Table 21.3); a GATE_FREE failure gives the record of R311. -/
def State.elementRecord (s : State) (ctx dst : Nat) (e : Element) (code : Nat) : State :=
  let team : Word := BitVec.ofNat 32 e.team
  if code = codeGateFree then
    gateFree s ⟨ctx, e.core % 512, e.core / 512, team, e.pc, if e.byLane then BitVec.ofNat 32 e.lane else 0xFFFFFFFF⟩
      (BitVec.ofNat 32 e.addr)
  else
    let rec' := e.rec'.map PRec.ev
    s.recordFault
      { code := if code = codeLinkDown then codeLinkDown else codeRemoteElement, level := 4, ctx := ctx
        flags := if e.kind = .post ∨ e.kind = .cancel then 0x0C else 0x08
        core := e.core % 512, pkg := e.core / 512, team := team
        slots := BitVec.ofNat 32 (e.lane % 1024 + dst % 4 * 2 ^ 10 + dst / 4 % 512 * 2 ^ 12 + e.kind.code * 2 ^ 21 + code * 2 ^ 24)
        pc := e.pc.setWidth 64
        addr := match e.kind with
          | .store | .reduction => BitVec.ofNat 64 e.va
          | .signal => BitVec.ofNat 64 (e.addr % 2 ^ 32)
          | _ => 0
        event := match e.kind with
          | .post => rec'
          | .cancel => rec'.map fun v => { v with payload := Vector.replicate 4 0 }
          | _ => some { time := e.data } }

/-- The acknowledgement of one element: its failure is recorded and counted; the poster's core reads the home again. -/
def State.elementDone (s : State) (ctx dst : Nat) (e : Element) (code : Nat) : State :=
  let s := if code = 0 then s
    else
      let s := s.elementRecord ctx dst e code
      match s.team? e.team with
      | some t => s.setTeam { t with elemFaults := t.elemFaults + 1 }
      | none => s
  if e.kind = .store ∨ e.kind = .reduction then s.l1Flush e.core e.addr (if e.w64 then 8 else 4) else s

/-- A packet is acknowledged with a code for each element: what was refused is to be sent again, and what waited for the
elements goes on. -/
def State.finishPacket (s : State) (die : Nat) (p : Packet) (codes : List Nat) : State :=
  let l := p.elems.zip codes
  let again := (l.filter fun x => x.2 == 1).map Prod.fst
  let s := (l.filter fun x => x.2 != 1).foldl (fun s x => s.elementDone p.ctx p.dst x.1 x.2) s
  let d := s.die die
  let d := { d with packets := d.packets.filter fun q => q.id != p.id }
  let s := s.setDie (if again.isEmpty then d
    else d.refuse { slot := p.slot, ctx := p.ctx, dst := p.dst, elems := again, since := s.cycle (die / 4), push := true, order := p.order })
  let s := (s.launches.map Launch.id).foldl State.settleLaunch s
  ((p.elems.map Element.team).eraseDups).foldl State.settleYield s

def Packet.bytes (p : Packet) : Nat := (p.elems.map Element.size).sum

/-- An earlier packet of the same slot to the same die, or something earlier of the same stream to another package, has not
been applied (R376, R392). -/
def Die.behind (d : Die) (p : Packet) : Bool :=
  d.streamAhead p.lane p.id ||
    d.packets.any fun q => decide (q.id < p.id) && q.dst == p.dst && q.slot == p.slot && q.status.isNone

/-- A response of the same stream to another package was sent earlier and has not arrived (R376). -/
def Die.replyAhead (d : Die) (lane : Nat × Nat) (at' : Nat) : Bool :=
  lane.1 / 4 != d.id / 4 &&
    ((d.packets.any fun q => q.lane == lane && q.status.isSome && q.needs.isNone && decide (q.ackAt < at')) ||
      d.requests.any fun q => q.lane == lane && q.state == .performed && decide (q.ackAt < at'))

def Die.ackBehind (d : Die) (p : Packet) : Bool :=
  d.replyAhead p.lane p.ackAt ||
    d.packets.any fun q => q.dst == p.dst && q.slot == p.slot && q.status.isSome && q.needs.isNone && decide (q.ackAt < p.ackAt)

/-- A refused part that left before these elements did has not been applied since: the die refuses them too (R393). -/
def Die.refusing (d : Die) (p : Packet) : Bool :=
  (d.resend.any fun b => b.slot == p.slot && b.dst == p.dst && decide (b.order < p.order)) ||
    d.packets.any fun q => q.slot == p.slot && q.dst == p.dst && decide (q.order < p.order) && q.status.any fun l => l.contains 1

def Die.packet? (d : Die) (id : Nat) : Option Packet := getBy Packet.id id d.packets

/-- The port that a packet from a die leaves its package by. -/
def State.portTo (s : State) (die dst k : Nat) : Option Nat :=
  if die / 4 = dst / 4 then none else s.streamPort (die / 4) (dst / 4) dst k

/-- A packet of a blotter slot arrives. -/
def State.arrivePacket (s : State) (die : Nat) (p : Packet) : State :=
  let d := s.die die
  if d.fenced || p.status.isSome || d.behind p then s
  else
    let port := s.portTo die p.dst (slotStream p.slot)
    match s.sendPacket (die / 4) (p.dst / 4) p.dst (slotStream p.slot) (packetFlits p.bytes) with
    | .full => s
    | .cut s => s
    | .lost => s.finishPacket die p (List.replicate p.elems.length codeLinkDown)
    | .ok s =>
      let (s, codes, needs) := s.applyPacket p (d.refusing p)
      let d := s.die die
      s.setDie { d with packets := setBy Packet.id { p with status := some codes, needs := needs, port := port, ackAt := s.tick } d.packets }

/-- Its acknowledgement arrives, once no report is awaited. -/
def State.ackPacket (s : State) (die : Nat) (p : Packet) (codes : List Nat) : State :=
  if (s.die die).fenced || p.needs.isSome || (s.die die).ackBehind p then s
  else
    match s.sendPacket (p.dst / 4) (die / 4) die (slotStream p.slot) (packetFlits 4) with
    | .full => s
    | .cut s => s
    | .lost => s.finishPacket die p (List.replicate p.elems.length codeLinkDown)
    | .ok s => s.finishPacket die p codes

/-! ### Requests of `rld`, `ratom` and `rcas` (R387, R401 to R404) -/

/-- The lanes of a request that name one address each, in slot order. -/
def Request.groups (r : Request) : List (Nat × List ReqLane) :=
  ((r.lanes.map ReqLane.pa).eraseDups).map fun pa => (pa, r.lanes.filter fun a => a.pa == pa)

/-- What a request finds at its home, group by group: what a lane reads poisoned is not changed. -/
def State.performGroups (s : State) (r : Request) : List (Nat × List ReqLane) → State × List (Nat × Option (List Word)) × Bool
  | [] => (s, [], false)
  | (pa, l) :: gs =>
    let poisoned := s.replyPoisoned pa r.width
    let find (bs : List Byte) := r.kind.group r.width (l.map fun a => (a.slot, a.b, a.c)) (leNat bs)
    let (_, new, failed) := find (s.homeRead pa r.width)
    let outs := (find (s.replyRead pa r.width)).1
    let s := match new with
      | some v => if s.homePoisoned pa r.width then s else s.homeWrite pa (leBytes r.width v)
      | none => s
    let outs := outs.map fun (i, v) => (i, if poisoned then none else some (loadWords (leBytes r.width v)))
    let (s, more, f) := s.performGroups r gs
    (s, outs ++ more, (failed && !poisoned) || f)

/-- The older reads with which a weak `rld.ro` can be merged: of its context and line, through its switch plane, and still
without their response (R387). -/
def State.mergeable (s : State) (r : Request) (port : Option Nat) : List Request :=
  if r.kind ≠ .read true then []
  else s.dies.flatMap fun d => d.requests.filter fun q =>
    q.kind == .read true && q.ctx == r.ctx && q.line == r.line && q.state == .performed && q.port == port && decide (q.issued < r.issued)

/-- A request is performed at its home L2 slice. -/
def State.atHome (s : State) (r : Request) : State × Request :=
  let base := 128 * r.line
  let bytes := s.replyRead base 128
  let bad := (List.range 4).filter fun i => s.replyPoisoned (base + 32 * i) 32
  let secs := (r.lanes.flatMap fun a => sectorsOf a.pa r.width).eraseDups
  let (s, outs, failed) := (s.touchL2 base 128).performGroups r r.groups
  (s.flitsArrived (secs.map .home), { r with outs := outs, miss := failed, bytes := bytes, bad := bad })

/-- A request that has arrived: merged with an older read, whose response it takes, or performed at its home. -/
def State.performRequest (s : State) (r : Request) (port : Option Nat) : State × Request :=
  let r := { r with state := .performed, port := port, ackAt := s.tick }
  match Config.mergeRead s.tick with
  | n + 1 =>
    match (s.mergeable r port)[n]? with
    | some q =>
      let out (a : ReqLane) : Nat × Option (List Word) :=
        let o := a.pa % 128
        (a.slot, if (sectorsOf o r.width).any q.bad.contains then none else some (loadWords ((q.bytes.drop o).take r.width)))
      (s, { r with outs := r.lanes.map out, bytes := q.bytes, bad := q.bad })
    | none => s.atHome r
  | 0 => s.atHome r

/-- A request is answered, or fails: the instruction goes on once all of its requests have been. One whose split is no more
is dropped. -/
def State.answerRequest (s : State) (die : Nat) (r : Request) (state : ReqState) : State :=
  let d := s.die die
  let wanted := ((s.team? r.team).bind fun t => t.split? r.split).any fun x => match x.block with | .reply _ _ _ => true | _ => false
  let l := if wanted then setBy Request.id { r with state := state } d.requests else delBy Request.id r.id d.requests
  (s.setDie { d with requests := l }).settleRequests r.team r.split

/-- Payload bytes of a request, and of its response. -/
def Request.bytesOut (r : Request) : Nat :=
  match r.kind with
  | .read _ => 0
  | .atom _ _ => r.lanes.length * r.width
  | .cas => 2 * r.lanes.length * r.width
def Request.bytesBack (r : Request) : Nat := r.lanes.length * r.width

/-- A request arrives. -/
def State.arriveRequest (s : State) (die : Nat) (r : Request) : State :=
  let d := s.die die
  let k := requestStream r.core
  if d.fenced || r.state != .sent || d.streamAhead r.lane r.id then s
  else
    let port := s.portTo die r.dst k
    match s.sendPacket (die / 4) (r.dst / 4) r.dst k (packetFlits r.bytesOut) with
    | .full => s
    | .cut s => s
    | .lost => s.answerRequest die r (.failed codeLinkDown)
    | .ok s =>
      if (s.die r.dst).fenced then s.answerRequest die r (.failed codeDieLost)
      else
        let (s, r) := s.performRequest r port
        let d := s.die die
        s.setDie { d with requests := setBy Request.id r d.requests }

/-- Its response arrives. -/
def State.ackRequest (s : State) (die : Nat) (r : Request) : State :=
  let d := s.die die
  if d.fenced || r.state != .performed || d.replyAhead r.lane r.ackAt then s
  else
    match s.sendPacket (r.dst / 4) (die / 4) die (requestStream r.core) (packetFlits r.bytesBack) with
    | .full => s
    | .cut s => s
    | .lost => s.answerRequest die r (.failed codeLinkDown)
    | .ok s => s.answerRequest die r .replied

/-- PACKET_ARRIVAL at the destination die: of a blotter packet, or of a request. -/
def execPacketArrival (die packet : Nat) (s : State) : Host.Outcome State Fault Refusal :=
  let d := s.die die
  .next (match d.packet? packet, getBy Request.id packet d.requests with
    | some p, _ => s.arrivePacket die p
    | none, some r => s.arriveRequest die r
    | none, none => s)

/-- PACKET_ACK at the die that sent the packet: its acknowledgement, or the response. -/
def execPacketAck (die packet : Nat) (s : State) : Host.Outcome State Fault Refusal :=
  let d := s.die die
  .next (match d.packet? packet, getBy Request.id packet d.requests with
    | some p, _ => match p.status with | none => s | some codes => s.ackPacket die p codes
    | none, some r => s.ackRequest die r
    | none, none => s)

/-! ### A link that goes down (R380) -/

/-- A packet to a die is outstanding on a port: it crossed by it, it is on its way out by it, or its response is on its way
back. -/
def State.crosses (s : State) (die dst k : Nat) (crossed : Option Nat) (answered : Bool) (pkg port : Nat) : Bool :=
  die / 4 != dst / 4 && (pkg == die / 4 || pkg == dst / 4) &&
    (crossed.or (s.portTo die dst k) == some port || (answered && s.portTo dst die k == some port))

def State.onPort (s : State) (die : Nat) (p : Packet) (pkg port : Nat) : Bool :=
  s.crosses die p.dst (slotStream p.slot) p.port p.status.isSome pkg port

def State.requestOn (s : State) (die : Nat) (r : Request) (pkg port : Nat) : Bool :=
  r.isOpen && s.crosses die r.dst (requestStream r.core) r.port (r.state == .performed) pkg port

/-- The copy of a critical message is on its way by a port. -/
def State.critOn (s : State) (m : CritMsg) (pkg port : Nat) : Bool :=
  m.src != m.dst && (pkg == m.src || pkg == m.dst) && s.streamPort m.src m.dst m.via critStream == some port

/-- The link goes down: each packet and request outstanding on it fails LINK_DOWN; a copy of a critical message is lost. -/
def State.linkDown (s : State) (pkg port : Nat) : State :=
  if !s.portUp pkg port then s
  else
    let bad := s.dies.flatMap fun d => (d.packets.filter fun p => s.onPort d.id p pkg port).map fun p => (d.id, p)
    let reqs := s.dies.flatMap fun d => (d.requests.filter fun r => s.requestOn d.id r pkg port).map fun r => (d.id, r)
    let s := { s with crit := s.crit.filter fun m => !s.critOn m pkg port }
    let s := s.setPort pkg { s.port pkg port with up := false, exhausted := none, tagFailed := false, begun := 0 }
    let s := bad.foldl (fun s (d, p) => s.finishPacket d p (List.replicate p.elems.length codeLinkDown)) s
    reqs.foldl (fun s (d, r) => s.answerRequest d r (.failed codeLinkDown)) s

/-! ### Links: receiving (R377 to R379, R381) -/

/-- The header fails its CRC, or is treated so. -/
def flitBad (h : FlitHeader) : Bool := !h.crcOk || h.cls == 3 || h.rsv28 != 0

/-- The sender starts again from the oldest flit; the sixteenth time the link goes down. -/
def Port.resend (q : Port) (now : Nat) : Port × Bool :=
  if q.held = 0 then (q, false)
  else ({ q with resends := q.resends + 1, ackAt := now }, decide (16 ≤ q.resends + 1))

/-- ACK frees the flits that it covers; NAK asks for the others again. -/
def Port.takeAck (q : Port) (h : FlitHeader) (now : Nat) : Port × Bool :=
  let n := (h.ack - q.ackSeq).toNat
  let q := if 0 < n ∧ n ≤ q.held then { q with ackSeq := h.ack, resends := 0, ackAt := now }.announceKey now else q
  if h.nak then q.resend now else (q, false)

/-- A flit with the next SEQ is accepted; every other one is discarded, and NAK is sent. -/
def Port.accept (q : Port) (h : FlitHeader) : Option Port :=
  if h.seq = q.goodSeq + 1 then some { q with goodSeq := h.seq, nak := false } else none

/-- A flit arrives at a port that is up: its ACK and NAK, then `body`. -/
def State.flitIn (s : State) (pkg port : Nat) (h : FlitHeader) (kind : BitVec 2)
    (body : Port → Port × Bool × Option MgmtEvent) : State :=
  if !s.portUp pkg port ∨ h.kind ≠ kind then s
  else if flitBad h then s.setPort pkg { s.port pkg port with nak := true }
  else
    let (q, down) := (s.port pkg port).takeAck h (s.cycle pkg)
    if down then (s.setPort pkg q).linkDown pkg port
    else
      let (q, down, ev) := body q
      let s := s.setPort pkg q
      let s := match ev with | some e => s.logEvent pkg e | none => s
      if down then s.linkDown pkg port else s

/-- The tag check of a packet fails: every flit of it is discarded and asked for again. -/
def Port.dropPacket (q : Port) : Port :=
  { q with goodSeq := q.packetSeq, received := q.packetCount, tagFailed := true, nak := true }

/-- A data flit in good order; the first of a packet marks where the packet begins. -/
def Port.takeData (q r : Port) (h : FlitHeader) : Port :=
  let r := if h.sop then { r with packetSeq := q.goodSeq, packetCount := q.received } else r
  { r with received := r.received + 1 }

/-- FLIT_DATA. `tagOk` is the outcome of the tag check of an EOP flit's packet, whose tag is in the last 16 of the valid bytes:
it fails too where VALID, outside 16 to 56, leaves no tag (DEDUCED from R377 and R379; notes/assumptions/22). A key changes
between packets. -/
def execFlitData (pkg port : Nat) (hdr : FlitHeader) (tagOk : Bool) (s : State) : Host.Outcome State Fault Refusal :=
  .next (s.flitIn pkg port hdr 0 fun q =>
    match q.accept hdr with
    | none => ({ q with nak := true }, false, none)
    | some r =>
      let r := q.takeData r hdr
      if !hdr.eop then (r, false, none)
      else if tagOk && decide (16 ≤ hdr.valid.toNat) && decide (hdr.valid.toNat ≤ 56) then
        ({ r with tagFailed := false }.installRecv, false, none)
      else if q.tagFailed then (r, true, some (.tagFailure port))
      else (r.dropPacket, false, none))

/-- FLIT_IDLE: it carries the last SEQ sent, so that another value shows a flit that was lost. -/
def execFlitIdle (pkg port : Nat) (hdr : FlitHeader) (s : State) : Host.Outcome State Fault Refusal :=
  .next (s.flitIn pkg port hdr 1 fun q => (if hdr.seq = q.goodSeq then q else { q with nak := true }, false, none))

/-- FLIT_LINK_CONTROL. -/
def execFlitLinkControl (pkg port : Nat) (hdr : FlitHeader) (s : State) : Host.Outcome State Fault Refusal :=
  .next (s.flitIn pkg port hdr 2 fun q => ((q.accept hdr).getD { q with nak := true }, false, none))

/-- FLIT_KEY_EXCHANGE: the receiving direction takes the key that is staged for it from the counter value named on; with none
staged there is no key to take (R381, R437). -/
def execFlitKeyExchange (pkg port : Nat) (hdr : FlitHeader) (key : LinkKey) (s : State) :
    Host.Outcome State Fault Refusal :=
  .next (s.flitIn pkg port hdr 3 fun q =>
    match q.accept hdr with
    | none => ({ q with nak := true }, false, none)
    | some r =>
      match r.recvStaged with
      | none => (r, false, none)
      | some k => ({ r with recvStaged := some { k with start := key.start }, recvArmed := true }.installRecv, false, none))

/-- RETRY_TIMEOUT: no ACK has advanced for 2 µs. -/
def execRetryTimeout (pkg port : Nat) (s : State) : Host.Outcome State Fault Refusal :=
  let q := s.port pkg port
  .next (if !s.portUp pkg port ∨ q.held = 0 then s
    else
      let s := s.clockTo pkg (q.ackAt + 2 * Config.cyclesPerUs)
      let (q, down) := q.resend (s.cycle pkg)
      let s := s.setPort pkg q
      if down then s.linkDown pkg port else s)

/-- LINK_SIGNAL_LOSS. -/
def execLinkSignalLoss (pkg port : Nat) (s : State) : Host.Outcome State Fault Refusal := .next (s.linkDown pkg port)

/-! ### Keys (R381, R382) -/

/-- KEY_LOW: the counter of a direction has reached 2^63; each direction reports it once for a key. -/
def execKeyLow (pkg port : Nat) (s : State) : Host.Outcome State Fault Refusal :=
  let q := s.port pkg port
  .next (if q.sent.getLsbD 63 && !q.sendLow then (s.setPort pkg { q with sendLow := true }).logEvent pkg (.keyLow port)
    else if q.received.getLsbD 63 && !q.recvLow then (s.setPort pkg { q with recvLow := true }).logEvent pkg (.keyLow port)
    else s)

/-- KEY_EXHAUSTED: the sending direction is one flit short of wrapping. -/
def execKeyExhausted (pkg port : Nat) (s : State) : Host.Outcome State Fault Refusal :=
  let q := s.port pkg port
  .next (if s.portUp pkg port && decide (2 ^ 64 - 2 ≤ q.sent.toNat) && q.exhausted.isNone then
      (s.setPort pkg { q with exhausted := some (s.cycle pkg) }).logEvent pkg (.keyExhausted port)
    else s)

/-- KEY_TIMEOUT: the key timeout that management has set has passed. -/
def execKeyTimeout (pkg port : Nat) (s : State) : Host.Outcome State Fault Refusal :=
  .next (match (s.port pkg port).exhausted with
    | none => s
    | some n => (s.clockTo pkg (n + (s.pkg pkg).ctl.keyTimeout)).linkDown pkg port)

end Sys2Proof.Machine
end

