-- ==== Sys2Proof/Machine/Recovery.lean ====
section
/-! DEFINITION. Fencing a die, reissue, the election of a master, a lost root, and the write-back of an L2
(13 R250, 19 R367 to R372, 20 R386). -/
namespace Sys2Proof.Machine

/-! ### What the control die does to a die (R367) -/

/-- Requests to a fenced die that have not been answered fail DIE_LOST (R368). -/
def State.failRequests (s : State) (die : Nat) : State :=
  let l := s.dies.flatMap fun d => (d.requests.filter fun r => r.dst == die && r.isOpen).map fun r => (d.id, r)
  l.foldl (fun s (d, r) => s.answerRequest d r (.failed codeDieLost)) s

/-- The die's cores and engines stop: its placed teams are gone without a release, with what it and their cores held for
them. -/
def State.stopDie (s : State) (die : Nat) : State :=
  let gone (t : Team) : Bool := t.placed && t.dieNo == die
  let s := (s.teams.filter gone).foldl State.settleEnergy s
  let d := s.die die
  let s := s.setDie { d with
    fenced := true, formed := [], xshuf := [], blotters := [], packets := [], resend := [], requests := [], cmds := [], routes := []
    l2 := [], walks := [], walkCache := [], tlb := [] }
  { s with
    teams := s.teams.filter fun t => !gone t
    gangs := s.gangs.filter fun g => !(g.placed && g.cluster / 32 == die)
    cores := s.cores.map fun c => if c.id / 128 = die then
      { c with l1 := [], icache := [], tlb := [], regroups := [], planes := [] } else c }

/-- Its eight Rinkway ports are cut. -/
def State.cutPorts (s : State) (die : Nat) : State :=
  (List.range 8).foldl (fun s k => s.linkDown (die / 4) (die % 4 * 8 + k)) s

/-! ### Fates (R370 to R372) -/

inductive Fate where
  | ended (why : EndReason)
  | runs
  deriving DecidableEq, Repr

/-- A launch has a gang on the die that has not retired, or unplaced gangs assigned to it. -/
def State.launchOn (s : State) (l : Launch) (die : Nat) : Bool :=
  !(l.part die).isEmpty || s.gangs.any fun g => g.launch == l.id && g.placed && g.cluster / 32 == die

/-- Table 19.9, over the state before the fencing. -/
def State.fate (s : State) (c : Ctx) (die : Nat) : Fate :=
  let mine := s.launches.filter fun l => l.ctx == c.id
  let left (p : Nat) : List Nat := (s.liveDies c p).filter fun d => d != die
  if c.control.written && c.dies.contains die then .ended .contextLost
  else if ((s.die die).gates.any fun g => g.ctx == c.id && !g.published) ||
      mine.any fun l => l.pkg == die / 4 && (left l.pkg).isEmpty then .ended .dieLost
  else if mine.any fun l => !l.rec'.reissue && s.launchOn l die then .ended .dieLost
  else .runs

/-- CODE of the record of a context that ends. -/
def EndReason.code : EndReason → Nat
  | .contextLost => codeContextLost
  | _ => codeDieLost

/-- Ends a context, with its record (R372). -/
def State.loseContext (s : State) (ctx : Nat) (why : EndReason) (core pkg addr : Nat) : State :=
  (s.endContext ctx why).recordFault
    { code := why.code, level := 5, ctx := ctx, flags := 1, core := core, pkg := pkg, team := 0, slots := 0, pc := 0
      addr := BitVec.ofNat 64 addr }

/-- Gives runs of ranges to dies: equal parts, the remainder to the lowest. -/
def dealRanges (k r : Nat) : List Nat → Nat → List (Nat × Nat) → List (Nat × List (Nat × Nat))
  | [], _, _ => []
  | d :: ds, i, l =>
    let (x, y) := takeRanges (k + if i < r then 1 else 0) l
    (d, x) :: dealRanges k r ds (i + 1) y

/-- The gangs of the fenced die go to the surviving dies (R371); `placed` are the indices that it had placed, with the
triggers that they have counted: those still count. -/
def State.reissue (s : State) (l : Launch) (die : Nat) (placed : List (Nat × Nat)) : State :=
  match s.ctx? l.ctx with
  | none => s
  | some c =>
    let dies := s.liveDies c l.pkg
    let all := placed.foldl (fun rs i => insertRange (i.1, i.1 + 1) rs) (l.part die)
    let n := rangesLength all
    let deal := dealRanges (n / max 1 dies.length) (n % max 1 dies.length) dies 0 all
    let l := { l with
      parts := l.parts.filter fun p => p.1 != die, triggers := placed.foldl (fun q p => putBy Prod.fst p q) l.triggers }
    s.setLaunch (deal.foldl (fun l (d, rs) => l.setPart d ((l.part d).foldl (fun q r => insertRange r q) rs)) l)

/-! ### The master distributor (R369) -/

/-- The lowest-numbered compute die of a package that passed its power-on test and is not fenced. -/
def State.survivor (s : State) (pkg : Nat) : Option Nat :=
  (List.range 4).find? fun d => Config.diePasses (pkg * 4 + d) && !(s.die (pkg * 4 + d)).fenced

/-- An election starts when the master is fenced, and again when a die is fenced during one. -/
def State.startElection (s : State) (pkg : Nat) : State :=
  let p := s.pkg pkg
  if (s.die (pkg * 4 + p.master)).fenced || p.electing then
    match s.survivor pkg with
    | none => s
    | some d =>
      let s := s.setPkg { p with electing := true }
      (s.sendCrit pkg pkg .elect 0 (some (BitVec.ofNat 64 d))).1
  else s

/-- Each survivor reports afresh to the new master, which reports to the root package. -/
def State.reportAfresh (s : State) (pkg : Nat) : State :=
  s.ctxs.foldl (fun s c =>
    if c.ended = .running ∧ c.places.any (fun x => x.1 == pkg) then
      let s := (s.liveDies c pkg).foldl (fun s d =>
        s.setCtxDie { s.ctxDie c.id d with reported := s.localMin c.id d }) s
      if pkg = c.root then s.acceptReport c.id pkg (s.packageMin c pkg) else s.sendReport c pkg
    else s) s

/-- ELECT: the survivors take the die proposed as their master. -/
def execElect (msg : Nat) (s : State) : Host.Outcome State Fault Refusal :=
  .next (match s.takeCrit msg .elect with
    | (s, none) => s
    | (s, some m) =>
      let d := (m.value.getD 0).toNat % 4
      if (s.pkg m.dst).electing && !(s.die (m.dst * 4 + d)).fenced then
        (s.setPkg { s.pkg m.dst with master := d, electing := false }).reportAfresh m.dst
      else s)

/-! ### Fencing -/

/-- A fenced die holds nothing for any context: no gate slot, record or bin, and it has nothing to report. -/
def State.clearFenced (s : State) (die : Nat) : State :=
  let s := s.setDie { s.die die with gates := [] }
  { s with ctxDies := s.ctxDies.map fun x =>
      if x.die = die then { x with pending := [], bins := [], exits := [], reported := none } else x }

/-- The effects of a fencing on the contexts. -/
def State.settleFates (s : State) (die : Nat) (before : State) : State :=
  before.ctxs.foldl (fun s c =>
    if c.ended ≠ .running then s
    else match before.fate c die with
      | .ended why => s.loseContext c.id why (128 * (die % 4)) (die / 4) (die % 4)
      | .runs =>
        (before.launches.filter fun l => l.ctx == c.id && l.pkg == die / 4).foldl (fun s l =>
          let placed := (before.gangs.filter fun g => g.launch == l.id && g.placed && g.cluster / 32 == die).map fun g => (g.index, g.triggers)
          match s.launch? l.id with
          | some l => (s.reissue l die placed).settleLaunch l.id
          | none => s) s) s

/-- The dirty sectors of the die's slices are written to HBM with their poison; the lines stay (R250). -/
def State.writeBackDie (s : State) (die : Nat) : State :=
  let d := s.die die
  let secs := d.l2.flatMap fun x => ((List.range 4).filter x.dirty.getLsbD).map fun i => 4 * x.line + i
  { s.setDie { d with l2 := d.l2.map fun x => { x with dirty := 0 } } with
    hbmPoison := secs.foldl (fun l x => if s.poison.contains x then insertNat x l else l.filter (· != x)) s.hbmPoison }

/-- Fences a die (R367), after a write-back where that can still be done. -/
def State.fence (s : State) (die : Nat) : State :=
  if (s.die die).fenced then s
  else
    let s := (if Config.writeBackInTime s.tick then s.writeBackDie die else s).bump
    let s' := (((s.stopDie die).cutPorts die).failRequests die).logEvent (die / 4) (.dieFenced die)
    ((s'.settleFates die s).clearFenced die).startElection (die / 4)

/-- HEARTBEAT. -/
def execHeartbeat (die : Nat) (s : State) : Host.Outcome State Fault Refusal :=
  .next (if (s.die die).fenced then s else s.setDie { s.die die with beat := s.cycle (die / 4) })

/-- HEARTBEAT_TIMEOUT: 100 µs without a heartbeat. -/
def execHeartbeatTimeout (die : Nat) (s : State) : Host.Outcome State Fault Refusal :=
  .next (if (s.die die).fenced then s
    else (s.clockTo (die / 4) ((s.die die).beat + 100 * Config.cyclesPerUs)).fence die)

/-- DIE_FATAL_ERROR. -/
def execDieFatalError (die : Nat) (s : State) : Host.Outcome State Fault Refusal := .next (s.fence die)

/-! ### A lost root (R386) -/

/-- ROOT_LOST: a package has had no REPORT_ACK from a root for 1 ms, whatever context its REPORTs were for. -/
def execRootLost (pkg root : Nat) (s : State) : Host.Outcome State Fault Refusal :=
  let mine := s.ctxs.filter fun c => c.ended == .running && c.root == root
  let waits := mine.filterMap fun c =>
    let x := s.ctxPkg c.id pkg
    if x.unacked.isEmpty then none else some x.openSince
  let last := (mine.map fun c => (s.ctxPkg c.id pkg).ackedAt).foldl max 0
  .next (match minOf waits with
    | none => s
    | some n =>
      if pkg = root then s
      else mine.foldl (fun s c => s.loseContext c.id .contextLost 0 root 0) (s.clockTo pkg (max n last + 1000 * Config.cyclesPerUs)))

/-! ### 115 °C (R432) -/

/-- THERMAL_SHUTDOWN: every compute die of the package stops, and every context on it ends. -/
def execThermalShutdown (pkg : Nat) (s : State) : Host.Outcome State Fault Refusal :=
  let dies := ((List.range 4).map (pkg * 4 + ·)).filter fun d => !(s.die d).fenced
  .next (if dies.isEmpty then s
    else
      let s' := (dies.foldl (fun s d => ((s.stopDie d).cutPorts d).failRequests d) s).logEvent pkg .thermal
      let lost := s.ctxs.filter fun c => c.ended == .running && c.places.any fun x => x.1 == pkg
      dies.foldl State.clearFenced (lost.foldl (fun s c => s.loseContext c.id .thermal 0 pkg 0) s'))

/-! ### The write-back of a die (R250) -/

/-- DIE_WRITEBACK: the dirty sectors of the die's slices are written to HBM. -/
def execDieWriteback (die : Nat) (s : State) : Host.Outcome State Fault Refusal :=
  .next (if (s.die die).fenced then s
    else s.writeBackDie die)

end Sys2Proof.Machine
end

