-- ==== Sys2Proof/Machine/Host.lean ====
section
/-! DEFINITION. What the driver and the power manager do: windows of energy, contexts, launches, tables, and the accesses
of adapters (17 R338, R339, R341, 20 R388, 21 R408, 24 R423 to R425, R431, R432). -/
namespace Sys2Proof.Machine

/-! ### Energy windows (R338, R339, R431, R432) -/

/-- The limit after its thermal steps of 75 %. -/
def Control24.effective (c : Control24) : Nat := c.limit * 3 ^ c.cuts / 4 ^ c.cuts

/-- A change of the limit takes effect; the thermal steps follow the sensors. -/
def Control24.rollover (c : Control24) (celsius : Nat) : Control24 :=
  { c with
    celsius := celsius
    limit := c.newLimit.getD c.limit, newLimit := none
    cuts := if 95 ≤ celsius then c.cuts + 1 else if celsius < 90 then c.cuts - 1 else c.cuts }

/-- A of the new window before scaling. -/
def CtxPkg.nextAllowance (c : CtxPkg) : Nat := c.newAllowance.getD c.allowance

/-- Every allowance scaled by limit / sum where the sum exceeds the limit. -/
def scaleAllowance (limit sum a : Nat) : Nat := if limit < sum then a * limit / sum else a

/-- B ← A + min(B, 0). -/
def CtxPkg.rollover (c : CtxPkg) (a : Nat) : CtxPkg :=
  { c with allowance := a, newAllowance := none, budget := a + min c.budget 0 }

/-- A team whose estimate exceeds A is placed at a rollover when it is first in order. -/
def State.placeLarge (s : State) (die : Nat) : State :=
  match firstWork (s.readyWork die) with
  | some w => if (s.ctxPkg w.ctx (die / 4)).allowance < w.estimate then s.placeWork die w else s
  | none => s

/-- Boot of the package has failed at a stage: it performs nothing else (R427). -/
def State.halted (s : State) (pkg : Nat) : Bool := (s.pkg pkg).ctl.halted.isSome

/-- WINDOW_ROLLOVER, with the highest reading of the junction sensors. -/
def execWindowRollover (pkg celsius : Nat) (s : State) : Host.Outcome State Fault Refusal :=
  if s.halted pkg then .next s
  else
  let due := (s.pkg pkg).window + windowCycles
  let s := s.clockTo pkg due
  let p := s.pkg pkg
  let ctl := p.ctl.rollover celsius
  let s := s.setPkg { p with window := due, ctl := ctl }
  let sum := ((s.ctxPkgs.filter fun c => c.pkg == pkg).map CtxPkg.nextAllowance).sum
  let s : State := { s with ctxPkgs := s.ctxPkgs.map fun c =>
    if c.pkg = pkg then c.rollover (scaleAllowance ctl.effective sum c.nextAllowance) else c }
  .next (((List.range 4).map (pkg * 4 + ·)).foldl State.placeLarge s)

/-- SET_ALLOWANCE: it takes effect at the next rollover. -/
def execSetAllowance (pkg ctx nj : Nat) (s : State) : Host.Outcome State Fault Refusal :=
  .next (match s.ctx? ctx with
    | none => s
    | some c => if !s.halted pkg && c.places.any fun x => x.1 == pkg then s.setCtxPkg { s.ctxPkg ctx pkg with newAllowance := some nj } else s)

/-! ### Creating a context (R423) -/

/-- Stages 1 and 2 of boot have passed: the package's dies are out of reset (R426). -/
def State.booted (s : State) (pkg : Nat) : Bool :=
  let c := (s.pkg pkg).ctl
  c.powered && c.halted.isNone && c.passed.contains 2

def rising : List Nat → Bool
  | a :: b :: l => decide (a < b) && rising (b :: l)
  | _ => true

def mib : Nat := 1048576

/-- Zeroes a window of a die scratchpad. -/
def Ram.zero (r : Ram) (base size : Nat) : Ram :=
  { r with
    cells := r.cells.filter fun c => !(decide (base ≤ c.1) && decide (c.1 < base + size))
    poison := r.poison.filter fun x => !(decide (base ≤ r.grain * x) && decide (r.grain * x < base + size)) }

/-- The window of a die, in bytes. -/
def windowOf (r : CreateReq) (die : Nat) : Nat × Nat :=
  match r.windows.find? fun w => w.1 == die with
  | some (_, b, n) => (b * mib, n * mib)
  | none => (0, 0)

/-- The window lies in the die's 32 MiB and meets no other context's (R252). -/
def State.windowOk (s : State) (r : CreateReq) (die : Nat) : Bool :=
  let (b, n) := windowOf r die
  decide (b + n ≤ 32 * mib) && s.ctxDies.all fun x =>
    x.die != die || n == 0 || x.winSize == 0 || decide (b + n ≤ x.winBase) || decide (x.winBase + x.winSize ≤ b)

/-- The near shares of a die's contexts stay within its 262,144 places (R298). -/
def State.shareOk (s : State) (r : CreateReq) (die : Nat) : Bool :=
  decide (((s.ctxDies.filter fun x => x.die == die).map CtxDie.share).sum + r.share ≤ 262144)

/-- Bytes of a deep-store region: 2 MiB for each run of DEEPLIM (R352). -/
def deepBytes : Nat := 2 * mib * ({} : Control).deepLim

/-- The deep-store regions of a die's contexts fit into its HBM. -/
def State.deepOk (s : State) (die : Nat) : Bool :=
  decide (((s.ctxDies.filter fun x => x.die == die).map CtxDie.deep).sum + deepBytes ≤ 2 ^ 37)

/-- What is left of the power limit of a package beside the allowances of its contexts. -/
def State.allowanceLeft (s : State) (p : Nat) : Nat :=
  (s.pkg p).ctl.effective - ((s.ctxPkgs.filter fun c => c.pkg == p).map CtxPkg.allowance).sum

/-- The deadline lies between 1 µs and 10 ms, the age threshold between 256 ns and 64 µs (R335, R391). -/
def timesOk (r : CreateReq) : Bool :=
  decide (Config.cyclesPerUs ≤ r.deadline) && decide (r.deadline ≤ 10000 * Config.cyclesPerUs) &&
    decide (256 ≤ r.ageNs) && decide (r.ageNs ≤ 64000)

/-- No other context has the id, or the number on one of the packages (R12, R423). -/
def State.numberFree (s : State) (r : CreateReq) : Bool :=
  s.ctxs.all fun c => c.id != r.ctx && (c.id % 64 != r.ctx % 64 || !c.places.any fun x => (r.places.map Prod.fst).contains x.1)

/-- The request names a free number, packages of one domain that have booted, and dies of them, all in rising order,
with what they can give. -/
def State.createOk (s : State) (r : CreateReq) : Bool :=
  s.numberFree r && r.oneDomain && timesOk r && !r.places.isEmpty && rising (r.places.map Prod.fst) &&
    r.places.all fun (p, ds) => decide (p < 512) && s.booted p && !ds.isEmpty && rising ds && ds.all fun d =>
      decide (d < 4) && s.windowOk r (p * 4 + d) && s.shareOk r (p * 4 + d) && s.deepOk (p * 4 + d)

/-- What the context holds on one die. -/
def State.createDie (s : State) (r : CreateReq) (die : Nat) : State :=
  let (b, n) := windowOf r die
  let d := s.die die
  (s.setDie { d with ram := d.ram.zero b n }).setCtxDie
    { ctx := r.ctx, die := die, winBase := b, winSize := n, share := r.share, deep := deepBytes }

/-- CONTEXT_CREATE: Table 24.1. Until the next rollover the allowance is at most what is left of the package's limit, so that the
sum of all stays within it: DESIGN CHOICE (R338, R431; notes/assumptions/10). -/
def execContextCreate (req : CreateReq) (s : State) : Host.Outcome State Fault Refusal :=
  .next (if !s.createOk req then s
    else
      let c : Ctx :=
        { id := req.ctx, places := req.places, ptRoot := req.ptRoot.toNat, diag := req.diag, saveArea := req.saveArea
          classTable := req.classTable, ageNs := req.ageNs, deadline := req.deadline }
      let s : State := { s with ctxs := s.ctxs ++ [c] }
      let s := req.places.foldl (fun (s : State) x =>
        let a := min req.allowance (s.allowanceLeft x.1)
        s.setCtxPkg { ctx := req.ctx, pkg := x.1, allowance := a, budget := a
                      newAllowance := if a = req.allowance then none else some req.allowance }) s
      c.dies.foldl (fun s d => s.createDie req d) s)

/-! ### Ending a context (R425) -/

/-- An engine thread of the context runs: a command, or a blotter element (R353). -/
def State.engineBusy (s : State) (ctx : Nat) : Bool :=
  s.dies.any fun d => (d.cmds.any fun c => c.ctx == ctx) || (d.routes.any fun c => c.ctx == ctx) ||
    ((d.blotters ++ d.resend).any fun b => b.ctx == ctx) || d.packets.any fun p => p.ctx == ctx

def L1Line.forget (ctx : Nat) (l : L1Line) : L1Line := { l with maps := l.maps.filter fun m => m.1 != ctx }

/-- Gate slots, bins, queues, windows and shares are free, and the lines of its pages are dropped. -/
def State.freeContext (s : State) (ctx : Nat) : State :=
  { s with
    ctxs := delBy Ctx.id ctx s.ctxs
    ctxPkgs := s.ctxPkgs.filter fun c => c.ctx != ctx
    ctxDies := s.ctxDies.filter fun c => c.ctx != ctx
    dies := s.dies.map fun d => { d with gates := d.gates.filter fun g => g.ctx != ctx }
    cores := s.cores.map fun c => { c with l1 := (c.l1.map (L1Line.forget ctx)).filter fun l => !l.maps.isEmpty } }

/-- CONTEXT_END: dispatch stops and the teams are terminated; once no engine thread runs, the rest is freed. -/
def execContextEnd (ctx : Nat) (s : State) : Host.Outcome State Fault Refusal :=
  .next (match s.ctx? ctx with
    | none => s
    | some c =>
      let s := if c.ended = .running then s.endContext ctx .driver else s
      if s.engineBusy ctx then s else s.freeContext ctx)

/-! ### What the driver reads and writes in a context's memory -/

/-- A walk of the control die, which has no walk cache. -/
def State.hostWalk (s : State) (ctx va : Nat) (kind : AccKind) : WalkResult :=
  match s.ctx? ctx with
  | none => .fatal
  | some c => (walkFrom s (fun _ => true) (fun _ => none) va kind 4 c.ptRoot).result

/-- Physical pieces of a global access of the control die, or what a page or a fenced die denies. -/
def State.hostPieces (s : State) (ctx : Nat) (kind : AccKind) : List (Nat × Nat) → Except Denied (List (Nat × Nat × Nat))
  | [] => .ok []
  | (va, n) :: ps =>
    match s.hostWalk ctx va kind with
    | .ok pa _ _ =>
      if s.fencedAt pa then .error (.fault codeDieLost)
      else (s.hostPieces ctx kind ps).map fun l => (va, pa, n) :: l
    | .replay => .error (.replay va)
    | .fatal => .error (.fault codeTranslation)
    | .permission => .error (.fault codePermission)
    | .lost => .error (.fault codeDieLost)
    | .down => .error (.fault codeLinkDown)

def State.hostAccess (s : State) (ctx va n : Nat) (kind : AccKind) : Except Denied (List (Nat × Nat × Nat)) :=
  if 2 ^ 57 < va + n then .error (.fault codeTranslation) else s.hostPieces ctx kind (linePieces (n / 128 + 2) va n)

/-- Bytes of the context's memory, which a poisoned one denies too. -/
def State.hostRead (s : State) (ctx va n : Nat) : Except Denied (List Byte) :=
  match s.hostAccess ctx va n .read with
  | .error e => .error e
  | .ok ps =>
    if ps.any fun (_, pa, k) => s.homePoisoned pa k then .error (.fault codePoison)
    else .ok (ps.flatMap fun (_, pa, k) => s.homeRead pa k)

/-! ### Launches of the driver (R424) -/

/-- How far a launch of the driver gets. -/
inductive HostTry where
  | placed (s : State)
  | failed (code : Nat) (j2 : Word)
  /-- It waits for the driver's own resolution of its page, or for room in its queue. -/
  | waits (s : State) (h : HostLaunch)

/-- The checks and effects of `launch` with the driver's queue number (R330). -/
def State.tryHostLaunch (s : State) (ctx pkg : Nat) (h : HostLaunch) : HostTry :=
  let place (s : State) (r : QRec) : HostTry := match s.enqueueLaunch ctx pkg r h.queue with
    | some s => .placed s
    | none => .waits s { h with rec' := some r }
  match h.rec' with
  | some r => place s r
  | none =>
    if h.record % 128 ≠ 0 then .failed codeMisaligned (BitVec.ofNat 32 h.record)
    else match s.hostRead ctx h.record 128 with
      | .error (.replay _) => .waits s h
      | .error (.fault code) => .failed code (BitVec.ofNat 32 h.record)
      | .ok bs =>
        if 2 ^ 32 ≤ h.queue then .failed codeBounds (BitVec.ofNat 32 h.queue)
        else match s.checkLaunch ctx pkg bs h.record (BitVec.ofNat 32 h.queue) with
          | .inl j2 => .failed codeBounds j2
          | .inr r => place (match r.wgate with | some g => s.attachGate g | none => s) ⟨r, r.wgate.isSome, none⟩

/-- A failure of a launch of the driver is reported to it. -/
def State.answerHost (s : State) (ctx code : Nat) (j2 : Word) : State :=
  match s.ctx? ctx with
  | some c => s.setCtx { c with hostAnswer := some (code, j2) }
  | none => s

/-- Launches of the driver go as far as they can, in their order; of one that fails nothing is enqueued. Those that wait stay. -/
def State.tryHostLaunches (s : State) (ctx pkg : Nat) : List HostLaunch → State × List HostLaunch
  | [] => (s, [])
  | h :: l =>
    match s.tryHostLaunch ctx pkg h with
    | .placed s => s.tryHostLaunches ctx pkg l
    | .failed code j2 => (s.answerHost ctx code j2).tryHostLaunches ctx pkg l
    | .waits s h => let (s, l) := s.tryHostLaunches ctx pkg l; (s, h :: l)

/-- The launches of the driver that wait for a package. -/
def State.settleHostLaunch (s : State) (ctx pkg : Nat) : State :=
  let l := (s.ctxPkg ctx pkg).hostLaunches
  if l.isEmpty || s.halted pkg then s
  else
    let (s, l) := if (s.ctx? ctx).any fun c => c.ended == .running then s.tryHostLaunches ctx pkg l else (s, [])
    s.setCtxPkg { s.ctxPkg ctx pkg with hostLaunches := l }

def State.settleHostLaunches (s : State) : State :=
  (s.ctxPkgs.filter fun c => !c.hostLaunches.isEmpty).foldl (fun s c => s.settleHostLaunch c.ctx c.pkg) s

/-- HOST_LAUNCH. -/
def execHostLaunch (ctx pkg queue record : Nat) (s : State) : Host.Outcome State Fault Refusal :=
  .next (match s.ctx? ctx with
    | some c =>
      if c.ended ≠ .running ∨ !c.places.any (fun x => x.1 == pkg) ∨ s.halted pkg then s
      else
        let cp := s.ctxPkg ctx pkg
        (s.setCtxPkg { cp with hostLaunches := cp.hostLaunches ++ [{ queue := queue, record := record }] }).settleHostLaunch ctx pkg
    | none => s)

/-- DRIVER_ROUTE_TABLE_WRITE: entries from an image in the context's memory. -/
def execDriverRouteTableWrite (ctx first count image : Nat) (s : State) : Host.Outcome State Fault Refusal :=
  .next (match s.ctx? ctx, s.hostRead ctx image (32 * count) with
    | some c, .ok bs =>
      let checks := (List.range count).flatMap fun i => routeChecks c bs (32 * i)
      if 256 < first + count ∨ (firstBad checks).isSome then s
      else s.setCtx ((List.range count).foldl (fun c i => c.setRoute (first + i) ((bs.drop (32 * i)).take 32)) c)
    | _, _ => s)

/-- DRIVER_FAULT_QUEUE_READ: the oldest record leaves the queue, and the lost flag is clear. -/
def execDriverFaultQueueRead (ctx : Nat) (s : State) : Host.Outcome State Fault Refusal :=
  .next (match s.ctx? ctx with
    | none => s
    | some c => s.setCtx { c with faultQ := c.faultQ.drop 1, lost := false })

/-- ADAPTER_ACCESS: a write is performed at its home as an unbound access of the control die; a read changes nothing. -/
def execAdapterAccess (req : AdapterReq) (s : State) : Host.Outcome State Fault Refusal :=
  let n := if req.data.isEmpty then req.len else req.data.length
  .next (match s.hostAccess req.ctx req.va n (if req.data.isEmpty then .read else .write) with
    | .ok ps => if req.data.isEmpty then s
      else (pieceBytes ps req.data).foldl (fun s (_, pa, b) => (s.homeWrite pa b).clearPoison ((List.range b.length).map (pa + ·))) s
    | .error _ => s)

end Sys2Proof.Machine
end

