-- ==== Sys2Proof/Machine/Boot.lean ====
section
/-! DEFINITION. Power-on, boot, the sideband and the management port (20 R377, R381, 24 R426 to R437). -/
namespace Sys2Proof.Machine

/-- The package has power and its boot has not halted: a stage that fails performs nothing else (R427). -/
def Control24.alive (c : Control24) : Bool := c.powered && c.halted.isNone

def State.setCtl (s : State) (pkg : Nat) (c : Control24) : State := s.setPkg { s.pkg pkg with ctl := c }

/-- A step of the control die, which takes place while it is alive. -/
def control (pkg : Nat) (s : State) (f : Control24 → State) : Host.Outcome State Fault Refusal :=
  let c := (s.pkg pkg).ctl
  .next (if c.alive then f c else s)

/-! ### Power-on and boot (R369, R426 to R428) -/

/-- Every compute die of a package stops, and its ports are cut. -/
def State.stopPackage (s : State) (pkg : Nat) : State :=
  ((List.range 4).map (pkg * 4 + ·)).foldl (fun s d => ((s.stopDie d).cutPorts d).failRequests d) s

/-- A package loses its power: its contexts end, and its memories and caches hold nothing (notes/assumptions/26). -/
def State.powerOff (s : State) (pkg : Nat) : State :=
  let lost := s.ctxs.filter fun c => c.ended == .running && c.places.any fun x => x.1 == pkg
  let s := lost.foldl (fun s c => s.loseContext c.id .dieLost 0 pkg 0) (s.stopPackage pkg)
  let here (sector : Nat) : Bool := homeDie (32 * sector) / 4 == pkg
  { s with
    mem := s.mem.filter fun c => homeDie c.1 / 4 != pkg
    poison := s.poison.filter fun x => !here x, hbmPoison := s.hbmPoison.filter fun x => !here x
    dies := s.dies.filter fun d => d.id / 4 != pkg, clusters := s.clusters.filter fun c => c.id / 128 != pkg
    cores := s.cores.filter fun c => c.id / 512 != pkg, crit := s.crit.filter fun m => m.src != pkg && m.dst != pkg }

/-- PACKAGE_POWER_ON: boot starts from ROM, the measurement registers are zero, the images stored for this boot take effect,
and the master is the lowest-numbered die that passes its power-on test. A package that has power goes through a power cycle:
DESIGN CHOICE, since no step of the table takes power away (R428, R434; notes/assumptions/26). -/
def execPackagePowerOn (pkg : Nat) (s : State) : Host.Outcome State Fault Refusal :=
  let s := if (s.pkg pkg).ctl.powered then s.powerOff pkg else s
  let p := s.pkg pkg
  .next (s.setPkg { p with
    master := ((List.range 4).find? fun d => Config.diePasses (pkg * 4 + d)).getD 0
    ctl := { p.ctl with
      powered := true, passed := [], halted := none, measures := Vector.replicate 8 0, boot := p.ctl.stored
      staging := [], connected := false, presented := none, answer := none } })

/-- The 48 bytes of a digest. -/
def digestBytes (d : BitVec 384) : List Byte := (List.range 48).map fun i => d.extractLsb' (8 * (47 - i)) 8

/-- The first condition of R427 that an image does not meet. -/
def imageFailure (pkg : Nat) (i : Image) : Option BootFailure :=
  if !Config.ed25519 i.edKey i.bytes i.edSig then some .edSignature
  else if !Config.mlDsa i.mlKey i.bytes i.mlSig then some .mlSignature
  else if Config.sha384 i.edKey ≠ Config.fusedEd pkg then some .edKey
  else if Config.sha384 i.mlKey ≠ Config.fusedMl pkg then some .mlKey
  else if i.version < (Config.rollback pkg).toNat then some .rollback
  else none

/-- The stage that checks a stage has passed (Table 24.2); stage 0 is the ROM. -/
def Control24.mayCheck (c : Control24) (stage : Nat) : Bool :=
  !c.passed.contains stage &&
    match stage with
    | 1 => true
    | 2 => c.passed.contains 1
    | 3 | 4 => c.passed.contains 2
    | _ => false

/-- m ← SHA-384(m ‖ SHA-384(image)). -/
def extendMeasure (m : BitVec 384) (image : List Byte) : BitVec 384 :=
  Config.sha384 (digestBytes m ++ digestBytes (Config.sha384 image))

/-- Extends one measurement register. -/
def Control24.extend (c : Control24) (i : Nat) (bytes : List Byte) : Control24 :=
  { c with measures := c.measures.setIfInBounds i (extendMeasure ((c.measures[i]?).getD 0) bytes) }

/-- Stage 2 extends registers 4 to 7 with the configuration that it chooses. -/
def Control24.configured (c : Control24) (pkg : Nat) : Control24 :=
  [4, 5, 6, 7].foldl (fun c i => c.extend i (Config.bootConfig pkg i)) c

/-- The image is the one that this boot runs: the one stored before it, where there is one (R434). -/
def Control24.runs (c : Control24) (image : Image) : Bool :=
  match getBy Prod.fst image.stage c.boot with
  | some (_, i) => i == image
  | none => true

/-- BOOT_STAGE: an image is checked and measured before it runs. A failure halts boot; dies that are out of reset stop (R426,
R427; notes/assumptions/26). -/
def execBootStage (pkg : Nat) (image : Image) (s : State) : Host.Outcome State Fault Refusal :=
  control pkg s fun c =>
    if !c.mayCheck image.stage || !c.runs image then s
    else match imageFailure pkg image with
      | some f => (if 2 < image.stage then s.stopPackage pkg else s).setCtl pkg { c with halted := some (image.stage, f) }
      | none =>
        let c := { c with passed := c.passed ++ [image.stage] }.extend (image.stage - 1) image.bytes
        s.setCtl pkg (if image.stage = 2 then c.configured pkg else c)

/-! ### The sideband (R431, R433, R435) -/

/-- What a baseboard controller reads. -/
structure BoardView where
  celsius : Nat
  passed : List Nat
  halted : Option (Nat × BootFailure)
  /-- Events recorded at levels 4 to 6. -/
  faults : List MgmtEvent
  /-- Errors corrected in place, by die (R264). -/
  corrected : List Nat
  deriving DecidableEq, Repr

/-- The sensors, the state of boot and the fault summaries of a package (R427, R433). A read changes nothing. -/
def State.boardView (s : State) (pkg : Nat) : BoardView :=
  let c := (s.pkg pkg).ctl
  { celsius := c.celsius, passed := c.passed, halted := c.halted, faults := c.log.filter fun e => decide (4 ≤ e.level)
    corrected := (List.range 4).map fun d => (s.die (pkg * 4 + d)).corrected }

/-- SET_POWER_LIMIT: lower than the default; it takes effect at the next rollover. -/
def execSetPowerLimit (pkg limit : Nat) (s : State) : Host.Outcome State Fault Refusal :=
  control pkg s fun c => if limit ≤ Config.powerLimit then s.setCtl pkg { c with newLimit := some limit } else s

/-- PORT_ENABLE. -/
def execPortEnable (pkg port : Nat) (s : State) : Host.Outcome State Fault Refusal :=
  control pkg s fun _ => if port < 32 then s.setPort pkg { s.port pkg port with enabled := true } else s

/-- PORT_DISABLE: the link goes down. -/
def execPortDisable (pkg port : Nat) (s : State) : Host.Outcome State Fault Refusal :=
  control pkg s fun _ =>
    if port < 32 then
      let s := s.linkDown pkg port
      s.setPort pkg { s.port pkg port with enabled := false }
    else s

/-- SET_MGMT_ADDRESS. -/
def execSetMgmtAddress (pkg : Nat) (ipv6 : BitVec 128) (ipv4 : BitVec 32) (s : State) :
    Host.Outcome State Fault Refusal :=
  control pkg s fun c => s.setCtl pkg { c with ipv6 := ipv6, ipv4 := ipv4 }

/-- SET_TRUST_LIST: up to 8 digests. -/
def execSetTrustList (pkg : Nat) (digests : List (BitVec 384)) (s : State) : Host.Outcome State Fault Refusal :=
  control pkg s fun c => if digests.length ≤ 8 then s.setCtl pkg { c with trust := digests } else s

/-- LINK_TRAINING: after stage 2, an enabled port of a die that is not fenced comes up with SEQ 0 in both directions. -/
def execLinkTraining (pkg port : Nat) (s : State) : Host.Outcome State Fault Refusal :=
  let q := s.port pkg port
  .next (if !s.booted pkg || q.up || !q.enabled || 32 ≤ port || (s.die (pkg * 4 + port / 8)).fenced then s
    else s.setPort pkg ({ q with
      up := true, sentSeq := 0, goodSeq := 0, ackSeq := 0, nak := false, resends := 0, ackAt := s.cycle pkg
      exhausted := none, tagFailed := false, packetSeq := 0, packetCount := q.received
      sendArmed := false, recvArmed := false }.announceKey (s.cycle pkg)))

/-! ### The management port (R434 to R437) -/

/-- The port answers an ICMP echo, or a neighbour discovery, for one of its two addresses (R435). -/
def Control24.answersFor (c : Control24) (address : BitVec 128 ⊕ BitVec 32) : Bool :=
  c.alive && match address with
    | .inl a => a == c.ipv6
    | .inr a => a == c.ipv4

/-- TLS_CONNECT: the device presents the certificate of its identity; a connection that fails a check is closed before any
message is read. -/
def execTlsConnect (pkg : Nat) (attempt : TlsAttempt) (s : State) : Host.Outcome State Fault Refusal :=
  control pkg s fun c =>
    if attempt.port = 4810 ∧ attempt.fullDuplex1000 ∧ attempt.tls13 ∧ attempt.suiteOk ∧ c.trust.contains attempt.clientDigest then
      s.setCtl pkg { c with connected := true, presented := some (Config.identityKey pkg) }
    else s

/-- A request, which is read within a connection. -/
def request (pkg : Nat) (s : State) (f : Control24 → State) : Host.Outcome State Fault Refusal :=
  control pkg s fun c => if c.connected then f c else s

/-- STATUS. -/
def Control24.status (c : Control24) (tag : Word) (code : Nat) : Control24 := { c with answer := some (.status tag code) }

/-- STATUS 2, and the connection is closed. -/
def Control24.badRequest (c : Control24) (tag : Word) : Control24 := { c.status tag 2 with connected := false, presented := none }

/-- MAGIC of a management message: the bytes "VMGT". -/
def mgmtMagic : Word := 0x54474D56

/-- LENGTH of a message that a requester may send lies in the range of its type (Table 24.6). -/
def mgmtLengthOk (type length : Nat) : Bool :=
  match type with
  | 1 => length == 32
  | 3 => decide (17 ≤ length) && decide (length ≤ 16 + 65536)
  | 4 => length == 16
  | 5 => length == 48
  | _ => false

/-- The header is one that the device accepts (R436): a MAGIC, a TYPE that a requester may send, reserved bytes of zero, a LENGTH
of its range. -/
def headerOk (h : MgmtHeader) : Bool :=
  h.magic == mgmtMagic && h.rsv == 0 && h.bodyZero && mgmtLengthOk h.type.toNat h.length.toNat

/-- A message of the device: its header, then its body (Table 24.5). -/
def mgmtMessage (type : Nat) (tag : Word) (body : List Byte) : List Byte :=
  leBytes 4 mgmtMagic.toNat ++ leBytes 2 type ++ leBytes 2 0 ++ leBytes 4 body.length ++ leBytes 4 tag.toNat ++ body

/-- The message that carries an answer. -/
def answerMessage : MgmtAnswer → List Byte
  | .status tag code => mgmtMessage 6 tag (leBytes 4 code)
  | .report tag bytes => mgmtMessage 2 tag bytes

/-- Exactly `n` bytes. -/
def padTo (n : Nat) (l : List Byte) : List Byte := (l ++ List.replicate n 0).take n

/-- Bytes 0 to 511 of a report (Table 24.3). -/
def reportHead (pkg : Nat) (c : Control24) (nonce : BitVec 256) : List Byte :=
  padTo 512 (leBytes 4 1 ++ leBytes 4 1 ++ leBytes 8 (Config.serial pkg).toNat ++ leBytes 32 nonce.toNat ++
    c.measures.toList.flatMap digestBytes ++ leBytes 4 (Config.rollback pkg).toNat ++
    leBytes 4 (if Config.debugOff pkg then 1 else 0))

/-- The report of 3,888 bytes: both signatures cover bytes 0 to 511. -/
def reportBytes (pkg : Nat) (head : List Byte) : List Byte :=
  head ++ padTo 64 (Config.attestEd pkg head) ++ padTo 3309 (Config.attestMl pkg head) ++ List.replicate 3 0

/-- ATTEST. -/
def execAttest (pkg : Nat) (tag : Word) (nonce : BitVec 256) (s : State) : Host.Outcome State Fault Refusal :=
  request pkg s fun c => s.setCtl pkg { c with answer := some (.report tag (reportBytes pkg (reportHead pkg c nonce))) }

/-- The staging buffer of a stage. -/
def Control24.stagingOf (c : Control24) (stage : Nat) : Mem := ((getBy Prod.fst stage c.staging).map Prod.snd).getD []

/-- FWCHUNK. -/
def execFwchunk (pkg : Nat) (tag : Word) (stage offset : Nat) (bytes : List Byte) (s : State) :
    Host.Outcome State Fault Refusal :=
  request pkg s fun c =>
    s.setCtl pkg
      (if bytes.isEmpty ∨ 65536 < bytes.length ∨ stage = 0 ∨ 4 < stage then c.badRequest tag
       else { c with staging := putBy Prod.fst (stage, (c.stagingOf stage).write offset bytes) c.staging }.status tag 0)

/-- FWCOMMIT: the staged bytes, with the keys, signatures and version that the image carries. -/
def execFwcommit (pkg : Nat) (tag : Word) (stage total : Nat) (image : Image) (s : State) :
    Host.Outcome State Fault Refusal :=
  request pkg s fun c =>
    let i := { image with stage := stage, bytes := (c.stagingOf stage).read 0 total }
    s.setCtl pkg
      (if stage = 0 ∨ 4 < stage then c.badRequest tag
       else if (imageFailure pkg i).isSome then c.status tag 1
       else { c with stored := putBy Prod.fst (stage, i) c.stored }.status tag 0)

/-- Stages a key for both directions; a key-exchange flit names its start to the other end, at once or when the link is up and
has room. -/
def Port.stage (q : Port) (key : LinkKey) (now : Nat) : Port :=
  ({ q with sendStaged := some key, recvStaged := some key, sendArmed := false, recvArmed := false }.announceKey now).installSend

/-- LINKKEY: busy while an earlier key of the port is staged. -/
def execLinkkey (pkg : Nat) (tag : Word) (port : Nat) (key : LinkKey) (s : State) : Host.Outcome State Fault Refusal :=
  request pkg s fun c =>
    let q := s.port pkg port
    if 32 ≤ port then s.setCtl pkg (c.badRequest tag)
    else if q.sendStaged.isSome ∨ q.recvStaged.isSome then s.setCtl pkg (c.status tag 3)
    else (s.setPort pkg (q.stage key (s.cycle pkg))).setCtl pkg (c.status tag 0)

/-- BAD_REQUEST: a message whose header the device does not accept; TAG is echoed. -/
def execBadRequest (pkg : Nat) (header : MgmtHeader) (s : State) : Host.Outcome State Fault Refusal :=
  request pkg s fun c => if headerOk header then s else s.setCtl pkg (c.badRequest header.tag)

end Sys2Proof.Machine
end

