-- ==== Sys2Proof/Machine/Float.lean ====
section
/-! DEFINITION. Floating point, special functions and conversion, opcodes 0x20 to 0x42 (06 R122 to R131). -/
namespace Sys2Proof.Machine

/-! ### Elements and modifiers (R54, R123) -/

/-- Format of the elements of a type. -/
def elemFmt : FType → Fmt
  | .bf16x2 => bf16
  | .f16x2 => fp16
  | _ => fp32

/-- Elements of a register. -/
def fElems (ty : FType) (w : Word) : List Nat :=
  match ty with
  | .bf16x2 | .f16x2 => [(w.extractLsb' 0 16).toNat, (w.extractLsb' 16 16).toNat]
  | _ => [w.toNat]

def fWord (ty : FType) (l : List Nat) : Word :=
  match ty with
  | .bf16x2 | .f16x2 => BitVec.ofNat 32 (l.foldr (fun x acc => x + 2 ^ 16 * acc) 0)
  | _ => BitVec.ofNat 32 (l.head?.getD 0)

/-- |a| and −a: the sign bit only; a NaN stays one. -/
def modA (x : FpOp) (v : Ex) : Ex :=
  let v := if x.absA then v.abs else v
  if x.negA then v.neg else v
def modB (x : FpOp) (v : Ex) : Ex := if x.negB then v.neg else v

def fValsA (x : FpOp) (r : Src) : List Ex := (fElems x.ty (r.a 0)).map fun e => modA x ((elemFmt x.ty).decode e)
def fValsB (x : FpOp) (r : Src) : List Ex := (fElems x.ty (r.b 0)).map fun e => modB x ((elemFmt x.ty).decode e)
def fValsC (x : FpOp) (r : Src) : List Ex := (fElems x.ty (r.c 0)).map (elemFmt x.ty).decode

/-- Joins the elements' bits and ORs their flags. -/
def joinElems (ty : FType) (l : List (Nat × Flags)) : List Word × Flags :=
  ([fWord ty (l.map Prod.fst)], l.foldl (fun f e => f ||| e.2) 0)

def execFp (i : Instr) (x : FpOp) (cls : Nat) (s : State) (f : Src → List Word × Flags) :
    Host.Outcome State Fault Refusal := execLane i x.ops (fun k => if k = 0 then immFp x.ty x.imm else 0) cls s f

def fMap1 (x : FpOp) (f : Fmt → Ex → Nat × Flags) (r : Src) : List Word × Flags :=
  joinElems x.ty ((fValsA x r).map (f (elemFmt x.ty)))
def fMap2 (x : FpOp) (f : Fmt → Ex → Ex → Nat × Flags) (r : Src) : List Word × Flags :=
  joinElems x.ty (List.zipWith (f (elemFmt x.ty)) (fValsA x r) (fValsB x r))
def fMap3 (x : FpOp) (f : Fmt → Ex → Ex → Ex → Nat × Flags) (r : Src) : List Word × Flags :=
  joinElems x.ty (List.zipWith (fun ab c => f (elemFmt x.ty) ab.1 ab.2 c)
    (List.zip (fValsA x r) (fValsB x r)) (fValsC x r))

/-- Elements 0 and 1 of A and B, and a register read as FP32. -/
def two (l : List Ex) : Ex × Ex :=
  match l with
  | [a, b] => (a, b)
  | _ => (.nan, .nan)
def f32Of (get : Nat → Word) : Ex := fp32.decode (get 0).toNat

/-! ### Meanings -/

def execFadd (x : FpOp) (s : State) := execFp (.fadd x) x 3 s (fMap2 x fun f a b => fAdd f x.rnd a b)
def execFsub (x : FpOp) (s : State) := execFp (.fsub x) x 3 s (fMap2 x fun f a b => fAdd f x.rnd a b.neg)
def execFmul (x : FpOp) (s : State) := execFp (.fmul x) x 3 s (fMap2 x fun f a b => fMul f x.rnd a b)
def execFfma (x : FpOp) (s : State) := execFp (.ffma x) x 3 s (fMap3 x fun f a b c => fFma f x.rnd a b c)
def execFmin (x : FpOp) (s : State) := execFp (.fmin x) x 4 s (fMap2 x fun f a b => fMin f a b)
def execFmax (x : FpOp) (s : State) := execFp (.fmax x) x 4 s (fMap2 x fun f a b => fMax f a b)
def execFaddmin (x : FpOp) (s : State) := execFp (.faddmin x) x 3 s (fMap3 x fun f a b c => fAddMin f x.rnd a b c)

/-- `fcmp` sets no flag (R124). -/
def execFcmp (c : FCond) (x : FpOp) (s : State) :=
  execFp (.fcmp c x) x 4 s fun r =>
    match fValsA x r, fValsB x r with
    | a :: _, b :: _ => ([if fCmp c a b then 1 else 0], 0)
    | _, _ => ([0], 0)

/-- `hfma2`: C is FP32 (R123). An immediate C is its FP32 value (R36). -/
def execHfma2 (x : FpOp) (s : State) :=
  execFp (.hfma2 x) x 3 s fun r =>
    let (a0, a1) := two (fValsA x r)
    let (b0, b1) := two (fValsB x r)
    let (w, fl) := fDot2 x.rnd a0 b0 a1 b1 (if x.c = .imm then e4m3.decode x.imm.toNat else f32Of r.c)
    ([BitVec.ofNat 32 w], fl)

/-- `hadd2`: B is FP32, negated under MOD[3]. An immediate B is its FP32 value. -/
def execHadd2 (x : FpOp) (s : State) :=
  execFp (.hadd2 x) x 3 s fun r =>
    let (a0, a1) := two (fValsA x r)
    let b := if x.b = .imm then e4m3.decode x.imm.toNat else f32Of r.b
    let (w, fl) := fAdd3 x.rnd a0 a1 (modB x b)
    ([BitVec.ofNat 32 w], fl)

/-- `hmul2`: a pair of FP32 products. -/
def execHmul2 (x : FpOp) (s : State) :=
  execFp (.hmul2 x) x 3 s fun r =>
    let (a0, a1) := two (fValsA x r)
    let (b0, b1) := two (fValsB x r)
    let (w0, f0) := fMul fp32 x.rnd a0 b0
    let (w1, f1) := fMul fp32 x.rnd a1 b1
    ([BitVec.ofNat 32 w0, BitVec.ofNat 32 w1], f0 ||| f1)

/-- `fclass` sets no flag (R127). -/
def execFclass (x : FpOp) (s : State) := execFp (.fclass x) x 4 s (fMap1 x fun f a => (2 ^ fClass f a, 0))

/-- `frnd` sets no flag (R128). -/
def execFrnd (x : FpOp) (s : State) := execFp (.frnd x) x 4 s (fMap1 x fun f a => (fRnd f x.rnd a, 0))

/-! ### Special functions: long-latency (R126) -/

/-- The results are in flight under LOOK; the flags come with them. -/
def execSpecial (i : Instr) (fn : SpecialFn) (x : FpOp) (s : State) : Host.Outcome State Fault Refusal :=
  issue i s fun e s =>
    withPops i x.ops e s fun e pops s =>
      let imm (k : Nat) : Word := if k = 0 then immFp .f32 x.imm else 0
      let (ws, fl) := laneResults e.t x.ops pops imm (execSlots x.d e.slots) fun r =>
        let a := modA x (f32Of r.a)
        let bits := BitVec.ofNat 32 (fp32.round .rne false a).1
        let (w, fl) := specialResult fn x.rnd a bits
        (destWrites x.d r.slot [BitVec.ofNat 32 w], fl)
      let look := if x.head.ver1 then 0 else x.head.look.toNat
      let t := s.charge (e.t.launchResult e.x.id .special look ws fl []) 4 (passes e.x.mask)
      s.setTeam (e.advance t)

def execFrcp (x : FpOp) (s : State) := execSpecial (.frcp x) .rcp x s
def execFrsq (x : FpOp) (s : State) := execSpecial (.frsq x) .rsq x s
def execFsqrt (x : FpOp) (s : State) := execSpecial (.fsqrt x) .sqrt x s
def execFexp2 (x : FpOp) (s : State) := execSpecial (.fexp2 x) .exp2 x s
def execFlog2 (x : FpOp) (s : State) := execSpecial (.flog2 x) .log2 x s
def execFsin (x : FpOp) (s : State) := execSpecial (.fsin x) .sin x s
def execFcos (x : FpOp) (s : State) := execSpecial (.fcos x) .cos x s
def execFtanh (x : FpOp) (s : State) := execSpecial (.ftanh x) .tanh x s

/-! ### Conversion (R129 to R131) -/

/-- The source pattern of a type: one register, or a pair. -/
def cvtSource (ty : CType) (get : Nat → Word) : Nat :=
  if ty.regs = 2 then (pair (get 0) (get 1)).toNat else (get 0).toNat

/-- Result registers of an element, extended as R65 states. -/
def cvtWords (ty : CType) (bits : Nat) : List Word :=
  if ty.regs = 2 then pairWords' bits else [BitVec.ofNat 32 (extendResult ty bits)]
where
  pairWords' (bits : Nat) : List Word := [BitVec.ofNat 32 bits, BitVec.ofNat 32 (bits / 2 ^ 32)]

def execCvt (x : CvtOp) (s : State) :=
  execLane (.cvt x) x.ops (immPlain x.imm) 4 s fun r =>
    let (bits, fl) := cvtElem x.rnd x.sat x.dst x.src (cvtSource x.src r.a)
    (cvtWords x.dst bits, fl)

/-- Bits of an element in a packed register. -/
def packBits (ty : CType) : Nat := if ty = .lg6 then 6 else if ty.packed = 2 then 16 else 8

/-- `pack`: A and B, or A to A+3, each converted and placed in order. -/
def execPack (x : CvtOp) (s : State) :=
  execLane (.pack x) x.ops (immPlain x.imm) 4 s fun r =>
    let ins := if x.dst.packed = 2 then [r.a 0, r.b 0] else (List.range 4).map r.a
    let outs := ins.map fun w => cvtElem x.rnd x.sat x.dst x.src w.toNat
    ([BitVec.ofNat 32 (outs.foldr (fun e acc => e.1 % 2 ^ packBits x.dst + 2 ^ packBits x.dst * acc) 0)],
      outs.foldl (fun f e => f ||| e.2) 0)

/-- `unpk`: the elements of A to D, D+1, … . `.sat` acts on the widening of a float or lg6 only (R131, Table 4.5). -/
def execUnpk (x : CvtOp) (s : State) :=
  let sat := x.sat && !x.src.isInt
  execLane (.unpk x) x.ops (immPlain x.imm) 4 s fun r =>
    let outs := (List.range x.src.packed).map fun i =>
      cvtElem x.rnd sat x.dst x.src ((r.a 0).toNat / 2 ^ (packBits x.src * i) % 2 ^ packBits x.src)
    (outs.map fun e => BitVec.ofNat 32 (extendResult x.dst e.1), outs.foldl (fun f e => f ||| e.2) 0)

end Sys2Proof.Machine
end

