-- ==== Sys2Proof/Machine/Integer.lean ====
section
/-! DEFINITION. Integer and address instructions, opcodes 0x00 to 0x1B (06 R116 to R121). -/
namespace Sys2Proof.Machine

/-! ### Elements (R51) -/

/-- Bits of an element. -/
def elemBits : IWidth → Nat
  | .w32 => 32 | .w64 => 64 | .x16 => 16 | .x8 => 8

/-- The elements of an operand, lowest first. -/
def elemsOf (w : IWidth) (get : Nat → Word) : List Nat :=
  match w with
  | .w32 => [(get 0).toNat]
  | .w64 => [(pair (get 0) (get 1)).toNat]
  | .x16 => (List.range 2).map fun i => ((get 0).extractLsb' (16 * i) 16).toNat
  | .x8 => (List.range 4).map fun i => ((get 0).extractLsb' (8 * i) 8).toNat

/-- The registers that hold elements. -/
def wordsOfElems (w : IWidth) (l : List Nat) : List Word :=
  match w with
  | .w32 => l.map (BitVec.ofNat 32)
  | .w64 => l.flatMap fun x => [BitVec.ofNat 32 x, BitVec.ofNat 32 (x / 2 ^ 32)]
  | _ => [BitVec.ofNat 32 (l.foldr (fun x acc => x + 2 ^ elemBits w * acc) 0)]

/-- Reduction of an exact element result: clamped under `.sat`, else modulo 2^w (R52). -/
def reduceInt (x : IntOp) (r : Int) : Nat :=
  wrapInt (elemBits x.width) (if x.sat then clampInt (elemBits x.width) x.sgn r else r)

/-- Elements as integers, signed where the entry says so. -/
def intElems (w : IWidth) (sgn : Bool) (get : Nat → Word) : List Int :=
  (elemsOf w get).map (readInt (elemBits w) sgn)

/-- The words of an operand of the width, copied. -/
def copyWords (w : IWidth) (get : Nat → Word) : List Word := (List.range w.regs).map get

/-- One, two or three sources, element by element (R117). -/
def intMap1 (x : IntOp) (sgn : Bool) (f : Int → Int) (r : Src) : List Word :=
  wordsOfElems x.width ((intElems x.width sgn r.a).map fun a => reduceInt x (f a))
def intMap2 (x : IntOp) (sgn : Bool) (f : Int → Int → Int) (r : Src) : List Word :=
  wordsOfElems x.width
    (List.zipWith (fun a b => reduceInt x (f a b)) (intElems x.width sgn r.a) (intElems x.width sgn r.b))
def intMap3 (x : IntOp) (sgn : Bool) (f : Int → Int → Int → Int) (r : Src) : List Word :=
  wordsOfElems x.width
    (List.zipWith (fun ab c => reduceInt x (f ab.1 ab.2 c))
      (List.zip (intElems x.width sgn r.a) (intElems x.width sgn r.b)) (intElems x.width sgn r.c))

/-- The bits of sources, word by word. -/
def bitMap1 (x : IntOp) (f : Word → Word) (r : Src) : List Word := (copyWords x.width r.a).map f
def bitMap2 (x : IntOp) (f : Word → Word → Word) (r : Src) : List Word :=
  List.zipWith f (copyWords x.width r.a) (copyWords x.width r.b)

/-- Shift counts: per element of B; under `.i64` the one 32-bit B (R117, R118). -/
def shiftMap (x : IntOp) (sgn : Bool) (f : Nat → Int → Nat → Int) (r : Src) : List Word :=
  let w := elemBits x.width
  let counts := if x.width = .w64 then [(r.b 0).toNat] else elemsOf x.width r.b
  wordsOfElems x.width
    (List.zipWith (fun a b => reduceInt x (f w a (b % w))) (intElems x.width sgn r.a) counts)

def execInt (i : Instr) (x : IntOp) (s : State) (f : Src → List Word) : Host.Outcome State Fault Refusal :=
  execLane i x.ops (immInt x.width x.sgn x.imm) 4 s fun r => (f r, 0)

/-! ### Results that Table 6.2 names -/

/-- Number of ones among the low `w` bits. -/
def onesBelow (x : Nat) (w : Nat) : Nat := ((List.range w).filter fun i => x.testBit i).length

/-- Leading zeros of a `w`-bit value; `w` for zero. -/
def leadingZeros (x w : Nat) : Nat := if x = 0 then w else w - 1 - x.log2

def rotLeft (w : Nat) (a : Nat) (n : Nat) : Nat := a * 2 ^ n % 2 ^ w + a / 2 ^ (w - n)

/-- pos, len of a field specification (R119). -/
def fieldPos (f : Word) : Nat := (f.extractLsb' 0 5).toNat
def fieldLen (f : Word) : Nat := min (f.extractLsb' 8 6).toNat (32 - fieldPos f)

def bitField (sgn : Bool) (a f : Word) : Word :=
  let len := fieldLen f
  let v := a.toNat / 2 ^ fieldPos f % 2 ^ len
  if len = 0 then 0 else BitVec.ofInt 32 (if sgn then readInt len true v else v)

def bitInsert (a b f : Word) : Word :=
  let pos := fieldPos f
  let m : Word := BitVec.ofNat 32 ((2 ^ fieldLen f - 1) * 2 ^ pos)
  (a &&& ~~~m) ||| ((b <<< pos) &&& m)

def condHolds (c : Cond) (a b : Int) : Bool :=
  match c with
  | .eq => decide (a = b) | .ne => decide (a ≠ b) | .lt => decide (a < b)
  | .le => decide (a ≤ b) | .gt => decide (b < a) | .ge => decide (b ≤ a)

/-- A 64-bit result as a register pair. -/
def pairWords (x : DWord) : List Word := [x.extractLsb' 0 32, x.extractLsb' 32 32]

/-- A 32-bit operand extended to 64 bits by sign when `.s` is set (R120). -/
def extend64 (sgn : Bool) (b : Word) : DWord := if sgn then b.signExtend 64 else b.setWidth 64

/-! ### Meanings -/

/-- `nop`: guard and operand fields are ignored (Table 6.2). -/
def execNop (h : Head) (s : State) : Host.Outcome State Fault Refusal :=
  match s.current h.guard with
  | none => .refused .noExecutingSplit
  | some e => .next (s.setTeam (e.advance e.t))

def execMov (x : IntOp) (s : State) := execInt (.mov x) x s fun r => copyWords x.width r.a
def execIadd (x : IntOp) (s : State) := execInt (.iadd x) x s (intMap2 x x.sgn (· + ·))
def execIsub (x : IntOp) (s : State) := execInt (.isub x) x s (intMap2 x x.sgn (· - ·))
def execImul (x : IntOp) (s : State) := execInt (.imul x) x s (intMap2 x x.sgn (· * ·))
def execImulh (x : IntOp) (s : State) :=
  execInt (.imulh x) x s (intMap2 x x.sgn fun a b => Int.fdiv (a * b) (2 ^ elemBits x.width))
def execImad (x : IntOp) (s : State) := execInt (.imad x) x s (intMap3 x x.sgn fun a b c => a * b + c)
def execImin (x : IntOp) (s : State) := execInt (.imin x) x s (intMap2 x x.sgn min)
def execImax (x : IntOp) (s : State) := execInt (.imax x) x s (intMap2 x x.sgn max)
def execIabs (x : IntOp) (s : State) := execInt (.iabs x) x s (intMap1 x x.sgn fun a => (a.natAbs : Int))
def execAnd (x : IntOp) (s : State) := execInt (.and x) x s (bitMap2 x (· &&& ·))
def execOr (x : IntOp) (s : State) := execInt (.or x) x s (bitMap2 x (· ||| ·))
def execXor (x : IntOp) (s : State) := execInt (.xor x) x s (bitMap2 x (· ^^^ ·))
def execNot (x : IntOp) (s : State) := execInt (.not x) x s (bitMap1 x (~~~ ·))
def execShl (x : IntOp) (s : State) := execInt (.shl x) x s (shiftMap x false fun _ a n => a * 2 ^ n)
def execShr (x : IntOp) (s : State) := execInt (.shr x) x s (shiftMap x x.sgn fun _ a n => Int.fdiv a (2 ^ n))
def execRot (x : IntOp) (s : State) :=
  execInt (.rot x) x s (shiftMap x false fun w a n => (rotLeft w a.toNat n : Int))
def execPopc (x : IntOp) (s : State) :=
  execInt (.popc x) x s (intMap1 x false fun a => (onesBelow a.toNat (elemBits x.width) : Int))
def execClz (x : IntOp) (s : State) :=
  execInt (.clz x) x s (intMap1 x false fun a => (leadingZeros a.toNat (elemBits x.width) : Int))
def execBfx (x : IntOp) (s : State) := execInt (.bfx x) x s fun r => [bitField x.sgn (r.a 0) (r.b 0)]
def execBfi (x : IntOp) (s : State) := execInt (.bfi x) x s fun r => [bitInsert (r.a 0) (r.b 0) (r.c 0)]

/-- `icmp` writes one 32-bit register or a predicate whatever the width (R117). -/
def execIcmp (c : Cond) (x : IntOp) (s : State) :=
  execInt (.icmp c x) x s fun r =>
    match intElems x.width x.sgn r.a, intElems x.width x.sgn r.b with
    | a :: _, b :: _ => [if condHolds c a b then 1 else 0]
    | _, _ => [0]

/-- `sel`: C is a single 32-bit register (R117). -/
def execSel (x : IntOp) (s : State) :=
  execInt (.sel x) x s fun r => if r.c 0 ≠ 0 then copyWords x.width r.a else copyWords x.width r.b

/-- `lea` (R120). -/
def execLea (scale : BitVec 4) (x : IntOp) (s : State) :=
  execInt (.lea scale x) x s fun r =>
    if x.width = .w64 then
      pairWords (pair (r.a 0) (r.a 1) + (extend64 x.sgn (r.b 0) <<< scale.toNat) + pair (r.c 0) (r.c 1))
    else [r.a 0 + (r.b 0 <<< scale.toNat) + r.c 0]

/-- `iadd64` (R120): A and D are pairs, B is 32 bits. An immediate A has no high word of its own. -/
def execIadd64 (x : IntOp) (s : State) :=
  execLane (.iadd64 x) x.ops (immInt .w64 x.sgn x.imm) 4 s fun r =>
    (pairWords (pair (r.a 0) (r.a 1) + extend64 x.sgn (r.b 0)), 0)

def execIaddmin (x : IntOp) (s : State) := execInt (.iaddmin x) x s (intMap3 x x.sgn fun a b c => min (a + b) c)
def execImin3 (x : IntOp) (s : State) := execInt (.imin3 x) x s (intMap3 x x.sgn fun a b c => min a (min b c))

/-- `iadds` (R121): the carry-out goes to a predicate, discarded where it names p7. -/
def execIadds (carry : BitVec 3) (x : IntOp) (s : State) :=
  execLaneWrites (.iadds carry x) x.ops (immInt x.width x.sgn x.imm) 4 s fun r =>
    let t := (r.a 0).toNat + (r.b 0).toNat + if r.c 0 ≠ 0 then 1 else 0
    (destWrites x.d r.slot [BitVec.ofNat 32 t] ++ [⟨some r.slot, .p carry, if t ≥ 2 ^ 32 then 1 else 0⟩], 0)

end Sys2Proof.Machine
end

