-- ==== Sys2Proof/Machine/Movement.lean ====
section
/-! DEFINITION. Lane movement, opcodes 0x50 to 0x56 (06 R132 to R139). -/
namespace Sys2Proof.Machine

/-- A movement instruction: `f` gives the results of all contributing lanes from all their sources; a destination of
the team takes the first. -/
def execMove (i : Instr) (x : MoveOp) (s : State) (f : List Src → List (Nat × Word) × Flags) :
    Host.Outcome State Fault Refusal :=
  issue i s fun e s =>
    withPopsOn e.slots i x.ops e s fun e pops s =>
      let (res, fl) := f (e.slots.map (sources e.t x.ops pops (immInt .w32 x.sgn x.imm)))
      let res := match x.d with
        | .s _ => res.take 1
        | _ => res
      let t := e.t.applyWrites (res.flatMap fun (slot, w) => destWrites x.d slot [w])
      let t := s.charge { t with fstat := t.fstat ||| fl } 4 (passes e.x.mask)
      s.setTeam (e.advance t)

/-- A of a contributing slot, or the fill value. -/
def sourceOr (l : List Src) (j : Int) (fill : Word) : Word :=
  match l.find? fun r => (r.slot : Int) == j with
  | some r => r.a 0
  | none => fill

/-- The source slot of `lpick`, an unbounded integer (R133). -/
def pickSlot (m : PickMode) (slot : Nat) (b : Word) : Int :=
  match m with
  | .at => b.toNat
  | .off => slot + b.toInt
  | .xor => (slot ^^^ b.toNat : Nat)
  | .mir => (slot ^^^ (2 ^ min b.toNat 10 - 1) : Nat)

def execLpick (m : PickMode) (x : MoveOp) (s : State) :=
  execMove (.lpick m x) x s fun l => (l.map fun r => (r.slot, sourceOr l (pickSlot m r.slot (r.b 0)) (r.c 0)), 0)

/-- `lsh` reads by rank among the contributing lanes (R134). -/
def execLsh (down : Bool) (x : MoveOp) (s : State) :=
  execMove (.lsh down x) x s fun l =>
    (l.zipIdx.map fun (r, i) =>
      let n := (r.b 0).toNat
      let src := if down then l[i + n]? else if n ≤ i then l[i - n]? else none
      (r.slot, match src with | some q => q.a 0 | none => r.c 0), 0)

/-- Word `w` of the bit map of a test over the slots. -/
def ballotWord (l : List Src) (w : Nat) : Word :=
  l.foldl (fun (acc : Word) (r : Src) => if r.a 0 ≠ 0 ∧ r.slot / 32 = w then acc ||| ((1 : Word) <<< (r.slot % 32)) else acc) 0

/-- `vote` (R135). A `.ballot` to an s-register takes word B, else each lane the word of its own slot. -/
def execVote (m : VoteMode) (x : MoveOp) (s : State) :=
  execMove (.vote m x) x s fun l =>
    let truth (b : Bool) : Word := if b then 1 else 0
    (l.map fun r => (r.slot, match m with
      | .all => truth (l.all fun q => q.a 0 != 0)
      | .any => truth (l.any fun q => q.a 0 != 0)
      | .uni => truth (l.all fun q => q.a 0 == r.a 0)
      | .ballot => match x.d with
        | .s _ => ballotWord l (r.b 0).toNat
        | _ => ballotWord l (r.slot / 32)), 0)

/-- One step of a reduction with its flags (R136). -/
def reduceStep (op : ROp) (flt sgn : Bool) (a b : Word) : Word × Flags :=
  if flt then
    let x := fp32.decode a.toNat
    let y := fp32.decode b.toNat
    let (w, fl) := match op with
      | .min => fMin fp32 x y
      | .max => fMax fp32 x y
      | _ => fAdd fp32 .rne x y
    (BitVec.ofNat 32 w, fl)
  else
    (match op with
      | .add => a + b
      | .min => if (if sgn then a.slt b else a.ult b) then a else b
      | .max => if (if sgn then a.slt b else a.ult b) then b else a
      | .and => a &&& b
      | .or => a ||| b
      | .xor => a ^^^ b, 0)

/-- A `.f32` value taken without a step is canonical when it is a NaN (R136). -/
def firstValue (flt : Bool) (a : Word) : Word :=
  if flt && (fp32.decode a.toNat).isNan then BitVec.ofNat 32 fp32.nan else a

/-- The prefixes in increasing slot order, and the flags of every step. -/
def prefixes (op : ROp) (flt sgn : Bool) : List Word → List Word × Flags
  | [] => ([], 0)
  | a :: as => as.foldl (fun (ps, fl) b =>
      let (w, g) := reduceStep op flt sgn (ps.getLast?.getD 0) b
      (ps ++ [w], fl ||| g)) ([firstValue flt a], 0)

/-- Table 6.8. -/
def scanIdentity (op : ROp) (flt sgn : Bool) : Word :=
  match op with
  | .and => 0xFFFFFFFF
  | .min => if flt then 0x7F800000 else if sgn then 0x7FFFFFFF else 0xFFFFFFFF
  | .max => if flt then 0xFF800000 else if sgn then 0x80000000 else 0
  | _ => 0

/-- `redux` (R136). -/
def execRedux (op : ROp) (flt : Bool) (x : MoveOp) (s : State) :=
  execMove (.redux op flt x) x s fun l =>
    let (ps, fl) := prefixes op flt x.sgn (l.map fun r => r.a 0)
    (l.map fun r => (r.slot, ps.getLast?.getD 0), fl)

/-- `scan` (R137). With `.excl` the flags of the last step count although no lane receives its value: R137 and R63 do
not say (notes/assumptions/37). -/
def execScan (op : ROp) (flt excl : Bool) (x : MoveOp) (s : State) :=
  execMove (.scan op flt excl x) x s fun l =>
    let (ps, fl) := prefixes op flt x.sgn (l.map fun r => r.a 0)
    let out := if excl then scanIdentity op flt x.sgn :: ps else ps
    (List.zipWith (fun r w => (r.slot, w)) l out, fl)

/-- `match` (R138). -/
def execMatch (all : Bool) (x : MoveOp) (s : State) :=
  execMove (.matchLanes all x) x s fun l =>
    (l.map fun r =>
      let same := l.filter fun q => q.a 0 == r.a 0
      (r.slot, if all then BitVec.ofNat 32 same.length else BitVec.ofNat 32 ((same.head?.map Src.slot).getD 0)), 0)

/-- `rdmask` (R139). -/
def execRdmask (x : MoveOp) (s : State) :=
  execMove (.rdmask x) x s fun l =>
    let m := maskOf (l.map Src.slot)
    (l.map fun r =>
      let w := (r.a 0).toNat
      (r.slot, if w < 32 then maskWord m w else if w = 32 then maskSummary m else 0), 0)

end Sys2Proof.Machine
end

