-- ==== Sys2Proof/Machine/Errors.lean ====
section
/-! DEFINITION. Hardware errors at the places of Table 13.6 and of R265: an input of the machine
(13 R255, R264, R265; notes/assumptions/32). -/
namespace Sys2Proof.Machine

/-- Changes a team, where it is there. -/
def State.onTeam (s : State) (key : Nat) (f : Team → Team) : State :=
  match s.team? key with
  | some t => s.setTeam (f t)
  | none => s

def Lane.badWord (l : Lane) (word : Nat) : Lane := { l with slice := l.slice.poisonUnit word }

/-- A word of an L1 line. -/
def State.badL1 (s : State) (core line word : Nat) : State :=
  let c := s.core core
  s.setCore { c with l1 := c.l1.map fun x => if x.pa = line then { x with bad := x.bad ||| (1 <<< word) } else x }

def lineSecs (line : Nat) : List Nat := (List.range 4).map (4 * line + ·)

def addAll (new old : List Nat) : List Nat := new.foldl (fun l x => insertNat x l) old

/-- A tag error: the line is dropped, its sectors are poisoned in HBM where it was dirty; recorded at level 4. -/
def State.badTag (s : State) (line : Nat) : State :=
  let die := homeDie (128 * line)
  match getBy L2Line.line line (s.die die).l2 with
  | none => s
  | some x =>
    let s := s.setDie { s.die die with l2 := delBy L2Line.line line (s.die die).l2 }
    let s := if x.dirty = 0 then s else { s with hbmPoison := addAll (lineSecs line) s.hbmPoison }
    (s.leaveL2 { x with dirty := 0 }).logEvent (die / 4) (.tagError die)

/-- An HBM error: a line that its slice holds is not read from there. -/
def State.badHbm (s : State) (sector : Nat) : State :=
  let s := { s with hbmPoison := insertNat sector s.hbmPoison }
  if s.inL2 (sector / 4) then s else s.poisonHome [sector]

/-- Changes one plane of a pair of a core. -/
def State.onPlane (s : State) (core pair : Nat) (shadow : Bool) (f : Plane → Plane) : State :=
  let c := s.core core
  let p := c.pair pair
  s.setCore (c.setPair pair (if shadow then { p with shadow := f p.shadow } else { p with active := f p.active }))

/-- A replay on a link of the die: sixteen that fail in a row on one link fence it. -/
def State.dieReplay (s : State) (die other : Nat) (ok : Bool) : State :=
  let d := s.die die
  let n := if ok then 0 else ((getBy Prod.fst other d.replays).map Prod.snd).getD 0 + 1
  let s := s.setDie { d with replays := putBy Prod.fst (other, n) d.replays }
  if 16 ≤ n then s.fence die else s

/-- An element of a packet that has left carries other data, unseen. -/
def Die.garbleElement (d : Die) (packet index : Nat) (data : DWord) : Die :=
  { d with packets := d.packets.map fun p =>
      if p.id = packet ∧ p.status.isNone then { p with elems := p.elems.modify index fun e => { e with data := data } } else p }

/-- What one error does (Table 13.6, R265). -/
def State.meetError (s : State) : HwError → State
  | .sliceWord team slot word => s.onTeam team fun t => t.setLane slot ((t.lane slot).badWord word)
  | .scratchWord team word => s.onTeam team fun t => { t with scratch := t.scratch.poisonUnit word }
  | .poolWord gang word =>
    match s.gang? gang with
    | some g => s.setGang { g with pool := g.pool.poisonUnit word }
    | none => s
  | .l1Word core line word => s.badL1 core line word
  | .l2Data line sectors =>
    if s.inL2 line then s.poisonHome ((lineSecs line).filter fun x => sectors.getLsbD (x % 4)) else s
  | .l2Tag line => s.badTag line
  | .dieRam die sector => s.setDie { s.die die with ram := (s.die die).ram.poisonUnit sector }
  | .hbm sector => s.badHbm sector
  | .register team slot r => s.onTeam team fun t =>
    { t with badRegs := match regKey slot r with | some k => insertNat k t.badRegs | none => t.badRegs }
  | .spill team id => s.onTeam team fun t =>
    if (t.split? id).any Split.spilled then { t with badRegs := insertNat (spillKey id) t.badRegs } else t
  | .wrongRead p bs => { s with wrongReplies := (s.wrongReplies.filter fun w => w.1 != p) ++ [(p, bs)] }
  | .wrongWrite p bs => { s with wrongWrites := (s.wrongWrites.filter fun w => w.1 != p) ++ [(p, bs)] }
  | .wrongElement die packet index data => s.setDie ((s.die die).garbleElement packet index data)
  | .wrongSwizzle die bs => s.setDie { s.die die with wrongSwizzles := (s.die die).wrongSwizzles ++ [bs] }
  | .corrected die => s.setDie { s.die die with corrected := (s.die die).corrected + 1 }
  | .readFlit p => { s with badReplies := s.badReplies ++ [p] }
  | .writeFlit p => { s with badWrites := s.badWrites ++ [p] }
  | .queue team f => s.onTeam team fun t => { t with f := t.f.set f.toNat { t.f[f.toNat] with queued := [] } }
  | .planeRow core pair shadow row => s.onPlane core pair shadow fun p => { p with badRows := insertNat row p.badRows }
  | .planeScales core pair shadow => s.onPlane core pair shadow fun p => { p with badScales := true }
  | .dieLink die other ok => s.dieReplay die other ok

/-- The errors that the present step meets, and then what goes on after them. -/
def State.meetErrors (s : State) (next : State → State) : State :=
  match s.errors with
  | [] => next s
  | now :: later => next (now.foldl State.meetError { s with errors := later })

end Sys2Proof.Machine
end

