-- ==== Sys2Proof/Machine/Sched.lean ====
section
/-! DEFINITION. What a step does next: the next step of the device, or the instruction that a core issues
(03 R22 to R41, 05 R103 to R108, 08 R165; notes/assumptions/3). -/
namespace Sys2Proof.Machine

/-! ### The clock (R346, notes/assumptions/4) -/

/-- Every package's counter advances by at least one cycle. -/
def State.clockTick (s : State) : State :=
  { s with
    pkgs := s.pkgs.map fun p => { p with cycle := p.cycle + 1 + Config.extraCycles (s.tick * 1024 + p.id) }
    tick := s.tick + 1 }

/-! ### Which split issues (R103, R165) -/

/-- A fetch that has waited on the page goes first (R260). -/
def Team.fetchHeld (t : Team) (x : Split) : Bool :=
  let k := fetchKey (pcLine x.pc).toNat
  !x.holds.contains k && t.splits.any fun y => y.id != x.id && y.holds.contains k

/-- A split that may issue; a nap that is over makes it ready (R150). -/
def Team.canIssue (t : Team) (x : Split) (cycle : Nat) : Bool :=
  !x.record && (x.wait == .ready || (x.wait == .nap && decide (x.napUntil ≤ cycle))) && !t.fetchHeld x

/-- A split that tries again or moves on what it waits for, because nothing else does: a rejected pass, a `wait`, an
ordering stall, and what waits with reason 1. -/
def Split.retries (x : Split) : Bool :=
  !x.record && match x.wait, x.block with
    | .rejected, _ | .value, _ | .order, .none | .order, .stalled _ _ _ _ | .order, .launching _ _ => true
    | .scoreboard, .walks | .scoreboard, .element | .scoreboard, .issue | .scoreboard, .reply _ _ _ | .scoreboard, .routing _ => true
    | _, _ => false

/-- While a save waits, a team completes what has issued and is not performed, and issues nothing else (R188, R336). -/
def Team.goesOn (t : Team) (x : Split) : Bool := !t.saving || x.mustFinish

/-- The ready splits that R103 serves: those not demoted, else the demoted ones. -/
def Team.served (t : Team) (cycle : Nat) : List Split :=
  let ready := t.splits.filter fun x => t.canIssue x cycle && t.goesOn x
  match ready.filter fun x => !x.dem with
  | [] => ready
  | l => l

/-- The team has been a candidate for 256 cycles. -/
def Team.starved (t : Team) (now : Nat) : Bool := t.waiting.any fun n => decide (n + 256 ≤ now)

/-- The choice of R165: starved first, the longest first; then priority class, then age. -/
def Team.before (now : Nat) (a b : Team) : Bool :=
  if a.starved now != b.starved now then a.starved now
  else if a.starved now && a.waiting != b.waiting then decide (a.waiting.getD 0 < b.waiting.getD 0)
  else if a.prio ≠ b.prio then decide (a.prio < b.prio)
  else decide (a.age < b.age)

def bestTeam (now : Nat) : List Team → Option Team
  | [] => none
  | t :: ts => match bestTeam now ts with
    | none => some t
    | some u => if t.before now u then some t else some u

/-- Splits of the team that try again. -/
def Team.retrying (t : Team) : List Split := t.splits.filter fun x => x.retries && t.goesOn x

/-- Teams whose splits may issue: resident, on a die that is not fenced. -/
def State.running (s : State) : List Team := s.teams.filter fun t => t.status == .resident && !(s.die t.dieNo).fenced

/-- Teams become candidates, or are none any more; a starved team stays so until it issues (R165). -/
def State.markCandidates (s : State) : State :=
  { s with teams := s.teams.map fun t =>
      let now := s.cycle t.pkg
      if t.status == .resident && !t.saving && !(t.served now).isEmpty then { t with waiting := some (t.waiting.getD now) }
      else if t.starved now then t
      else { t with waiting := none } }

/-- A core with a split that passes a test: the next in turn, else the lowest. -/
def turnOf (after : Nat) (cores : List Nat) : Option Nat :=
  let low (l : List Nat) : Option Nat := l.foldl (fun b c => match b with | none => some c | some d => some (min c d)) none
  match low (cores.filter fun c => decide (after < c)) with
  | some c => some c
  | none => low cores

/-- The core that takes the turn. -/
def State.turnCore (s : State) : Option Nat :=
  match s.turns with
  | c :: _ => some c
  | [] => turnOf s.cur.core ((s.running.filter fun t => !(t.served (s.cycle t.pkg)).isEmpty || !t.retrying.isEmpty).map
      Team.coreNo)

/-- The team and split that issue on a core. -/
def State.ready (s : State) (core : Nat) : Option (Team × Split) :=
  let now := s.cycle (core / 512)
  (bestTeam now (s.running.filter fun t => t.coreNo == core && !(t.served now).isEmpty)).bind fun t =>
    (t.served now).head?.map fun x => (t, x)

/-- The split of a core that tries again: the one that has not done so for longest. -/
def State.nextRetry (s : State) (core : Nat) : Option (Team × Split) :=
  ((s.running.filter fun t => t.coreNo == core).flatMap fun t => t.retrying.map fun x => (t, x)).foldl
    (fun b y => match b with
      | none => some y
      | some z => if y.2.tried < z.2.tried then some y else some z) none

/-- What a core does with its turn: a split issues or tries again (`true`), in alternation where there are both. -/
def State.choose (s : State) (core : Nat) : Option (Team × Split × Bool) :=
  match s.ready core, s.nextRetry core with
  | some (t, x), none => some (t, x, false)
  | none, some (t, x) => some (t, x, true)
  | some i, some r => if (s.core core).retried then some (i.1, i.2, false) else some (r.1, r.2, true)
  | none, none => none

/-! ### Beginning an instruction -/

/-- Replies arrive at a core: its miss entries are free. Results stay in flight (R106). -/
def State.coreReplies (s : State) (coreNo : Nat) : State :=
  { s with teams := s.teams.map fun t =>
      if t.coreNo = coreNo then { t with landings := (t.landings.filter fun l => !l.silent).map fun l => { l with lines := [] } } else t }

/-- Lanes that meet an error of the unified store in a register that they read (R264). -/
def Team.badLanes (t : Team) (m : Mask) (gs : List RegGroup) : Mask :=
  if t.badRegs.isEmpty then 0
  else maskOf ((maskSlots m).filter fun i => t.badRegs.any fun k => namesKey gs (maskOf [i]) k)

/-- The instruction begun again, or anew: what it is, since when, and the lanes that cannot read a register. -/
def Split.begin (x : Split) (i : Option Instr) (bad : Mask) (tick : Nat) : Split :=
  let y := { x with wait := .ready, block := .none, op := i, regBad := if x.op.isSome then x.regBad else (bad, x.pc) }
  if x.again then
    { y with
      holds := x.holds.filter fun h => decide (h < 2 ^ 100) || h == fenceKey
      issuedAt := if x.op.isNone && x.holds.all (fun h => decide (2 ^ 100 ≤ h)) then tick else x.issuedAt }
  else { y.clear with op := i, dem := false, issuedAt := tick }

/-- The split issues an instruction: what it depends on is complete, it moves to the end of the round-robin order, it is not
demoted unless the instruction demotes it again (R103, R104), and the team is no longer starved (R165). One that issues again
goes on with what it has done. -/
def Team.begin (t : Team) (x : Split) (i : Option Instr) (tick : Nat) : Team :=
  let t := t.bringIn x.id
  let t := if x.retries then t else { t with waiting := none }
  match t.split? x.id with
  | none => t
  | some y =>
    let reads := (i.map Instr.reads).getD []
    let t := t.startIssue y (reads ++ (i.map Instr.writes).getD [])
    let guard := ((i.bind Instr.fields).map fun h => [((Operand.p h.1.guard.2, 1) : RegGroup)]).getD []
    let t := t.setSplit (y.begin i (t.badLanes y.mask (guard ++ reads)) tick)
    if y.again then t else t.rotate x.id

def State.beginIssue (s : State) (t : Team) (x : Split) (w : Insn) (i : Option Instr) : State :=
  let t := t.begin x i s.tick
  { s.setTeam t with
    cur := { core := t.coreNo, team := t.key, split := x.id, pc := x.pc, word := w
             except := ((t.split? x.id).map fun y => y.regBad.1).getD 0 } }

/-- Faults of the decode checks (R40). Checks 5 and 6 honour the guard. -/
def State.rejectWord (s : State) (r : Reject) (w : Insn) : State :=
  match r with
  | .version | .opcode =>
    match s.current ⟨false, 7⟩ with
    | some e => e.decodeFault s (if r = .version then codeIllegalEncoding else codeIllegalOpcode)
    | none => s
  | .encoding | .operand =>
    match s.current (Raw.ofInsn w).guard with
    | some e =>
      if e.slots.isEmpty then s.setTeam (e.advance e.t)
      else e.decodeFault s (if r = .encoding then codeIllegalEncoding else codeIllegalOperand)
    | none => s

/-- Lanes that met an error of the unified store as they read it raise POISON at level 2, and go on behind the instruction
(R264). -/
def State.raiseStore (s : State) (t : Team) (x : Split) (m : Mask) (pc resume : Pc) : State :=
  s.raise t x { code := codePoison, level := 2, pc := pc, j3 := BitVec.ofNat 32 (lowestSlot m), addr := 0, lanes := m, resume := resume }

/-- An instruction is complete of which some lanes could not read a register: these raise POISON. -/
def State.settleRegisters (s : State) : State :=
  let l := s.teams.flatMap fun t => (t.splits.filter fun x =>
    x.regBad.1 &&& x.mask != 0 && x.inFlight.isNone && x.trap.isNone && x.wait != .trap).map fun x => (t.key, x.id)
  l.foldl (fun s (key, id) => match s.team? key with
    | none => s
    | some t => match t.split? id with
      | none => s
      | some x => s.raiseStore t { x with regBad := (0, 0) } (x.regBad.1 &&& x.mask) x.regBad.2 (pcNext x.regBad.2)) s

/-- Fetches and decodes at a split's PC: the state as the instruction begins, and the instruction. A page may have to be walked
first; an instruction that uses a register which an open one of another split has still to read or write waits (R87, R108); an
entry that comes back from the split-spill area may have an error there (R264, notes/assumptions/32). -/
def State.fetchIssue (s : State) (t : Team) (x : Split) : State × Option Instr :=
  if x.spilled && t.badRegs.contains (spillKey x.id) then
    (s.raiseStore { t with badRegs := t.badRegs.filter (· != spillKey x.id) } { x with spilled := false } x.mask x.pc x.pc, none)
  else
    match s.fetchWalk t x (pcLine x.pc).toNat with
    | some s => (s, none)
    | none =>
      match s.fetchLine t.coreNo t.ctx (pcLine x.pc).toNat with
      | (s, .ok bs) =>
        let w := slotWord bs (pcSlot x.pc)
        match decode w with
        | .ok i => if x.op.isNone && t.regHeld x i then (s.holdIssue t x, none) else (s.beginIssue t x w (some i), some i)
        | .error r => ((s.beginIssue t x w none).rejectWord r w, none)
      | (s, r) => (s.fetchFault t x x.pc r, none)

/-- A split's turn. A target that has not been fetched is checked first (R145). -/
def State.issueSplit (s : State) (t : Team) (x : Split) : State × Option Instr :=
  if x.check.isSome then (s, some (.targetCheck t.key x.id)) else s.fetchIssue t x

/-- The step by which a request moves on: its own, or that of what is ahead of it in its stream. -/
def Die.requestStep (d : Die) (r : Request) : Instr :=
  let first (l : List (Nat × Nat)) : Nat := (l.foldl (fun (b : Option (Nat × Nat)) x => match b with
    | none => some x
    | some y => if x.1 < y.1 then some x else some y) none).elim r.id Prod.snd
  if r.state == .sent then
    .packetArrival d.id (first ((d.packets.filter fun q => q.lane == r.lane && q.status.isNone).map (fun q => (q.id, q.id)) ++
      (d.requests.filter fun q => q.lane == r.lane && q.state == .sent).map fun q => (q.id, q.id)))
  else
    .packetAck d.id (first ((d.packets.filter fun q => q.lane == r.lane && q.status.isSome && q.needs.isNone).map (fun q => (q.ackAt, q.id)) ++
      (d.requests.filter fun q => q.lane == r.lane && q.state == .performed).map fun q => (q.ackAt, q.id)))

/-- The queue of a team whose run-ahead has a load to make. -/
def Team.loadingQueue (t : Team) : Option Nat :=
  (List.range 4).find? fun i =>
    let q := t.f[(BitVec.ofNat 2 i).toNat]
    q.active && (t.nextLoad q).isSome

/-- The turn of a split that tries again. Replies have arrived before. -/
def State.retrySplit (s : State) (core team split : Nat) : State × Option Instr :=
  let s := s.coreReplies core
  match s.team? team with
  | none => (s, none)
  | some t =>
    match t.split? split with
    | none => (s, none)
    | some x =>
      let x := { x with tried := s.tick }
      let t := t.setSplit x
      let s := s.setTeam t
      let d := s.die t.dieNo
      match x.wait, x.block with
      | .scoreboard, .walks => (s, s.walkDue t.dieNo)
      | .scoreboard, .element =>
        if d.walks.any fun b => match b.owner with | .queue k _ => k == t.key | _ => false then (s, s.walkDue t.dieNo)
        else (s, t.loadingQueue.map fun q => .feederRunaheadLoad t.key q)
      | .scoreboard, .reply _ _ _ => (s, ((d.requestsOf t.key x.id).find? Request.isOpen).map d.requestStep)
      | .scoreboard, .issue => if t.constLoaded then s.issueSplit t x else (s.giveConstants t, none)
      | .value, _ => (s, some (.waitReread t.key x.id))
      | _, _ =>
        if x.needWalks != 0 && !s.walkRoom t x.needWalks then (s, s.walkDue t.dieNo)
        else
          match d.requests.find? fun r => r.core == core && r.isOpen with
          | some r => if x.needEntries != 0 && !s.accepts t x.needEntries then (s, some (d.requestStep r)) else s.fetchIssue t x
          | none => s.fetchIssue t x

/-- One issue turn. -/
def State.issueTurn (s : State) : State × Option Instr :=
  match s.turnCore with
  | none => (s, none)
  | some core =>
    let s := { s with turns := s.turns.drop 1, cur := { s.cur with core := core } }
    match s.choose core with
    | none => (s, none)
    | some (t, x, again) =>
      let s := s.setCore { s.core core with retried := again }
      if again then s.retrySplit core t.key x.id else s.issueSplit t x

/-- What precedes every step: time passes, errors are met, saves that wait are taken, arrivals that are due are made, launches
of the driver go on, fallen minima are reported, candidates are counted. -/
def State.advance (s : State) : State :=
  s.clockTick.meetErrors fun s =>
    s.settleRegisters.settleSaves.settleArrivals.settleHostLaunches.settleReports.markCandidates

/-- A barrier whose timer has expired: its timeout is the next thing that happens, so that no arrival comes after it (R243). -/
def State.timeoutDue (s : State) : Option Instr :=
  s.gangs.findSome? fun g =>
    ((g.timers.filter fun t => decide (t.1 < s.cycle g.pkg)).foldl (fun (b : Option (Nat × Nat)) t => match b with
      | none => some t
      | some u => if t.1 < u.1 then some t else some u) none).map fun t => .barrierTimeout g.id t.2

/-- What happens next: a timeout that is due, else the first step of the inbox, else an issue turn. An inbox holds steps of the
device only. -/
def State.nextInstr (s : State) : State × Option Instr :=
  let s := s.advance
  match s.timeoutDue, s.inbox with
  | some i, _ => (s, some i)
  | none, i :: rest => ({ s with inbox := rest }, if i.fields.isSome || i == .udf then none else some i)
  | none, [] => s.issueTurn

/-- `udf` (R41): ILLEGAL_OPCODE whatever the guard says. -/
def execUdf (s : State) : Host.Outcome State Fault Refusal :=
  match s.current ⟨false, 7⟩ with
  | some e => .next (e.decodeFault s codeIllegalOpcode)
  | none => .refused .noExecutingSplit

/-! ### Placing one instruction for a first step -/

/-- The page-table entries that map the low gigabyte to itself, with every permission: levels 4, 3 and 2. -/
def bootTables : List (Nat × List Byte) :=
  [(0x1000, leBytes 8 0x2001), (0x2000, leBytes 8 0x3001), (0x3000, leBytes 8 0x1F)]

/-- A line whose first slot holds a word, the other slots zero, with its parity and its TGT bit (Table 3.1). -/
def oneSlotLine (w : Nat) : List Byte :=
  let body := leBytes 60 w
  let par := (List.range 8).foldl (fun (acc : Nat) j => if oddOnes (leNat body) (60 * j) 60 then acc + 2 ^ j else acc) 0
  body ++ leBytes 4 (1 + par * 2 ^ 24)

end Sys2Proof.Machine
end

