-- ==== Sys2Proof/Machine/Dispatch.lean ====
section
/-! DEFINITION. The meaning of each instruction: one arm per constructor. -/
namespace Sys2Proof.Machine

def exec (i : Instr) (s : State) : Host.Outcome State Fault Refusal :=
  match i with
  | .nop h => Sys2Proof.Machine.execNop h s
  | .mov x => Sys2Proof.Machine.execMov x s
  | .iadd x => Sys2Proof.Machine.execIadd x s
  | .isub x => Sys2Proof.Machine.execIsub x s
  | .imul x => Sys2Proof.Machine.execImul x s
  | .imulh x => Sys2Proof.Machine.execImulh x s
  | .imad x => Sys2Proof.Machine.execImad x s
  | .imin x => Sys2Proof.Machine.execImin x s
  | .imax x => Sys2Proof.Machine.execImax x s
  | .iabs x => Sys2Proof.Machine.execIabs x s
  | .and x => Sys2Proof.Machine.execAnd x s
  | .or x => Sys2Proof.Machine.execOr x s
  | .xor x => Sys2Proof.Machine.execXor x s
  | .not x => Sys2Proof.Machine.execNot x s
  | .shl x => Sys2Proof.Machine.execShl x s
  | .shr x => Sys2Proof.Machine.execShr x s
  | .rot x => Sys2Proof.Machine.execRot x s
  | .popc x => Sys2Proof.Machine.execPopc x s
  | .clz x => Sys2Proof.Machine.execClz x s
  | .bfx x => Sys2Proof.Machine.execBfx x s
  | .bfi x => Sys2Proof.Machine.execBfi x s
  | .icmp cond x => Sys2Proof.Machine.execIcmp cond x s
  | .sel x => Sys2Proof.Machine.execSel x s
  | .lea scale x => Sys2Proof.Machine.execLea scale x s
  | .iadd64 x => Sys2Proof.Machine.execIadd64 x s
  | .iaddmin x => Sys2Proof.Machine.execIaddmin x s
  | .imin3 x => Sys2Proof.Machine.execImin3 x s
  | .iadds carry x => Sys2Proof.Machine.execIadds carry x s
  | .fadd x => Sys2Proof.Machine.execFadd x s
  | .fsub x => Sys2Proof.Machine.execFsub x s
  | .fmul x => Sys2Proof.Machine.execFmul x s
  | .ffma x => Sys2Proof.Machine.execFfma x s
  | .fmin x => Sys2Proof.Machine.execFmin x s
  | .fmax x => Sys2Proof.Machine.execFmax x s
  | .fcmp cond x => Sys2Proof.Machine.execFcmp cond x s
  | .faddmin x => Sys2Proof.Machine.execFaddmin x s
  | .frcp x => Sys2Proof.Machine.execFrcp x s
  | .frsq x => Sys2Proof.Machine.execFrsq x s
  | .fsqrt x => Sys2Proof.Machine.execFsqrt x s
  | .fexp2 x => Sys2Proof.Machine.execFexp2 x s
  | .flog2 x => Sys2Proof.Machine.execFlog2 x s
  | .fsin x => Sys2Proof.Machine.execFsin x s
  | .fcos x => Sys2Proof.Machine.execFcos x s
  | .ftanh x => Sys2Proof.Machine.execFtanh x s
  | .hfma2 x => Sys2Proof.Machine.execHfma2 x s
  | .hadd2 x => Sys2Proof.Machine.execHadd2 x s
  | .hmul2 x => Sys2Proof.Machine.execHmul2 x s
  | .fclass x => Sys2Proof.Machine.execFclass x s
  | .frnd x => Sys2Proof.Machine.execFrnd x s
  | .cvt x => Sys2Proof.Machine.execCvt x s
  | .pack x => Sys2Proof.Machine.execPack x s
  | .unpk x => Sys2Proof.Machine.execUnpk x s
  | .lpick mode x => Sys2Proof.Machine.execLpick mode x s
  | .lsh down x => Sys2Proof.Machine.execLsh down x s
  | .vote mode x => Sys2Proof.Machine.execVote mode x s
  | .redux op flt x => Sys2Proof.Machine.execRedux op flt x s
  | .scan op flt excl x => Sys2Proof.Machine.execScan op flt excl x s
  | .matchLanes all x => Sys2Proof.Machine.execMatch all x s
  | .rdmask x => Sys2Proof.Machine.execRdmask x s
  | .bra div x => Sys2Proof.Machine.execBra div x s
  | .brx x => Sys2Proof.Machine.execBrx x s
  | .call x => Sys2Proof.Machine.execCall x s
  | .ret h => Sys2Proof.Machine.execRet h s
  | .join any h => Sys2Proof.Machine.execJoin any h s
  | .exit h => Sys2Proof.Machine.execExit h s
  | .trap x => Sys2Proof.Machine.execTrap x s
  | .tret h => Sys2Proof.Machine.execTret h s
  | .brk x => Sys2Proof.Machine.execBrk x s
  | .rdsplit x => Sys2Proof.Machine.execRdsplit x s
  | .nap x => Sys2Proof.Machine.execNap x s
  | .napExpiry team split => Sys2Proof.Machine.execNapExpiry team split s
  | .ld x => Sys2Proof.Machine.execLd x s
  | .st x => Sys2Proof.Machine.execSt x s
  | .pref x => Sys2Proof.Machine.execPref x s
  | .atom op ty x => Sys2Proof.Machine.execAtom op ty x s
  | .cas x => Sys2Proof.Machine.execCas x s
  | .red op ty x => Sys2Proof.Machine.execRed op ty x s
  | .wait x => Sys2Proof.Machine.execWait x s
  | .waitReread team split => Sys2Proof.Machine.execWaitReread team split s
  | .lds x => Sys2Proof.Machine.execLds x s
  | .sts x => Sys2Proof.Machine.execSts x s
  | .ldk x => Sys2Proof.Machine.execLdk x s
  | .cctlWb x => Sys2Proof.Machine.execCctlWb x s
  | .cctlInv x => Sys2Proof.Machine.execCctlInv x s
  | .cctlWbinv x => Sys2Proof.Machine.execCctlWbinv x s
  | .cctlIfl x => Sys2Proof.Machine.execCctlIfl x s
  | .tdset x => Sys2Proof.Machine.execTdset x s
  | .wload x => Sys2Proof.Machine.execWload x s
  | .wloadComplete core pair => Sys2Proof.Machine.execWloadComplete core pair s
  | .wswap x => Sys2Proof.Machine.execWswap x s
  | .mma sat x => Sys2Proof.Machine.execMma sat x s
  | .mmaComplete team result => Sys2Proof.Machine.execMmaComplete team result s
  | .wdrop x => Sys2Proof.Machine.execWdrop x s
  | .feed x => Sys2Proof.Machine.execFeed x s
  | .fstop x => Sys2Proof.Machine.execFstop x s
  | .fpos x => Sys2Proof.Machine.execFpos x s
  | .feederRunaheadLoad team queue => Sys2Proof.Machine.execFeederRunaheadLoad team queue s
  | .regroup x => Sys2Proof.Machine.execRegroup x s
  | .regroupCommit core error => Sys2Proof.Machine.execRegroupCommit core error s
  | .gbarArrive x => Sys2Proof.Machine.execGbarArrive x s
  | .gbarWait x => Sys2Proof.Machine.execGbarWait x s
  | .gbarSync x => Sys2Proof.Machine.execGbarSync x s
  | .xshuf x => Sys2Proof.Machine.execXshuf x s
  | .tsync h => Sys2Proof.Machine.execTsync h s
  | .trig h => Sys2Proof.Machine.execTrig h s
  | .yield x => Sys2Proof.Machine.execYield x s
  | .yieldDone x => Sys2Proof.Machine.execYieldDone x s
  | .cpy x => Sys2Proof.Machine.execCpy x s
  | .tile x => Sys2Proof.Machine.execTile x s
  | .gather x => Sys2Proof.Machine.execGather x s
  | .scatter x => Sys2Proof.Machine.execScatter x s
  | .fill x => Sys2Proof.Machine.execFill x s
  | .scq x => Sys2Proof.Machine.execScq x s
  | .scribeCommandStart die => Sys2Proof.Machine.execScribeCommandStart die s
  | .scribeBatchComplete die cmd => Sys2Proof.Machine.execScribeBatchComplete die cmd s
  | .scribeCommandComplete die cmd => Sys2Proof.Machine.execScribeCommandComplete die cmd s
  | .post rel x => Sys2Proof.Machine.execPost rel x s
  | .cancel res x => Sys2Proof.Machine.execCancel res x s
  | .gate res x => Sys2Proof.Machine.execGate res x s
  | .signal x => Sys2Proof.Machine.execSignal x s
  | .publish x => Sys2Proof.Machine.execPublish x s
  | .gateFire die slot => Sys2Proof.Machine.execGateFire die slot s
  | .hset x => Sys2Proof.Machine.execHset x s
  | .launch x => Sys2Proof.Machine.execLaunch x s
  | .hznq x => Sys2Proof.Machine.execHznq x s
  | .fence bl scope h => Sys2Proof.Machine.execFence bl scope h s
  | .bind x => Sys2Proof.Machine.execBind x s
  | .unbind x => Sys2Proof.Machine.execUnbind x s
  | .scset x => Sys2Proof.Machine.execScset x s
  | .rst x => Sys2Proof.Machine.execRst x s
  | .rred op ty x => Sys2Proof.Machine.execRred op ty x s
  | .ratom op ty x => Sys2Proof.Machine.execRatom op ty x s
  | .rld x => Sys2Proof.Machine.execRld x s
  | .bflush h => Sys2Proof.Machine.execBflush h s
  | .bflushWait h => Sys2Proof.Machine.execBflushWait h s
  | .bstat x => Sys2Proof.Machine.execBstat x s
  | .route x => Sys2Proof.Machine.execRoute x s
  | .routeCommandComplete die cmd => Sys2Proof.Machine.execRouteCommandComplete die cmd s
  | .rcas x => Sys2Proof.Machine.execRcas x s
  | .rdsr x => Sys2Proof.Machine.execRdsr x s
  | .wrsr x => Sys2Proof.Machine.execWrsr x s
  | .rdbudget x => Sys2Proof.Machine.execRdbudget x s
  | .clock x => Sys2Proof.Machine.execClock x s
  | .fltrd x => Sys2Proof.Machine.execFltrd x s
  | .udf => Sys2Proof.Machine.execUdf s
  | .targetCheck team split => Sys2Proof.Machine.execTargetCheck team split s
  | .missReply team result lanes => Sys2Proof.Machine.execMissReply team result lanes s
  | .passRetry core => Sys2Proof.Machine.execPassRetry core s
  | .teamStarved team => Sys2Proof.Machine.execTeamStarved team s
  | .walkComplete core ctx va kind => Sys2Proof.Machine.execWalkComplete core ctx va kind s
  | .resolveReplayableFault ctx va ptes => Sys2Proof.Machine.execResolveReplayableFault ctx va ptes s
  | .markFaultFatal ctx va => Sys2Proof.Machine.execMarkFaultFatal ctx va s
  | .packageInvalidation pkg ctx lo hi => Sys2Proof.Machine.execPackageInvalidation pkg ctx lo hi s
  | .trapDelivery team => Sys2Proof.Machine.execTrapDelivery team s
  | .matrixReset core => Sys2Proof.Machine.execMatrixReset core s
  | .barrierTimeout gang barrier => Sys2Proof.Machine.execBarrierTimeout gang barrier s
  | .watchdog kind => Sys2Proof.Machine.execWatchdog kind s
  | .eventOverflow team split => Sys2Proof.Machine.execEventOverflow team split s
  | .dieReport ctx die => Sys2Proof.Machine.execDieReport ctx die s
  | .binLaunch ctx die handler => Sys2Proof.Machine.execBinLaunch ctx die handler s
  | .binTimerExpiry ctx die handler => Sys2Proof.Machine.execBinTimerExpiry ctx die handler s
  | .eventTeamPlace die => Sys2Proof.Machine.execEventTeamPlace die s
  | .gangPlace die => Sys2Proof.Machine.execGangPlace die s
  | .steal ctx die => Sys2Proof.Machine.execSteal ctx die s
  | .launchDequeue pkg => Sys2Proof.Machine.execLaunchDequeue pkg s
  | .windowRollover pkg celsius => Sys2Proof.Machine.execWindowRollover pkg celsius s
  | .preemptRequest target => Sys2Proof.Machine.execPreemptRequest target s
  | .preemptDelivery team => Sys2Proof.Machine.execPreemptDelivery team s
  | .deadline team => Sys2Proof.Machine.execDeadline team s
  | .forcedSave team => Sys2Proof.Machine.execForcedSave team s
  | .restore team core => Sys2Proof.Machine.execRestore team core s
  | .contextSwitch ctx pkg => Sys2Proof.Machine.execContextSwitch ctx pkg s
  | .driverResumeHeldTeam team terminate => Sys2Proof.Machine.execDriverResumeHeldTeam team terminate s
  | .blotterDepart die slot => Sys2Proof.Machine.execBlotterDepart die slot s
  | .blotterAgeExpiry die slot => Sys2Proof.Machine.execBlotterAgeExpiry die slot s
  | .packetArrival die packet => Sys2Proof.Machine.execPacketArrival die packet s
  | .packetAck die packet => Sys2Proof.Machine.execPacketAck die packet s
  | .flitData pkg port hdr tagOk => Sys2Proof.Machine.execFlitData pkg port hdr tagOk s
  | .flitIdle pkg port hdr => Sys2Proof.Machine.execFlitIdle pkg port hdr s
  | .flitLinkControl pkg port hdr => Sys2Proof.Machine.execFlitLinkControl pkg port hdr s
  | .flitKeyExchange pkg port hdr key => Sys2Proof.Machine.execFlitKeyExchange pkg port hdr key s
  | .retryTimeout pkg port => Sys2Proof.Machine.execRetryTimeout pkg port s
  | .linkSignalLoss pkg port => Sys2Proof.Machine.execLinkSignalLoss pkg port s
  | .keyLow pkg port => Sys2Proof.Machine.execKeyLow pkg port s
  | .keyExhausted pkg port => Sys2Proof.Machine.execKeyExhausted pkg port s
  | .keyTimeout pkg port => Sys2Proof.Machine.execKeyTimeout pkg port s
  | .critReport msg => Sys2Proof.Machine.execCritReport msg s
  | .reportAck msg => Sys2Proof.Machine.execReportAck msg s
  | .horizon msg => Sys2Proof.Machine.execHorizon msg s
  | .elect msg => Sys2Proof.Machine.execElect msg s
  | .reportResend pkg ctx => Sys2Proof.Machine.execReportResend pkg ctx s
  | .rootLost pkg root => Sys2Proof.Machine.execRootLost pkg root s
  | .heartbeat die => Sys2Proof.Machine.execHeartbeat die s
  | .heartbeatTimeout die => Sys2Proof.Machine.execHeartbeatTimeout die s
  | .dieFatalError die => Sys2Proof.Machine.execDieFatalError die s
  | .dieWriteback die => Sys2Proof.Machine.execDieWriteback die s
  | .contextCreate req => Sys2Proof.Machine.execContextCreate req s
  | .contextEnd ctx => Sys2Proof.Machine.execContextEnd ctx s
  | .hostLaunch ctx pkg queue record => Sys2Proof.Machine.execHostLaunch ctx pkg queue record s
  | .driverRouteTableWrite ctx first count image => Sys2Proof.Machine.execDriverRouteTableWrite ctx first count image s
  | .driverFaultQueueRead ctx => Sys2Proof.Machine.execDriverFaultQueueRead ctx s
  | .packagePowerOn pkg => Sys2Proof.Machine.execPackagePowerOn pkg s
  | .bootStage pkg image => Sys2Proof.Machine.execBootStage pkg image s
  | .thermalShutdown pkg => Sys2Proof.Machine.execThermalShutdown pkg s
  | .setPowerLimit pkg limit => Sys2Proof.Machine.execSetPowerLimit pkg limit s
  | .portEnable pkg port => Sys2Proof.Machine.execPortEnable pkg port s
  | .portDisable pkg port => Sys2Proof.Machine.execPortDisable pkg port s
  | .setMgmtAddress pkg ipv6 ipv4 => Sys2Proof.Machine.execSetMgmtAddress pkg ipv6 ipv4 s
  | .setTrustList pkg digests => Sys2Proof.Machine.execSetTrustList pkg digests s
  | .tlsConnect pkg attempt => Sys2Proof.Machine.execTlsConnect pkg attempt s
  | .attest pkg tag nonce => Sys2Proof.Machine.execAttest pkg tag nonce s
  | .fwchunk pkg tag stage offset bytes => Sys2Proof.Machine.execFwchunk pkg tag stage offset bytes s
  | .fwcommit pkg tag stage total image => Sys2Proof.Machine.execFwcommit pkg tag stage total image s
  | .linkkey pkg tag port key => Sys2Proof.Machine.execLinkkey pkg tag port key s
  | .specialFunctionResult team result => Sys2Proof.Machine.execSpecialFunctionResult team result s
  | .localAccessComplete team result => Sys2Proof.Machine.execLocalAccessComplete team result s
  | .dieAcknowledge team split => Sys2Proof.Machine.execDieAcknowledge team split s
  | .yieldDoneResume team core => Sys2Proof.Machine.execYieldDoneResume team core s
  | .adapterAccess req => Sys2Proof.Machine.execAdapterAccess req s
  | .linkTraining pkg port => Sys2Proof.Machine.execLinkTraining pkg port s
  | .setAllowance pkg ctx nj => Sys2Proof.Machine.execSetAllowance pkg ctx nj s
  | .badRequest pkg header => Sys2Proof.Machine.execBadRequest pkg header s

end Sys2Proof.Machine
end

