-- ==== Sys2Proof/Machine/Step.lean ====
section
/-! DEFINITION. One step of the machine, and a state in which a given word is the next instruction. -/
namespace Sys2Proof.Machine

/-- One step: what happens next is found, and its meaning executed. -/
def step (s : State) : Host.Outcome State Fault Refusal :=
  match s.nextInstr with
  | (s, some i) => exec i s
  | (s, none) => .next s

/-- The state in which the next step issues the instruction whose lowest bits are `w`: a context whose page tables
map the low gigabyte to itself, as core 0's TLB holds it, a team of one lane on core 0 whose root split stands at the line of the word, no step
of the device before it, and that core's turn (notes/assumptions/13). -/
def State.withFetchWord (s : State) (nbits w : Nat) : State :=
  let mem := bootTables.foldl (fun m (a, bs) => m.write a bs) s.mem
  { s with
    mem := mem.write 0x10000 (oneSlotLine (w % 2 ^ nbits))
    inbox := [], turns := [0], errors := []
    pkgs := putBy Pkg.id (s.pkg 0) s.pkgs
    ctxs := [{ id := 0, places := [(0, [0])], ptRoot := 0x1000 }]
    cores := putBy Core.id { id := 0, tlb := [{ ctx := 0, page := 0, level := 2, pte := 0x1F }] } s.cores
    clusters := delBy Cluster.id 0 s.clusters
    dies := delBy Die.id 0 s.dies
    teams := [{ id := 0x40, entry := { pc := 0x10000, vregs := 256 }, lanes := [{}], splits := [{ mask := 1, pc := 0x10000 }] }]
    gangs := [] }

end Sys2Proof.Machine
end

