-- ==== Sys2Proof/Certificates/Slice0/Obligations.lean ====
section
/-! DEFINITION. The statements for the provers, and the words in which they are written. -/
namespace Sys2Proof.Claims

open Sys2Proof.Machine

/-! ### The words of the statements -/

/-- The executing split issues `i`, which is encoded: some lane contributes (R40), and checks 6 and 7 are met. -/
structure Issues (i : Instr) (s : State) (e : Ex1) : Prop where
  now : ∃ h o, i.fields = some (h, o) ∧ s.current h.guard = some e
  lanes : e.slots ≠ []
  operands : operandsAllowed i e.t e.x.trap.isSome = true
  types : fpTypeOk i = true

/-- The queues that the source fields name deliver: the instruction goes on with `e'`, whose team's queues have moved,
and the values `p`, in the state `s'`, which is `s` (R38). Without a queue `e'` is `e`, and `p` has no value. -/
def Delivers (slots : List Nat) (i : Instr) (o : Ops) (e : Ex1) (s : State) (e' : Ex1) (p : Pops) (s' : State) : Prop :=
  popFields slots i o e.t = .ok (e'.t, p) ∧ e' = { e with t := e'.t } ∧ s' = s

/-- The state after an instruction that writes registers and sets flags: nothing but the executing team changes, and
of it only the registers written, FSTAT, the energy metered, and the split, which goes on at the next slot. -/
def laneNext (e : Ex1) (s : State) (ws : List RegWrite) (fl : Flags) (cls : Nat) : State :=
  s.setTeam (e.advance (s.charge { e.t.applyWrites ws with fstat := e.t.fstat ||| fl } cls (passes e.x.mask)))

/-- The words that a source field gives for a slot. -/
def source (e : Ex1) (p : List (Nat × Word)) (imm : Nat → Word) (slot : Nat) (o : Operand) (n : Nat) : List Word :=
  (List.range n).map (readField e.t p imm slot o)

/-- The value of words, lowest first. -/
def wordsVal : List Word → Nat
  | [] => 0
  | w :: ws => w.toNat + 2 ^ 32 * wordsVal ws

/-- Element `j` of `n` bits. -/
def element (n : Nat) (ws : List Word) (j : Nat) : BitVec n := BitVec.ofNat n (wordsVal ws / 2 ^ (n * j))

/-! ### Integer instructions, element by element (R52, R117 to R121, Table 6.2) -/

/-- An exact integer in `n` bits, clamped to their range. -/
def clampBits (n : Nat) (sgn : Bool) (r : Int) : BitVec n :=
  if sgn then BitVec.ofInt n (max (-(2 ^ (n - 1))) (min r (2 ^ (n - 1) - 1)))
  else BitVec.ofInt n (max 0 (min r (2 ^ n - 1)))

/-- An element as an integer. -/
def valueOf (sgn : Bool) (a : BitVec n) : Int := if sgn then a.toInt else a.toNat

/-- What an instruction does with elements of `n` bits. -/
abbrev ElemFn := IntOp → (n : Nat) → BitVec n → BitVec n → BitVec n → BitVec n

def addElem : ElemFn := fun x n a b _ =>
  if x.sat then clampBits n x.sgn (valueOf x.sgn a + valueOf x.sgn b) else a + b
def subElem : ElemFn := fun x n a b _ =>
  if x.sat then clampBits n x.sgn (valueOf x.sgn a - valueOf x.sgn b) else a - b
def mulElem : ElemFn := fun x n a b _ =>
  if x.sat then clampBits n x.sgn (valueOf x.sgn a * valueOf x.sgn b) else a * b
def madElem : ElemFn := fun x n a b c =>
  if x.sat then clampBits n x.sgn (valueOf x.sgn a * valueOf x.sgn b + valueOf x.sgn c) else a * b + c
/-- The upper half of the product of 2n bits. -/
def mulhElem : ElemFn := fun x n a b _ =>
  if x.sgn then (a.signExtend (2 * n) * b.signExtend (2 * n)).extractLsb' n n
  else (a.setWidth (2 * n) * b.setWidth (2 * n)).extractLsb' n n
def lessThan (sgn : Bool) (a b : BitVec n) : Bool := if sgn then a.slt b else a.ult b
def minElem : ElemFn := fun x _ a b _ => if lessThan x.sgn b a then b else a
def maxElem : ElemFn := fun x _ a b _ => if lessThan x.sgn a b then b else a
def min3Elem : ElemFn := fun x n a b c => minElem x n a (minElem x n b c 0) 0
/-- The sum is exact before the minimum is taken. -/
def addminElem : ElemFn := fun x n a b c =>
  let r := min (valueOf x.sgn a + valueOf x.sgn b) (valueOf x.sgn c)
  if x.sat then clampBits n x.sgn r else BitVec.ofInt n r
/-- The most negative number has no absolute value of its width: it stays, or saturates. -/
def absElem : ElemFn := fun x n a _ _ =>
  if !a.msb then a else if x.sat ∧ a = BitVec.intMin n then BitVec.intMax n else -a
def andElem : ElemFn := fun _ _ a b _ => a &&& b
def orElem : ElemFn := fun _ _ a b _ => a ||| b
def xorElem : ElemFn := fun _ _ a b _ => a ^^^ b
def notElem : ElemFn := fun _ _ a _ _ => ~~~a
def movElem : ElemFn := fun _ _ a _ _ => a
/-- Shift counts are taken modulo the element's width. -/
def shlElem : ElemFn := fun _ n a b _ => a <<< (b.toNat % n)
def shrElem : ElemFn := fun x n a b _ => if x.sgn then a.sshiftRight (b.toNat % n) else a >>> (b.toNat % n)
def rotElem : ElemFn := fun _ n a b _ => a.rotateLeft (b.toNat % n)
def popcElem : ElemFn := fun _ n a _ _ => BitVec.ofNat n ((List.range n).countP a.getLsbD)
def clzElem : ElemFn := fun _ n a _ _ => BitVec.ofNat n (if a = 0 then n else n - 1 - a.toNat.log2)

/-- Each lane that computes gets, element by element, `f` of the elements of its sources; nothing else changes but what
`laneNext` says. -/
def IntegerResult (mk : IntOp → Instr) (f : ElemFn) : Prop :=
  ∀ (x : IntOp) (s : State) (e : Ex1) (e' : Ex1) (p : Pops) (s' : State),
    (mk x).wf = true → Issues (mk x) s e → Delivers (execSlots x.d e.slots) (mk x) x.ops e s e' p s' →
    let n := elemBits x.width
    let src (i : Nat) (q : List (Nat × Word)) (o : Operand) (j : Nat) : BitVec n :=
      element n (source e' q (immInt x.width x.sgn x.imm) i o x.width.regs) j
    ∃ out : Nat → List Word,
      exec (mk x) s = .next (laneNext e' s' ((execSlots x.d e'.slots).flatMap fun i => destWrites x.d i (out i)) 0 4) ∧
      ∀ i ∈ execSlots x.d e'.slots, (out i).length = x.width.regs ∧
        ∀ j < 32 * x.width.regs / n,
          element n (out i) j = f x n (src i p.a x.a j) (src i p.b x.b j) (src i p.c x.c j)

end Sys2Proof.Claims

open Sys2Proof Sys2Proof.Machine Sys2Proof.Claims

/-- Integer arithmetic of every width, with and without `.sat` (R52, R116, R117, Table 6.2). -/
def Sys2Proof.Claims.IntegerArithmeticByElements : Prop :=
  IntegerResult .iadd addElem ∧ IntegerResult .isub subElem ∧ IntegerResult .imul mulElem ∧
  IntegerResult .imulh mulhElem ∧ IntegerResult .imad madElem ∧ IntegerResult .imin minElem ∧
  IntegerResult .imax maxElem ∧ IntegerResult .iabs absElem ∧ IntegerResult .iaddmin addminElem ∧
  IntegerResult .imin3 min3Elem

/-- Moves, logic, shifts and bit counts of every width (R117, R118, Table 6.2). -/
def Sys2Proof.Claims.BitwiseResultsByElements : Prop :=
  IntegerResult .mov movElem ∧ IntegerResult .and andElem ∧ IntegerResult .or orElem ∧ IntegerResult .xor xorElem ∧
  IntegerResult .not notElem ∧ IntegerResult .shl shlElem ∧ IntegerResult .shr shrElem ∧ IntegerResult .rot rotElem ∧
  IntegerResult .popc popcElem ∧ IntegerResult .clz clzElem

namespace Sys2Proof.Claims
open Sys2Proof.Machine

/-! ### Lane instructions by the words of each lane -/

/-- Every lane that computes gets the words of `f`, from its sources read before anything is written; the flags of all
lanes are ORed into FSTAT. -/
def LaneResult (i : Instr) (o : Ops) (imm : Nat → Word) (cls : Nat)
    (f : (Nat → Word) → (Nat → Word) → (Nat → Word) → List Word × Flags) : Prop :=
  ∀ (s : State) (e : Ex1) (e' : Ex1) (p : Pops) (s' : State),
    i.wf = true → Issues i s e → Delivers (execSlots o.d e.slots) i o e s e' p s' →
    let r (slot : Nat) : List Word × Flags :=
      f (readField e'.t p.a imm slot o.a) (readField e'.t p.b imm slot o.b) (readField e'.t p.c imm slot o.c)
    exec i s = .next (laneNext e' s' ((execSlots o.d e'.slots).flatMap fun slot => destWrites o.d slot (r slot).1)
      ((execSlots o.d e'.slots).foldl (fun g slot => g ||| (r slot).2) 0) cls)

/-- The condition of `icmp` on two numbers of a width (Table 3.11). -/
def condOf (c : Cond) (sgn : Bool) (a b : BitVec n) : Bool :=
  match c with
  | .eq => a == b
  | .ne => a != b
  | .lt => if sgn then a.slt b else a.ult b
  | .le => if sgn then a.sle b else a.ule b
  | .gt => if sgn then b.slt a else b.ult a
  | .ge => if sgn then b.sle a else b.ule a

def wide (get : Nat → Word) : BitVec 64 := get 1 ++ get 0
def halves (x : BitVec 64) : List Word := [x.extractLsb' 0 32, x.extractLsb' 32 32]
def grow (sgn : Bool) (b : Word) : BitVec 64 := if sgn then b.signExtend 64 else b.setWidth 64
def truth (b : Bool) : Word := if b then 1 else 0

/-- pos and len of R119. -/
def fieldOf (f : Word) : Nat × Nat :=
  let pos := (f.extractLsb' 0 5).toNat
  (pos, min (f.extractLsb' 8 6).toNat (32 - pos))

def bfxOf (sgn : Bool) (a f : Word) : Word :=
  let (pos, len) := fieldOf f
  let field : BitVec len := a.extractLsb' pos len
  if sgn then field.signExtend 32 else field.setWidth 32

/-- Bit k of the result is bit k − pos of b inside the field, and bit k of a outside it. -/
def bfiOf (a b f : Word) : Word :=
  let (pos, len) := fieldOf f
  (List.range 32).foldl (fun (w : Word) k =>
    if (if pos ≤ k ∧ k < pos + len then b.getLsbD (k - pos) else a.getLsbD k) then w ||| (1#32 <<< k) else w) 0

/-- Compare, select and address instructions: an operand of `.i64` is a pair, low word first. -/
def compareOf (c : Cond) (x : IntOp) (a b : Nat → Word) : Word :=
  if x.width = .w64 then truth (condOf c x.sgn (wide a) (wide b)) else truth (condOf c x.sgn (a 0) (b 0))
def selectOf (x : IntOp) (a b c : Nat → Word) : List Word :=
  let v := if c 0 = 0 then b else a
  if x.width = .w64 then [v 0, v 1] else [v 0]
def leaOf (m : BitVec 4) (x : IntOp) (a b c : Nat → Word) : List Word :=
  if x.width = .w64 then halves (wide a + (grow x.sgn (b 0)) * (1#64 <<< m.toNat) + wide c)
  else [a 0 + b 0 * (1#32 <<< m.toNat) + c 0]

/-! ### Floating point (R58 to R63, R122 to R128) -/

/-- An exact value rounded once, with INV where it is a NaN that no operand held. -/
def roundedFrom (f : Fmt) (r : Rnd) (nanIn : Bool) (x : Ex) : Nat × Flags :=
  let (bits, fl) := f.round r false x
  (bits, fl ||| if x.isNan && !nanIn then flagInv else 0)

/-- What an instruction does with elements of a format, given as exact values. -/
abbrev FloatFn := FpOp → Fmt → Ex → Ex → Ex → Nat × Flags

def faddF : FloatFn := fun x f a b _ => roundedFrom f x.rnd (a.isNan || b.isNan) (a.add x.rnd b)
def fsubF : FloatFn := fun x f a b _ => roundedFrom f x.rnd (a.isNan || b.isNan) (a.add x.rnd b.neg)
def fmulF : FloatFn := fun x f a b _ => roundedFrom f x.rnd (a.isNan || b.isNan) (a.mul b)
/-- One rounding of a × b + c; a product that is no number is invalid even where c is a NaN. -/
def ffmaF : FloatFn := fun x f a b c =>
  let (bits, fl) := roundedFrom f x.rnd (a.isNan || b.isNan || c.isNan) ((a.mul b).add x.rnd c)
  (bits, fl ||| if (a.mul b).isNan && !(a.isNan || b.isNan) then flagInv else 0)
def fminF : FloatFn := fun _ f a b _ =>
  f.round .rne false (if a.isNan then b else if b.isNan then a else if b.lt true a then b else a)
def fmaxF : FloatFn := fun _ f a b _ =>
  f.round .rne false (if a.isNan then b else if b.isNan then a else if a.lt true b then b else a)
/-- The minimum of the exact sum and c. -/
def faddminF : FloatFn := fun x f a b c =>
  let t := a.add x.rnd b
  let (bits, fl) := f.round x.rnd false (if t.isNan then c else if c.isNan then t else if c.lt true t then c else t)
  (bits, fl ||| if t.isNan && !(a.isNan || b.isNan) then flagInv else 0)
def fclassF : FloatFn := fun _ f a _ _ => (2 ^ fClass f a, 0)
def frndF : FloatFn := fun x f a _ _ => (fRnd f x.rnd a, 0)

/-- |a| first, then −a (R123). -/
def signed (abs neg : Bool) (v : Ex) : Ex :=
  let v := if abs then v.abs else v
  if neg then v.neg else v

def half (w : Word) (i : Nat) : Nat := (w.extractLsb' (16 * i) 16).toNat

/-- The result word and flags of an instruction that works element by element. -/
def floatWord (f : FloatFn) (x : FpOp) (a b c : Word) : List Word × Flags :=
  let one (fmt : Fmt) (a b c : Nat) : Nat × Flags :=
    f x fmt (signed x.absA x.negA (fmt.decode a)) (signed false x.negB (fmt.decode b)) (fmt.decode c)
  let both (fmt : Fmt) : List Word × Flags :=
    let lo := one fmt (half a 0) (half b 0) (half c 0)
    let hi := one fmt (half a 1) (half b 1) (half c 1)
    ([BitVec.ofNat 16 hi.1 ++ BitVec.ofNat 16 lo.1], lo.2 ||| hi.2)
  match x.ty with
  | .bf16x2 => both bf16
  | .f16x2 => both fp16
  | _ =>
    let r := one fp32 a.toNat b.toNat c.toNat
    ([BitVec.ofNat 32 r.1], r.2)

def FloatResult (mk : FpOp → Instr) (cls : Nat) (f : FloatFn) : Prop :=
  ∀ x : FpOp, LaneResult (mk x) x.ops (fun k => if k = 0 then immFp x.ty x.imm else 0) cls
    fun a b c => floatWord f x (a 0) (b 0) (c 0)

/-- The exact values of the two elements of A or B of `hfma2`, `hadd2`, `hmul2`. -/
def pairOf (x : FpOp) (abs neg : Bool) (w : Word) : Ex × Ex :=
  let v (i : Nat) : Ex := signed abs neg ((if x.ty = .bf16x2 then bf16 else fp16).decode (half w i))
  (v 0, v 1)

/-- a0 × b0 + a1 × b1 + c in FP32, rounded once; an immediate c is its own value. -/
def hfma2Of (x : FpOp) (a b c : Word) : List Word × Flags :=
  let (a0, a1) := pairOf x x.absA x.negA a
  let (b0, b1) := pairOf x false x.negB b
  let c := if x.c = .imm then e4m3.decode x.imm.toNat else fp32.decode c.toNat
  let inv (y : Ex) (nanIn : Bool) : Flags := if y.isNan && !nanIn then flagInv else 0
  let sum := ((a0.mul b0).add x.rnd (a1.mul b1)).add x.rnd c
  let nans := a0.isNan || b0.isNan || a1.isNan || b1.isNan
  let (bits, fl) := roundedFrom fp32 x.rnd (nans || c.isNan) sum
  ([BitVec.ofNat 32 bits], fl ||| inv (a0.mul b0) (a0.isNan || b0.isNan) ||| inv (a1.mul b1) (a1.isNan || b1.isNan))

/-- a0 + a1 + b in FP32, rounded once; an immediate b is its own value. -/
def hadd2Of (x : FpOp) (a b : Word) : List Word × Flags :=
  let (a0, a1) := pairOf x x.absA x.negA a
  let b := signed false x.negB (if x.b = .imm then e4m3.decode x.imm.toNat else fp32.decode b.toNat)
  let (bits, fl) := roundedFrom fp32 x.rnd (a0.isNan || a1.isNan || b.isNan) ((a0.add x.rnd a1).add x.rnd b)
  ([BitVec.ofNat 32 bits], fl)

/-- The pair of FP32 products. -/
def hmul2Of (x : FpOp) (a b : Word) : List Word × Flags :=
  let (a0, a1) := pairOf x x.absA x.negA a
  let (b0, b1) := pairOf x false x.negB b
  let p0 := roundedFrom fp32 x.rnd (a0.isNan || b0.isNan) (a0.mul b0)
  let p1 := roundedFrom fp32 x.rnd (a1.isNan || b1.isNan) (a1.mul b1)
  ([BitVec.ofNat 32 p0.1, BitVec.ofNat 32 p1.1], p0.2 ||| p1.2)

/-- The condition of `fcmp`: a NaN is unordered (R61, Table 3.12). -/
def fcmpOf (c : FCond) (a b : Ex) : Bool :=
  let un := a.isNan || b.isNan
  match c with
  | .eq => !un && !a.lt false b && !b.lt false a
  | .ne => un || a.lt false b || b.lt false a
  | .lt => !un && a.lt false b
  | .le => !un && !b.lt false a
  | .gt => !un && b.lt false a
  | .ge => !un && !a.lt false b
  | .num => !un
  | .nan => un

/-- A result in flight under LOOK: its writes and flags have not reached the team (R30, R31, R126). -/
def flightNext (e : Ex1) (s : State) (kind : LandKind) (h : Head) (ws : List RegWrite) (fl : Flags) (cls : Nat) : State :=
  let l : Landing := { id := e.t.nextLanding, split := e.x.id, kind := kind, look := if h.ver1 then 0 else h.look.toNat
                       writes := ws, flags := fl, lines := [], pc := 0, at' := 0 }
  s.setTeam (e.advance (s.charge { e.t with landings := e.t.landings ++ [l], nextLanding := e.t.nextLanding + 1 } cls
    (passes e.x.mask)))

/-- A special function: its result comes in flight; A is one FP32 number, with its sign modifiers. -/
def SpecialResult (mk : FpOp → Instr) (fn : SpecialFn) : Prop :=
  ∀ (x : FpOp) (s : State) (e : Ex1) (e' : Ex1) (p : Pops) (s' : State),
    (mk x).wf = true → Issues (mk x) s e → Delivers (execSlots x.d e.slots) (mk x) x.ops e s e' p s' →
    let r (slot : Nat) : Nat × Flags :=
      let a := signed x.absA x.negA (fp32.decode (readField e'.t p.a (fun k => if k = 0 then immFp .f32 x.imm else 0) slot x.a 0).toNat)
      specialResult fn x.rnd a (BitVec.ofNat 32 (fp32.round .rne false a).1)
    exec (mk x) s = .next (flightNext e' s' .special x.head
      ((execSlots x.d e'.slots).flatMap fun slot => destWrites x.d slot [BitVec.ofNat 32 (r slot).1])
      ((execSlots x.d e'.slots).foldl (fun g slot => g ||| (r slot).2) 0) 4)

/-- The formats of Table 4.1. -/
def IsFormat (f : Fmt) : Prop := f = fp32 ∨ f = fp16 ∨ f = bf16 ∨ f = e4m3 ∨ f = e5m2

/-! ### Rounding by the numbers (R53, R55, R58, R59, R63, R67, R68, R77) -/

/-- The number that an exact value stands for; 0 for what is no number. -/
def number : Ex → Rat
  | .fin neg m e => (if neg then -1 else 1) * (m : Rat) * (2 : Rat) ^ e
  | _ => 0

def isNumber : Ex → Bool
  | .fin _ _ _ => true
  | _ => false

/-- The largest finite number of a format, and the next one that an unbounded exponent would give. -/
def largest (f : Fmt) : Rat :=
  if f = fp32 then 2 ^ 128 - 2 ^ 104 else if f = fp16 then 65504 else if f = bf16 then 2 ^ 128 - 2 ^ 120
  else if f = e4m3 then 448 else 57344
def beyond (f : Fmt) : Rat :=
  if f = fp32 ∨ f = bf16 then 2 ^ 128 else if f = fp16 ∨ f = e5m2 then 65536 else 480
/-- The smallest normal number. -/
def smallest (f : Fmt) : Rat := (2 : Rat) ^ (if f = fp32 ∨ f = bf16 then -126 else if f = e4m3 then -6 else -14 : Int)

/-- Rounded with an unbounded exponent the number is larger than the largest one; a tie goes to the even code, which of
E4M3 is the largest one's. -/
def overflows (f : Fmt) (r : Rnd) (neg : Bool) (a : Rat) : Bool :=
  match r with
  | .rne => if f = e4m3 then decide ((largest f + beyond f) / 2 < a) else decide ((largest f + beyond f) / 2 ≤ a)
  | .rz => decide (beyond f ≤ a)
  | .rdn => if neg then decide (largest f < a) else decide (beyond f ≤ a)
  | .rup => if neg then decide (beyond f ≤ a) else decide (largest f < a)

/-- The overflow values of Table 4.3 and R67. -/
def overflowValue (f : Fmt) (r : Rnd) (sat neg : Bool) : Nat :=
  let toInf := match r with | .rne => true | .rz => false | .rdn => neg | .rup => !neg
  let sign := if !neg then 0 else if f = fp32 then 0x80000000 else if f = fp16 ∨ f = bf16 then 0x8000 else 0x80
  if toInf && !sat then
    if f = fp32 then sign + 0x7F800000 else if f = fp16 then sign + 0x7C00 else if f = bf16 then sign + 0x7F80
    else if f = e4m3 then 0x7F else sign + 0x7C
  else
    if f = fp32 then sign + 0x7F7FFFFF else if f = fp16 then sign + 0x7BFF else if f = bf16 then sign + 0x7F7F
    else if f = e4m3 then sign + 0x7E else sign + 0x7B

/-- The magnitude of an LG6 code (Table 4.2). -/
def lg6Magnitude (code : Nat) : Rat :=
  let e := code % 32
  if e = 0 then 0 else (([4096, 4871, 5793, 6889][e % 4]?).getD 0 : Nat) * (2 : Rat) ^ ((e / 4 : Nat) - 16 : Int)
/-- Its number (R55). -/
def lg6Number (code : Nat) : Rat := if 32 ≤ code then -lg6Magnitude code else lg6Magnitude code

/-! ### Conversion (R129 to R131, Tables 4.5, 6.6) -/

/-- The registers of an element: one, extended by sign for s8 and s16 and by zero else, or a pair. -/
def elementRegs (ty : CType) (bits : Nat) : List Word :=
  if ty.regs = 2 then [BitVec.ofNat 32 bits, BitVec.ofNat 32 (bits / 2 ^ 32)] else [BitVec.ofNat 32 (extendResult ty bits)]

/-- The number that a source pattern stands for, where its type is no integer. -/
def numberOf (src : CType) (bits : Nat) : Ex :=
  if src = .lg6 then lg6Decode (bits % 64) else (typeFmt src).decode (bits % 2 ^ typeBits src)

/-- One element (R66 to R68, Table 4.5): an integer goes through its exact value, any other source through its number;
reading the LG6 code 0b100000 is invalid. -/
def convertOf (r : Rnd) (sat : Bool) (src dst : CType) (bits : Nat) : Nat × Flags :=
  let int : Int := valueOf (typeSigned src) (BitVec.ofNat (typeBits src) bits)
  if src.isInt then
    if dst.isInt then
      ((if sat then clampBits (typeBits dst) (typeSigned dst) int else BitVec.ofInt (typeBits dst) int).toNat, 0)
    else (typeFmt dst).round r sat (.ofInt int 0)
  else
    let x := numberOf src bits
    let read : Flags := if src = .lg6 ∧ bits % 64 = 32 then flagInv else 0
    let out : Nat × Flags :=
      if dst = .lg6 then lg6Round r x
      else if dst.isInt then
        let whole (i : Int) : BitVec (typeBits dst) := clampBits (typeBits dst) (typeSigned dst) i
        match x with
        | .nan => (0, flagInv)
        | .inf neg => ((whole (if neg then -(2 ^ 64) else 2 ^ 64)).toNat, flagInv)
        | .fin neg m e =>
          let n : Int := (roundShift r neg m (-e)).1
          let i := if neg then -n else n
          ((whole i).toNat, if valueOf (typeSigned dst) (whole i) = i then 0 else flagInv)
      else match x with
        | .inf neg => (overflowValue (typeFmt dst) r sat neg, 0)
        | x => (typeFmt dst).round r sat x
    (out.1, read ||| out.2)

def cvtOf (x : CvtOp) (a : Nat → Word) : List Word × Flags :=
  let src := if x.src.regs = 2 then (a 1 ++ a 0).toNat else (a 0).toNat
  let r := convertOf x.rnd x.sat x.src x.dst src
  (elementRegs x.dst r.1, r.2)

/-- Bits that an element takes in a packed register. -/
def packedBits (ty : CType) : Nat := if ty = .lg6 then 6 else 32 / ty.packed

def packOf (x : CvtOp) (a b : Nat → Word) : List Word × Flags :=
  let r (i : Nat) : Nat × Flags :=
    convertOf x.rnd x.sat x.src x.dst (if x.dst.packed = 2 then (if i = 0 then a 0 else b 0) else a i).toNat
  let w := packedBits x.dst
  let sum := ((List.range x.dst.packed).map fun i => (r i).1 % 2 ^ w * 2 ^ (w * i)).sum
  ([BitVec.ofNat 32 sum], (List.range x.dst.packed).foldl (fun g i => g ||| (r i).2) 0)

def unpkOf (x : CvtOp) (a : Nat → Word) : List Word × Flags :=
  let w := packedBits x.src
  let r (i : Nat) : Nat × Flags := convertOf x.rnd (x.sat && !x.src.isInt) x.src x.dst ((a 0).toNat / 2 ^ (w * i) % 2 ^ w)
  ((List.range x.src.packed).map fun i => BitVec.ofNat 32 (extendResult x.dst (r i).1),
    (List.range x.src.packed).foldl (fun g i => g ||| (r i).2) 0)

/-! ### Lane movement (R132 to R139) -/

/-- A movement instruction: `f` gives each contributing lane's word from the list of all of them (slot, A, B, C); an
s-register takes the first. -/
def MoveResult (i : Instr) (x : MoveOp) (f : List (Nat × Word × Word × Word) → Nat → Word)
    (fl : List (Nat × Word × Word × Word) → Flags) : Prop :=
  ∀ (s : State) (e : Ex1) (e' : Ex1) (p : Pops) (s' : State),
    i.wf = true → Issues i s e → Delivers e.slots i x.ops e s e' p s' →
    let get (q : List (Nat × Word)) (slot : Nat) (o : Operand) : Word := readField e'.t q (immInt .w32 x.sgn x.imm) slot o 0
    let l := e'.slots.map fun i => (i, get p.a i x.a, get p.b i x.b, get p.c i x.c)
    exec i s = .next (laneNext e' s'
      ((execSlots x.d e'.slots).flatMap fun i => destWrites x.d i [f l i]) (fl l) 4)

abbrev Lanes := List (Nat × Word × Word × Word)
def rowOf (l : Lanes) (i : Nat) : Word × Word × Word := ((l.find? fun q => q.1 == i).map Prod.snd).getD (0, 0, 0)
def aOf (l : Lanes) (i : Nat) : Word := (rowOf l i).1
def bOf (l : Lanes) (i : Nat) : Word := (rowOf l i).2.1
def cOf (l : Lanes) (i : Nat) : Word := (rowOf l i).2.2
/-- Lanes below a slot: the slot's rank. -/
def rankOf (l : Lanes) (i : Nat) : Nat := (l.filter fun q => decide (q.1 < i)).length

/-- A of the slot `j`, where it contributes; else C. -/
def fromSlot (l : Lanes) (i : Nat) (j : Int) : Word :=
  match l.find? fun q => (q.1 : Int) == j with
  | some q => q.2.1
  | none => cOf l i
def lpickOf (m : PickMode) (l : Lanes) (i : Nat) : Word :=
  fromSlot l i (match m with
    | .at => (bOf l i).toNat
    | .off => i + (bOf l i).toInt
    | .xor => (i ^^^ (bOf l i).toNat : Nat)
    | .mir => (i ^^^ (2 ^ min (bOf l i).toNat 10 - 1) : Nat))
/-- A of the lane whose rank is the slot's own plus or minus B, where there is one; else C. -/
def lshOf (down : Bool) (l : Lanes) (i : Nat) : Word :=
  let n := (bOf l i).toNat
  if !down ∧ rankOf l i < n then cOf l i
  else match l[if down then rankOf l i + n else rankOf l i - n]? with
    | some q => q.2.1
    | none => cOf l i
/-- Bit k of word w: slot 32 w + k contributes with A nonzero. -/
def ballotOf (l : Lanes) (w : Nat) : Word :=
  (l.filter fun q => q.2.1 != 0 && q.1 / 32 == w).foldl (fun (m : Word) q => m ||| (1 <<< (q.1 % 32))) 0
def voteOf (m : VoteMode) (toS : Bool) (l : Lanes) (i : Nat) : Word :=
  match m with
  | .all => truth (l.all fun q => q.2.1 != 0)
  | .any => truth (l.any fun q => q.2.1 != 0)
  | .uni => truth (l.all fun q => q.2.1 == aOf l i)
  | .ballot => ballotOf l (if toS then (bOf l i).toNat else i / 32)
/-- One step of an integer reduction. -/
def stepOf (op : ROp) (sgn : Bool) (a b : Word) : Word :=
  match op with
  | .add => a + b
  | .min => if lessThan sgn a b then a else b
  | .max => if lessThan sgn a b then b else a
  | .and => a &&& b
  | .or => a ||| b
  | .xor => a ^^^ b
/-- The reduction of the first values. -/
def reduceOf (op : ROp) (sgn : Bool) : List Word → Word
  | [] => 0
  | a :: l => l.foldl (stepOf op sgn) a
/-- FP32 in slot order, each step rounded to nearest; a single value is canonical when it is a NaN. -/
def reduceF (op : ROp) : List Word → Word × Flags
  | [] => (0, 0)
  | a :: l =>
    l.foldl (fun (acc : Word × Flags) b =>
      let x := fp32.decode acc.1.toNat
      let y := fp32.decode b.toNat
      let r := match op with
        | .min => fMin fp32 x y
        | .max => fMax fp32 x y
        | _ => fAdd fp32 .rne x y
      (BitVec.ofNat 32 r.1, acc.2 ||| r.2)) (if (fp32.decode a.toNat).isNan then 0x7FC00000 else a, 0)
def valuesOf (l : Lanes) : List Word := l.map fun q => q.2.1
def reduxOf (op : ROp) (flt sgn : Bool) (l : Lanes) : Word :=
  if flt then (reduceF op (valuesOf l)).1 else reduceOf op sgn (valuesOf l)
def reduxFlags (op : ROp) (flt : Bool) (l : Lanes) : Flags := if flt then (reduceF op (valuesOf l)).2 else 0
/-- The identity of an operation (Table 6.8). -/
def identityOf (op : ROp) (flt sgn : Bool) : Word :=
  match op with
  | .add | .or | .xor => 0
  | .and => 0xFFFFFFFF
  | .min => if flt then 0x7F800000 else if sgn then 0x7FFFFFFF else 0xFFFFFFFF
  | .max => if flt then 0xFF800000 else if sgn then 0x80000000 else 0
/-- The reduction of the lanes up to a slot, the slot's own value in or out. -/
def scanOf (op : ROp) (flt sgn excl : Bool) (l : Lanes) (i : Nat) : Word :=
  let n := if excl then rankOf l i else rankOf l i + 1
  if n = 0 then identityOf op flt sgn else reduxOf op flt sgn (l.take n)
def matchOf (all : Bool) (l : Lanes) (i : Nat) : Word :=
  let same := l.filter fun q => q.2.1 == aOf l i
  if all then BitVec.ofNat 32 same.length else BitVec.ofNat 32 ((same.head?.map Prod.fst).getD 0)
/-- Word A of the contributing mask, or the word of nonzero words at 32. -/
def rdmaskOf (l : Lanes) (i : Nat) : Word :=
  let word (w : Nat) : Word := (l.filter fun q => q.1 / 32 == w).foldl (fun (m : Word) q => m ||| (1 <<< (q.1 % 32))) 0
  let w := (aOf l i).toNat
  if w < 32 then word w
  else if w = 32 then (List.range 32).foldl (fun (m : Word) v => if word v = 0 then m else m ||| (1 <<< v)) 0
  else 0

end Sys2Proof.Claims

/-- Compare, select, addresses, bit fields and the add with carry (R117, R119 to R121). A scale of `lea` above 16 is
ILLEGAL_ENCODING; `iadds` with carry-out 7 discards the carry, and only so may it have an s-register destination. -/
def Obligations.CompareSelectAddressResults : Prop :=
  (∀ c (x : IntOp), LaneResult (.icmp c x) x.ops (immInt x.width x.sgn x.imm) 4 fun a b _ => ([compareOf c x a b], 0)) ∧
  (∀ x : IntOp, LaneResult (.sel x) x.ops (immInt x.width x.sgn x.imm) 4 fun a b c => (selectOf x a b c, 0)) ∧
  (∀ m (x : IntOp), LaneResult (.lea m x) x.ops (immInt x.width x.sgn x.imm) 4 fun a b c => (leaOf m x a b c, 0)) ∧
  (∀ x : IntOp, LaneResult (.iadd64 x) x.ops (immInt .w64 x.sgn x.imm) 4 fun a b _ =>
    (halves (wide a + grow x.sgn (b 0)), 0)) ∧
  (∀ x : IntOp, LaneResult (.bfx x) x.ops (immInt .w32 x.sgn x.imm) 4 fun a b _ => ([bfxOf x.sgn (a 0) (b 0)], 0)) ∧
  (∀ x : IntOp, LaneResult (.bfi x) x.ops (immInt .w32 x.sgn x.imm) 4 fun a b c => ([bfiOf (a 0) (b 0) (c 0)], 0)) ∧
  (∀ (p : BitVec 3) (x : IntOp) (s : State) (e e' : Ex1) (q : Pops) (s' : State),
    (Instr.iadds p x).wf = true → Issues (.iadds p x) s e →
    Delivers (execSlots x.d e.slots) (.iadds p x) x.ops e s e' q s' →
    let sum (i : Nat) : BitVec 33 :=
      let get (l : List (Nat × Word)) (o : Operand) : Word := readField e'.t l (immInt .w32 x.sgn x.imm) i o 0
      (get q.a x.a).setWidth 33 + (get q.b x.b).setWidth 33 + if get q.c x.c = 0 then 0 else 1
    exec (.iadds p x) s = .next (laneNext e' s' ((execSlots x.d e'.slots).flatMap fun i =>
      destWrites x.d i [(sum i).setWidth 32] ++ [⟨some i, .p p, truth (sum i).msb⟩]) 0 4)) ∧
  (∀ h (s : State) (e : Ex1), s.current h.guard = some e → exec (.nop h) s = .next (s.setTeam (e.advance e.t))) ∧
  (∀ w : Insn, let r := Raw.ofInsn w
    r.ver.toNat < 2 → r.opc = 0x17 → 4 < (r.mod.extractLsb' 0 4).toNat → decode w = .error .encoding) ∧
  (∀ (w : Insn) p x, decode w = .ok (.iadds p x) → (Raw.ofInsn w).mod2 = 0#5 ++ p ∧ (x.d.kind = .s → p = 7)) ∧
  (∀ (t : Team) i v, t.applyWrites [⟨some i, .p 7, v⟩] = t)

/-- Floating-point arithmetic: exact results, rounded once (R58, R61, R122 to R125, Table 6.3). That INV is set for infinity
times zero also beside a NaN, and not for infinity minus infinity beside one, is the model's choice (notes/assumptions/37). -/
def Obligations.FloatArithmeticResults : Prop :=
  FloatResult .fadd 3 faddF ∧ FloatResult .fsub 3 fsubF ∧ FloatResult .fmul 3 fmulF ∧ FloatResult .ffma 3 ffmaF ∧
  FloatResult .fmin 4 fminF ∧ FloatResult .fmax 4 fmaxF ∧ FloatResult .faddmin 3 faddminF ∧
  FloatResult .fclass 4 fclassF ∧ FloatResult .frnd 4 frndF ∧
  (∀ c (x : FpOp), LaneResult (.fcmp c x) x.ops (fun k => if k = 0 then immFp x.ty x.imm else 0) 4 fun a b _ =>
    ([truth (fcmpOf c (signed x.absA x.negA (fp32.decode (a 0).toNat)) (signed false x.negB (fp32.decode (b 0).toNat)))], 0)) ∧
  (∀ x : FpOp, LaneResult (.hfma2 x) x.ops (fun k => if k = 0 then immFp x.ty x.imm else 0) 3 fun a b c =>
    hfma2Of x (a 0) (b 0) (c 0)) ∧
  (∀ x : FpOp, LaneResult (.hadd2 x) x.ops (fun k => if k = 0 then immFp x.ty x.imm else 0) 3 fun a b _ =>
    hadd2Of x (a 0) (b 0)) ∧
  (∀ x : FpOp, LaneResult (.hmul2 x) x.ops (fun k => if k = 0 then immFp x.ty x.imm else 0) 3 fun a b _ =>
    hmul2Of x (a 0) (b 0))

namespace Sys2Proof.Claims
open Sys2Proof.Machine

/-- The special function of a word, in a rounding mode. -/
def specialOf (fn : SpecialFn) (r : Rnd) (b : Word) : Nat × Flags := specialResult fn r (fp32.decode b.toNat) b

/-- The special inputs of Table 4.7: a NaN, the infinities and the zeros. -/
def SpecialInputs (r : Rnd) : Prop :=
  (∀ fn b, fp32.decode b.toNat = .nan → specialOf fn r b = (0x7FC00000, 0)) ∧
  specialOf .rcp r 0 = (0x7F800000, 2) ∧ specialOf .rcp r 0x80000000 = (0xFF800000, 2) ∧
  specialOf .rcp r 0x7F800000 = (0, 0) ∧ specialOf .rcp r 0xFF800000 = (0x80000000, 0) ∧
  specialOf .rsq r 0 = (0x7F800000, 2) ∧ specialOf .rsq r 0x80000000 = (0xFF800000, 2) ∧
  specialOf .rsq r 0x7F800000 = (0, 0) ∧ specialOf .rsq r 0xFF800000 = (0x7FC00000, 1) ∧
  specialOf .sqrt r 0 = (0, 0) ∧ specialOf .sqrt r 0x80000000 = (0x80000000, 0) ∧
  specialOf .sqrt r 0x7F800000 = (0x7F800000, 0) ∧ specialOf .sqrt r 0xFF800000 = (0x7FC00000, 1) ∧
  specialOf .exp2 r 0x7F800000 = (0x7F800000, 0) ∧ specialOf .exp2 r 0xFF800000 = (0, 0) ∧
  specialOf .log2 r 0 = (0xFF800000, 2) ∧ specialOf .log2 r 0x80000000 = (0xFF800000, 2) ∧
  specialOf .log2 r 0x7F800000 = (0x7F800000, 0) ∧ specialOf .log2 r 0xFF800000 = (0x7FC00000, 1) ∧
  specialOf .sin r 0 = (0, 0) ∧ specialOf .sin r 0x80000000 = (0x80000000, 0) ∧
  (∀ fn ∈ [SpecialFn.sin, .cos], ∀ b ∈ [(0x7F800000 : Word), 0xFF800000], specialOf fn r b = (0x7FC00000, 1)) ∧
  specialOf .tanh r 0 = (0, 0) ∧ specialOf .tanh r 0x80000000 = (0x80000000, 0) ∧
  specialOf .tanh r 0x7F800000 = (0x3F800000, 0) ∧ specialOf .tanh r 0xFF800000 = (0xBF800000, 0)

/-- What Table 4.7 says of the finite inputs by exact numbers: negative inputs of `frsq`, `fsqrt` and `flog2`; the inputs from 128
on, and the integers, of `fexp2`; the powers of two of `flog2`; `fsqrt` correctly rounded; and the large inputs of `fsin` and
`fcos`. The bounds of the others lie about free values (notes/assumptions/11). -/
def SpecialNumbers (r : Rnd) (b : Word) (m : Nat) (neg : Bool) (e : Int) : Prop :=
  fp32.decode b.toNat = .fin neg m e → m ≠ 0 →
  let x := number (.fin neg m e)
  (neg = true → ∀ fn ∈ [SpecialFn.rsq, .sqrt, .log2], specialOf fn r b = (0x7FC00000, 1)) ∧
  (128 ≤ x → specialOf .exp2 r b = (0x7F800000, 4)) ∧
  (∀ i : Int, -149 ≤ i → i ≤ 127 → x = i →
    isNumber (fp32.decode (specialOf .exp2 r b).1) = true ∧ number (fp32.decode (specialOf .exp2 r b).1) = (2 : Rat) ^ i ∧
    (specialOf .exp2 r b).2 = 0) ∧
  (∀ i : Int, x = (2 : Rat) ^ i →
    isNumber (fp32.decode (specialOf .log2 r b).1) = true ∧ number (fp32.decode (specialOf .log2 r b).1) = i ∧
    (specialOf .log2 r b).2 = 0) ∧
  (neg = false →
    let y := number (fp32.decode (specialOf .sqrt r b).1)
    let z (k : Nat) : Rat := number (fp32.decode k)
    isNumber (fp32.decode (specialOf .sqrt r b).1) = true ∧ (specialOf .sqrt r b).2 = 0 ∧ 0 < y ∧
    ∀ k < 0x7F800000,
      (r = .rz ∨ r = .rdn → y * y ≤ x ∧ (y < z k → x < z k * z k)) ∧
      (r = .rup → x ≤ y * y ∧ (z k < y → z k * z k < x)) ∧
      (r = .rne → (y < z k → x ≤ (y + z k) * (y + z k) / 4) ∧ (z k < y → (y + z k) * (y + z k) / 4 ≤ x))) ∧
  (2 ^ 15 < x.abs → ∀ fn ∈ [SpecialFn.sin, .cos],
    isNumber (fp32.decode (specialOf fn r b).1) = true ∧ (number (fp32.decode (specialOf fn r b).1)).abs ≤ 1)

end Sys2Proof.Claims

/-- Special functions come in flight (R30, R126), and what Table 4.7 says of their special inputs and exact results (R77). Inside
its bounds a result is a free value (notes/assumptions/11). -/
def Obligations.SpecialFunctionsIssue : Prop :=
  SpecialResult .frcp .rcp ∧ SpecialResult .frsq .rsq ∧ SpecialResult .fsqrt .sqrt ∧ SpecialResult .fexp2 .exp2 ∧
  SpecialResult .flog2 .log2 ∧ SpecialResult .fsin .sin ∧ SpecialResult .fcos .cos ∧ SpecialResult .ftanh .tanh ∧
  (∀ r, SpecialInputs r) ∧ (∀ r b m neg e, SpecialNumbers r b m neg e)

/-- Conversions (R65 to R69, R129 to R131). -/
def Obligations.ConversionResults : Prop :=
  (∀ x : CvtOp, LaneResult (.cvt x) x.ops (immPlain x.imm) 4 fun a _ _ => cvtOf x a) ∧
  (∀ x : CvtOp, LaneResult (.pack x) x.ops (immPlain x.imm) 4 fun a b _ => packOf x a b) ∧
  (∀ x : CvtOp, LaneResult (.unpk x) x.ops (immPlain x.imm) 4 fun a _ _ => unpkOf x a)

/-- Lane movement (R132 to R139). That the exclusive scan with .f32 has the flags of every step of the inclusive sum is the model's
choice (notes/assumptions/37). -/
def Obligations.LaneMovementResults : Prop :=
  (∀ m x, MoveResult (.lpick m x) x (lpickOf m) fun _ => 0) ∧
  (∀ d x, MoveResult (.lsh d x) x (lshOf d) fun _ => 0) ∧
  (∀ m x, MoveResult (.vote m x) x (voteOf m (x.d.kind == .s)) fun _ => 0) ∧
  (∀ op flt x, MoveResult (.redux op flt x) x (fun l _ => reduxOf op flt x.sgn l) (reduxFlags op flt)) ∧
  (∀ op flt excl x, MoveResult (.scan op flt excl x) x (scanOf op flt x.sgn excl) (reduxFlags op flt)) ∧
  (∀ all x, MoveResult (.matchLanes all x) x (matchOf all) fun _ => 0) ∧
  (∀ x, MoveResult (.rdmask x) x rdmaskOf fun _ => 0)

/-- Rounding leaves every number of a format as it is, without a flag, in every mode (R58, R59). -/
def Sys2Proof.Claims.RoundingKeepsRepresentable : Prop :=
  ∀ (f : Fmt) (r : Rnd) (n : Nat), IsFormat f → n < 2 ^ (1 + f.ebits + f.mbits) →
    (∀ neg m e, f.decode n = .fin neg m e → ∀ sat, f.round r sat (f.decode n) = (n, 0)) ∧
    (∀ neg, f.decode n = .inf neg → f.round r false (f.decode n) = (n, 0)) ∧
    (f.decode n = .nan → f.round r false (f.decode n) = (f.nan, 0))

/-- Directed rounding errs on its own side (Table 4.3): a finite result is not above the exact value toward −∞, not
below it toward +∞, and not larger in magnitude toward zero. -/
def Sys2Proof.Claims.DirectedRoundingBounds : Prop :=
  ∀ (f : Fmt) (neg : Bool) (m : Nat) (e : Int), IsFormat f →
    let x : Ex := .fin neg m e
    let y (r : Rnd) : Ex := f.decode (f.round r false x).1
    (∀ n k g, y .rdn = .fin n k g → (x.lt false (y .rdn)) = false) ∧
    (∀ n k g, y .rup = .fin n k g → ((y .rup).lt false x) = false) ∧
    (x.abs.lt false (y .rz).abs) = false ∧ ∃ n k g, y .rz = .fin n k g

/-- Rounding to nearest gives a nearest number of the format, of two the one with the even code (R58, Table 4.3). -/
def Sys2Proof.Claims.NearestIsNearest : Prop :=
  ∀ (f : Fmt) (neg : Bool) (m : Nat) (e : Int) (k : Nat), IsFormat f →
    let x := number (.fin neg m e)
    let n := (f.round .rne false (.fin neg m e)).1
    let y (k : Nat) : Rat := number (f.decode k)
    isNumber (f.decode n) = true → k < 2 ^ (1 + f.ebits + f.mbits) → isNumber (f.decode k) = true →
      (x - y n).abs ≤ (x - y k).abs ∧ ((x - y n).abs = (x - y k).abs → y k ≠ y n → n % 2 = 0)

/-- OVF and the values of Table 4.3 where a number overflows, with and without `.sat`; UNF where it is nonzero, below the smallest
normal one, and not kept; no other flag (R59, R63, R67). -/
def Sys2Proof.Claims.OverflowAndUnderflow : Prop :=
  ∀ (f : Fmt) (r : Rnd) (sat neg : Bool) (m : Nat) (e : Int), IsFormat f →
    let x := number (.fin neg m e)
    let y := f.round r sat (.fin neg m e)
    (overflows f r neg x.abs = true → y = (overflowValue f r sat neg, 4)) ∧
    (overflows f r neg x.abs = false → isNumber (f.decode y.1) = true ∧
      y.2 = if x ≠ 0 ∧ x.abs < smallest f ∧ number (f.decode y.1) ≠ x then 8 else 0)

/-- LG6: the numbers of its codes (R55), and the code nearest in the direction of the mode (R68). That its conversion sets no UNF
is the model's choice (notes/assumptions/37). -/
def Sys2Proof.Claims.Lg6Conversions : Prop :=
  (∀ c < 64, isNumber (lg6Decode c) = true ∧ number (lg6Decode c) = lg6Number c) ∧
  (∀ r, lg6Round r .nan = (0, 1) ∧ lg6Round r (.inf false) = (31, 0) ∧ lg6Round r (.inf true) = (63, 0)) ∧
  ∀ (r : Rnd) (neg : Bool) (m : Nat) (e : Int) (k : Nat), k < 64 → k ≠ 32 →
    let x := number (.fin neg m e)
    let y := lg6Round r (.fin neg m e)
    (6889 / 512 < x.abs → y = (if neg then 63 else 31, 4)) ∧
    (x.abs ≤ 6889 / 512 → y.1 < 64 ∧ y.1 ≠ 32 ∧ y.2 = 0 ∧
      (r = .rne → (x - lg6Number y.1).abs ≤ (x - lg6Number k).abs ∧
        ((x - lg6Number y.1).abs = (x - lg6Number k).abs → k ≠ y.1 → y.1 % 2 = 0)) ∧
      (r = .rz → lg6Magnitude y.1 ≤ x.abs ∧ (lg6Magnitude y.1 < lg6Magnitude k → x.abs < lg6Magnitude k) ∧
        (y.1 = 0 ∨ (32 ≤ y.1 ↔ neg = true))) ∧
      (r = .rdn → lg6Number y.1 ≤ x ∧ (lg6Number y.1 < lg6Number k → x < lg6Number k)) ∧
      (r = .rup → x ≤ lg6Number y.1 ∧ (lg6Number k < lg6Number y.1 → lg6Number k < x)))

namespace Sys2Proof.Claims
open Sys2Proof.Machine

/-! ### The machine, decoding and traps -/

/-- The instruction, or the step of the device, answers a next state, of which `P` holds. -/
def Leads (i : Instr) (s : State) (P : State → Prop) : Prop := ∃ t, exec i s = .next t ∧ P t

/-- The opcodes that Table 3.16 assigns. -/
def assigned (opc : Nat) : Bool :=
  [(0x00, 27), (0x20, 20), (0x40, 2), (0x50, 6), (0x60, 10), (0x70, 10), (0x90, 7), (0xA0, 5), (0xB0, 5), (0xC0, 7),
    (0xD0, 3), (0xE0, 7), (0xF0, 4)].any fun (lo, n) => decide (lo ≤ opc) && decide (opc ≤ lo + n)

/-- A team as a trap delivered at `label` leaves it (R152): the window in j0 to j3, the split at the label with its mark,
no run-ahead elements (R195); everything else as it was. -/
def deliveredAt (t : Team) (x : Split) (label : Pc) (code : Nat) (pc : Pc) (j2 j3 : Word) (resume : Pc)
    (faulting : Mask) : Team :=
  { t with
    j := #v[BitVec.ofNat 32 code, pc.setWidth 32, j2, j3]
    f := t.f.map fun q => { q with queued := [] }
    splits := setBy Split.id { x.clear with
      pc := label, check := some pc, wait := .ready, block := .none
      trap := some { resume := resume, given := pc.setWidth 32, join := x.join, creator := x.creator, lap := x.lap
                     faulting := faulting } } t.splits }

/-- The split is in no handler, and its team takes a trap at once, at `label`. -/
structure TakesTrap (s : State) (t : Team) (x : Split) (label : Pc) : Prop where
  found : t.split? x.id = some x
  outside : x.trap = none
  label : t.entry.trap = some label
  free : t.inHandler = false ∧ t.held = []
  noExchange : s.xshufArrival (t.landSplit x.id) x = false

/-- Every memory of bytes is in its canonical form: HBM, die scratchpads, pools, scratchpads, slices, L1 lines. -/
structure Canonical (s : State) : Prop where
  home : s.mem.wf = true
  rams : ∀ d ∈ s.dies, d.ram.cells.wf = true
  pools : ∀ g ∈ s.gangs, g.pool.cells.wf = true
  teams : ∀ t ∈ s.teams, t.scratch.cells.wf = true ∧ ∀ l ∈ t.lanes, l.slice.cells.wf = true
  lines : ∀ c ∈ s.cores, ∀ ln ∈ c.l1, ln.data.wf = true
  orphans : ∀ d ∈ s.dies, ∀ c ∈ d.cmds, ∀ r n, c.orphan = some (r, n) → r.cells.wf = true

end Sys2Proof.Claims

/-- Decoding the encoding of any well-formed instruction gives the instruction back: every operand at every value that
the encoding admits (R29 to R42). -/
def Obligations.DecodeOfEncode : Prop := ∀ i : Instr, i.wf = true → decode (encode i) = .ok i

/-- What the decoder gives is well-formed: checks 5 and 6 as far as the word decides them (R40). -/
def Sys2Proof.Claims.DecodedIsWellFormed : Prop := ∀ (w : Insn) (i : Instr), decode w = .ok i → i.wf = true

/-- Checks 3 and 4 of Table 3.15, in their order; `udf` is a word of its own, and raises check 4's fault (R40, R41). -/
def Sys2Proof.Claims.ReservedWordsAreRefused : Prop :=
  ∀ w : Insn,
    (decode w = .error .version ↔ 2 ≤ (w.extractLsb' 94 2).toNat) ∧
    (decode w = .error .opcode ↔ (w.extractLsb' 94 2).toNat < 2 ∧ w.extractLsb' 82 8 ≠ 0xFF ∧
      assigned (w.extractLsb' 82 8).toNat = false) ∧
    (decode w = .ok .udf ↔ (w.extractLsb' 94 2).toNat < 2 ∧ w.extractLsb' 82 8 = 0xFF)

/-- Words written out in the specification: Tables 3.7 and 3.8, `nop` and `udf` of R41. -/
def Obligations.WordsOfTheSpecDecode : Prop :=
  decode 0x018004BFFFFC000008000008 = .ok (.bra true ⟨⟨false, 0, ⟨false, 2⟩⟩, 0, 4, 1, 0⟩) ∧
  decode 0x0DC225C0401808FFC1060000 =
    .ok (.ld ⟨⟨false, 3, ⟨false, 7⟩⟩, .glb, .b32, .sync, 3, false, false, false, .v 4, .v 6, .v 8, .zero, 4⟩) ∧
  decode 0x000001FFFFFFFFFFC0000000 = .ok (.nop ⟨false, 0, ⟨false, 7⟩⟩) ∧
  decode 0x03FC01FFFFFFFFFFC0000000 = .ok .udf

/-- The machine right after reset: no context, no team, no command, nothing in memory, no error, no event for management;
every register that a creation writes is absent (R346, notes/assumptions/5, 6, 7, 10, 32). -/
def Sys2Proof.Claims.StateAfterReset : Prop :=
  let s := State.reset
  s.teams = [] ∧ s.ctxs = [] ∧ s.launches = [] ∧ s.gangs = [] ∧ s.inbox = [] ∧ (∀ a, s.mem.get a = 0) ∧
  s.poison = [] ∧ s.hbmPoison = [] ∧ s.badReplies = [] ∧ s.badWrites = [] ∧ s.errors = [] ∧
  (∀ p, (s.pkg p).cycle = 0 ∧ (s.pkg p).nextTeam = 0x40 ∧ (s.pkg p).ctl.powered = false ∧ (s.pkg p).ports = []) ∧
  s.wrongReplies = [] ∧ s.wrongWrites = [] ∧
  (∀ c, (s.core c).l1 = [] ∧ (s.core c).seq = 0 ∧ (s.core c).planes = []) ∧
  (∀ d, (s.die d).fenced = false ∧ (s.die d).l2 = [] ∧ (s.die d).walks = [] ∧ (s.die d).gates = [] ∧ (s.die d).blotters = [] ∧
    (s.die d).packets = [] ∧ (s.die d).requests = [] ∧ (s.die d).cmds = [] ∧ (s.die d).routes = [])

/-- Nothing stands before the word at the split's PC: its entry of the split table has no error, its page needs no walk, and no
open instruction of another split has a register of it still to read or write (R87, R108, R262, R264). -/
structure Sys2Proof.Claims.MayFetch (s : State) (t : Team) (x : Split) (s2 : State) (bs : List Byte) (i : Instr) : Prop where
  entry : x.spilled = false ∨ t.badRegs.contains (spillKey x.id) = false
  walked : s.fetchWalk t x (pcLine x.pc).toNat = none
  line : s.fetchLine t.coreNo t.ctx (pcLine x.pc).toNat = (s2, .ok bs)
  word : decode (slotWord bs (pcSlot x.pc)) = .ok i
  free : x.op.isSome = true ∨ t.regHeld x i = false

/-- A step of a core runs the instruction that the bytes at the chosen split's PC decode to. Around it time passes, the
core takes its turn, the team is no candidate any more (R165), what the instruction reads and no shadow covers completes (R108),
the split moves to the end of its round (R103) and is named as the one that executes; without an error in a register every lane
takes part (R264). -/
def Sys2Proof.Claims.CoreStepRunsItsWord : Prop :=
  ∀ (s : State) (c : Nat) (t : Team) (x : Split) (s2 : State) (bs : List Byte) (i : Instr),
    let s0 := s.advance
    s0.inbox = [] → s0.timeoutDue = none → s0.turnCore = some c →
    let s1 : State := { s0 with turns := s0.turns.drop 1, cur := { s0.cur with core := c } }
    s1.choose c = some (t, x, false) → x.check = none →
    MayFetch (s1.setCore { s1.core c with retried := false }) t x s2 bs i →
    let w := slotWord bs (pcSlot x.pc)
    let b := s2.beginIssue t x w (some i)
    step s = exec i b ∧
    (b.cur.core = t.coreNo ∧ b.cur.team = t.key ∧ b.cur.split = x.id ∧ b.cur.pc = x.pc ∧ b.cur.word = w) ∧
    (t.badRegs = [] → x.op = none → b.cur.except = 0) ∧
    ∀ g e, b.current g = some e → e.pc = x.pc ∧ e.word = w ∧ e.x.id = x.id

/-- A split that tries again, whatever let it wait, runs the word at its PC in the same way, after the replies of its
core have arrived: a rejected pass whose entries are free, an ordering stall, an event that stalled (R182, R314). -/
def Sys2Proof.Claims.RetriesRunTheirWord : Prop :=
  ∀ (s : State) (c key id : Nat) (t : Team) (x : Split) (s2 : State) (bs : List Byte) (i : Instr),
    let s1 := s.coreReplies c
    s1.team? key = some t → t.split? id = some x → x.needWalks = 0 → x.needEntries = 0 →
    (x.wait = .rejected ∨ x.wait = .order ∧ x.block = .none ∨ ∃ j n m h, x.wait = .order ∧ x.block = .stalled j n m h) →
    let y : Split := { x with tried := s1.tick }
    let u := t.setSplit y
    MayFetch (s1.setTeam u) u y s2 bs i →
    let w := slotWord bs (pcSlot x.pc)
    let b := s2.beginIssue u y w (some i)
    s.retrySplit c key id = (b, some i) ∧
    b.cur.core = u.coreNo ∧ b.cur.team = u.key ∧ b.cur.split = x.id ∧ b.cur.pc = x.pc ∧ b.cur.word = w

/-- A word that checks 3 or 4 refuse raises its fault whatever the guard says; one that checks 5 or 6 refuse does so when
a lane contributes, and is a no-op otherwise (R40). j2 is the word's bits [95:64]. -/
def Sys2Proof.Claims.RefusedWordsTrap : Prop :=
  ∀ (s : State) (w : Insn) (e : Ex1),
    (s.current ⟨false, 7⟩ = some e →
      s.rejectWord .version w =
        s.raise e.t e.x (e.cause codeIllegalEncoding (e.word.extractLsb' 64 32) e.low e.mask) ∧
      s.rejectWord .opcode w =
        s.raise e.t e.x (e.cause codeIllegalOpcode (e.word.extractLsb' 64 32) e.low e.mask) ∧
      exec .udf s = .next (s.raise e.t e.x (e.cause codeIllegalOpcode (e.word.extractLsb' 64 32) e.low e.mask))) ∧
    (s.current ⟨w.getLsbD 73, w.extractLsb' 70 3⟩ = some e →
      (e.slots = [] → s.rejectWord .encoding w = s.setTeam (e.advance e.t) ∧
        s.rejectWord .operand w = s.setTeam (e.advance e.t)) ∧
      (e.slots ≠ [] →
        s.rejectWord .encoding w =
          s.raise e.t e.x (e.cause codeIllegalEncoding (e.word.extractLsb' 64 32) e.low e.mask) ∧
        s.rejectWord .operand w =
          s.raise e.t e.x (e.cause codeIllegalOperand (e.word.extractLsb' 64 32) e.low e.mask)))

/-- A barrier's timeout that is due happens before anything else (R243), and the first step of the device before any instruction:
the model's order of what the spec leaves open (notes/assumptions/3). -/
def Sys2Proof.Claims.StepTakesTheInboxFirst : Prop :=
  (∀ (s : State) (i : Instr), s.advance.timeoutDue = some i → step s = exec i s.advance) ∧
  ∀ (s : State) (i : Instr) (rest : List Instr), s.advance.timeoutDue = none → s.advance.inbox = i :: rest →
    i.fields = none → i ≠ .udf → step s = exec i { s.advance with inbox := rest }

/-- No step stops the machine: there is always a next state, since every fault of the manual is delivered, held or
recorded (R152, R156). -/
def Obligations.NoStepStops : Prop := ∀ s : State, ∃ t, step s = .next t

/-- Every step keeps every memory of bytes in its canonical form. -/
def Obligations.EveryStepKeepsEveryByteMemory : Prop := ∀ s t : State, Canonical s → step s = .next t → Canonical t

/-- The forms hold after reset. -/
def Sys2Proof.Claims.MemoryFormsAfterReset : Prop := State.reset.mem.wf = true ∧ Canonical State.reset

/-- With no contributing lane an encoded instruction only goes on at the next slot, whatever it is (R40). -/
def Sys2Proof.Claims.NoLaneNoEffect : Prop :=
  ∀ (i : Instr) (h : Head) (o : Ops) (s : State) (e : Ex1), i.fields = some (h, o) → s.current h.guard = some e →
    e.slots = [] → exec i s = .next (s.setTeam (e.advance e.t))

/-- Checks 6 and 7 trap before any effect: j2 = instruction bits [95:64], the resume PC is the instruction's (R40). -/
def Sys2Proof.Claims.DecodeChecksTrapBeforeAnyEffect : Prop :=
  ∀ (i : Instr) (h : Head) (o : Ops) (s : State) (e : Ex1), i.fields = some (h, o) → s.current h.guard = some e →
    e.slots ≠ [] →
    (operandsAllowed i e.t e.x.trap.isSome = false →
      exec i s = .next (s.raise e.t e.x (e.cause codeIllegalOperand (e.word.extractLsb' 64 32) e.low e.mask))) ∧
    (operandsAllowed i e.t e.x.trap.isSome = true → fpTypeOk i = false →
      exec i s = .next (s.raise e.t e.x (e.cause codeFormat (e.word.extractLsb' 64 32) e.low e.mask)))

/-- What taking a trap saves and where the split goes (R90, R152, R156, R445): delivered at the label; held while another
split is in a handler; fatal without a label, but for a breakpoint; a fault in a handler is DOUBLE_TRAP. -/
def Obligations.TakingATrap : Prop :=
  ∀ (s : State) (t : Team) (x : Split) (c : Cause), s.xshufArrival (t.landSplit x.id) x = false →
    let u := t.landSplit x.id
    (∀ label, TakesTrap s t x label →
      s.raise t x c = s.setTeam (deliveredAt u x label c.code c.pc c.j2 c.j3 c.resume c.lanes)) ∧
    (∀ label, x.trap = none → t.entry.trap = some label → (t.inHandler = true ∨ t.held ≠ []) →
      s.raise t x c = s.setTeam { u with
        splits := setBy Split.id { x.clear with wait := .trap, block := .held c [], since := s.tick } u.splits, held := u.held ++ [x.id] }) ∧
    (x.trap = none → t.entry.trap = none → c.code ≠ codeBreakpoint → s.raise t x c = s.fatal u c) ∧
    (x.trap.isSome = true →
      s.raise t x c = s.fatal u { c with code := codeDoubleTrap, level := 1, addr := c.code, j2 := 0, index := none })

namespace Sys2Proof.Claims
open Sys2Proof.Machine

/-! ### Control flow -/

/-- The team with a control instruction's passes metered: class 4, one for each nonzero mask word (Table 17.4). -/
def metered (s : State) (e : Ex1) : Team := s.charge e.t 4 (passes e.x.mask)

/-- A team but for its splits, the shadows that end, and what is metered. -/
def besides (t : Team) : Team :=
  { t with splits := [], landings := t.landings.map fun l => { l with look := 0 }, metered := 0 }

/-- The same but for the slices of its lanes. -/
def besidesSlices (t : Team) : Team := { besides t with lanes := t.lanes.map fun l => { l with slice := {} } }

/-- Of a slice only bytes 0 to 3, which hold DEPTH, may differ, and the eight bytes of RET[`n`] where one is named (Table 7.2). -/
def SliceKept (a b : Lane) (n : Option Nat) : Prop :=
  ∀ x, 4 ≤ x → (∀ k, n = some k → x < 8 + 8 * k ∨ 16 + 8 * k ≤ x) → b.slice.cells.get x = a.slice.cells.get x

/-- Each slot's lane stands at its PC, in a split that is no frame record. -/
def LanesAt (t : Team) (slots : List Nat) (pc : Nat → Pc) : Prop :=
  ∀ i ∈ slots, ∃ y ∈ t.splits, y.record = false ∧ slotIn y.mask i = true ∧ y.pc = pc i

/-- Lanes of the split that the instruction's guard leaves out. -/
def Ex1.others (e : Ex1) : List Nat := (maskSlots e.x.mask).filter fun i => !e.slots.contains i

/-- The instruction finds room for `n` more entries, and the split's entries are real ones. -/
structure Room (e : Ex1) (n : Nat) : Prop where
  space : e.t.splits.length + n ≤ 16 + e.t.entry.splitspill
  ids : e.t.splits.length + n ≤ 4096
  split : e.x.record = false

/-- Every lane that the split holds exists. -/
def LanesExist (e : Ex1) : Prop := ∀ i ∈ maskSlots e.x.mask, i < e.t.lanes.length

/-- The guard holds in every active lane. -/
def AllLanes (e : Ex1) : Prop := e.x.mask &&& ~~~(maskOf e.slots) = 0

/-- Where a branch-format instruction goes (R33). -/
def target (e : Ex1) (x : BrOp) : Pc := branchTarget e.pc x.toff x.tslot

/-- The join that a divided `bra` makes a new frame for: that of a `bra.div`, where it is not the split's own (R95). -/
def newFrame (div : Bool) (e : Ex1) (x : BrOp) : Option Pc :=
  let j := branchTarget e.pc x.joff x.jslot
  if div = true ∧ j ≠ e.x.join then some j else none

/-- The page of a join needs no walk first (R262). -/
def JoinWalked (e : Ex1) (s : State) (j : Pc) : Prop :=
  s.fetchWalk (metered s e) { e.x with again := true } (pcLine j).toNat = none

/-- The join of a new frame may be entered: its line is read, in `s'`, and its slot's TGT bit is set (R25). -/
def JoinOpen (e : Ex1) (s : State) (j : Option Pc) (s' : State) : Prop :=
  match j with
  | none => s' = s
  | some j => targetOk j = true ∧ JoinWalked e s j ∧ tgtClear s e.t j = (s', false)

/-- It may not: it is no slot of a line, or its TGT bit is clear. -/
def JoinClosed (e : Ex1) (s : State) (j : Pc) (s' : State) : Prop :=
  targetOk j = false ∧ s' = s ∨ targetOk j = true ∧ JoinWalked e s j ∧ tgtClear s e.t j = (s', true)

/-- A split that transfers as a whole: its target is checked at the first fetch (R145). -/
def transferred (x : Split) (pc target : Pc) : Split :=
  { x.clear with pc := target, check := some pc, wait := .ready, block := .none }

end Sys2Proof.Claims

/-- `bra`: the lanes that take the branch stand at the target, the others at the next instruction; nothing but the split
table, shadows and the meter changes. A whole split transfers, with its lap raised by a target not after the branch, and
what a raised lap completes merges; a divided split whose entries find no room raises SPLIT_DEPTH, and a new frame whose
join may not be entered ILLEGAL_TARGET (R25, R95, R96, R101). -/
def Sys2Proof.Claims.BranchDividesLanes : Prop :=
  ∀ (div : Bool) (x : BrOp) (s : State) (e : Ex1), (Instr.bra div x).wf = true → Issues (.bra div x) s e →
    let back := decide ((target e x).toNat ≤ e.pc.toNat)
    (AllLanes e → exec (.bra div x) s = .next (s.setTeam (Team.afterLap
      (((metered s e).setSplit { transferred e.x e.pc (target e x) with
        lap := if back then e.x.lap + 1 else e.x.lap }).endShadow e.x.id) back))) ∧
    (∀ s', ¬AllLanes e → JoinOpen e s (newFrame div e x) s' → Room e 2 →
      ∃ t u, exec (.bra div x) s = .next (s'.setTeam u) ∧ (u = t ∨ back ∧ u = t.mergeJoins) ∧
        besides t = besides e.t ∧
        LanesAt t e.slots (fun _ => target e x) ∧ LanesAt t (Ex1.others e) fun _ => pcNext e.pc) ∧
    (∀ s' j, ¬AllLanes e → newFrame div e x = some j → JoinClosed e s j s' →
      exec (.bra div x) s = .next (s'.raise (metered s e) e.x
        (e.cause codeIllegalTarget (j.setWidth 32) e.low e.mask j.toNat))) ∧
    (¬AllLanes e → div = false → 16 + e.t.entry.splitspill < e.t.splits.length + 1 →
      exec (.bra div x) s = .next (s.raise (metered s e) e.x (e.cause codeSplitDepth
        (BitVec.ofNat 32 e.t.splits.length) (lowestSlot e.x.mask) e.mask)))

/-- `bra.div` with lanes of both kinds makes the split the record of a new frame, whose two members join at J (R95). -/
def Sys2Proof.Claims.DivergentBranchMakesAFrame : Prop :=
  ∀ (x : BrOp) (s s' : State) (e : Ex1) (j : Pc), (Instr.bra true x).wf = true → Issues (.bra true x) s e → ¬AllLanes e →
    Room e 2 → newFrame true e x = some j → JoinOpen e s (some j) s' →
    ∃ t a b r, exec (.bra true x) s = .next (s'.setTeam t) ∧
      t.splits.map Split.id = [a.id, b.id] ++ (delBy Split.id e.x.id e.t.splits).map Split.id ++ [e.x.id] ∧
      t.split? a.id = some a ∧ t.split? b.id = some b ∧ t.split? e.x.id = some r ∧
      (a.mask = maskOf e.slots ∧ a.pc = target e x ∧ a.join = j ∧ a.creator = e.x.id ∧ a.wait = .ready) ∧
      (b.mask = e.x.mask &&& ~~~(maskOf e.slots) ∧ b.pc = pcNext e.pc ∧ b.join = j ∧ b.creator = e.x.id ∧
        b.wait = .ready ∧ b.lap = e.x.lap) ∧
      r.record = true ∧ r.mask = e.x.mask ∧ r.wait = .frame ∧ r.join = e.x.join ∧ r.creator = e.x.creator

/-- `call` pushes the return PC of each contributing lane and goes to its target; `ret` pops it and goes there, the
lanes of one PC together; `brx` goes to each lane's own target, once its join may be entered. Lanes left out go on
(R143, R144, R146, R147). -/
def Sys2Proof.Claims.CallsReturnsAndIndirectBranches : Prop :=
  (∀ (x : BrOp) (s : State) (e : Ex1), (Instr.call x).wf = true → Issues (.call x) s e → Room e 1 → LanesExist e →
    128 ≤ e.t.entry.slice → (∀ i ∈ e.slots, (e.t.lane i).depth < 15 ∧ (e.t.lane i).slice.cells.wf = true) →
    ∃ t, exec (.call x) s = .next (s.setTeam t) ∧ besidesSlices t = besidesSlices e.t ∧
      LanesAt t e.slots (fun _ => target e x) ∧ LanesAt t (Ex1.others e) (fun _ => pcNext e.pc) ∧
      ∀ i < e.t.lanes.length, if i ∈ e.slots then
          (t.lane i).depth = (e.t.lane i).depth + 1 ∧ (t.lane i).ret (e.t.lane i).depth = pcNext e.pc ∧
            SliceKept (e.t.lane i) (t.lane i) (some (e.t.lane i).depth)
        else t.lane i = e.t.lane i) ∧
  (∀ (h : Head) (s : State) (e : Ex1), (Instr.ret h).wf = true → Issues (.ret h) s e → Room e (1 + e.slots.length) →
    LanesExist e → 128 ≤ e.t.entry.slice → (∀ i ∈ e.slots, 0 < (e.t.lane i).depth ∧ (e.t.lane i).slice.cells.wf = true) →
    ∃ t, exec (.ret h) s = .next (s.setTeam t) ∧ besidesSlices t = besidesSlices e.t ∧
      LanesAt t e.slots (fun i => (e.t.lane i).ret ((e.t.lane i).depth - 1)) ∧
      LanesAt t (Ex1.others e) (fun _ => pcNext e.pc) ∧
      ∀ i < e.t.lanes.length, if i ∈ e.slots then
          (t.lane i).depth = (e.t.lane i).depth - 1 ∧ SliceKept (e.t.lane i) (t.lane i) none
        else t.lane i = e.t.lane i) ∧
  (∀ (x : PlainOp) (s s' : State) (e : Ex1), (Instr.brx x).wf = true → Issues (.brx x) s e →
    JoinOpen e s (if x.b = .zero then none else
      some (offsetTarget e.pc (readField e.t [] (immPlain x.imm) e.low x.b 0))) s' →
    Room e (1 + e.slots.length) →
    ∃ t u, exec (.brx x) s = .next (s'.setTeam u) ∧ (u = t ∨ u = t.mergeJoins) ∧ besides t = besides e.t ∧
      LanesAt t (e.slots.filter fun i => targetOk (offsetTarget e.pc (e.t.regRead i x.a 0)))
        (fun i => offsetTarget e.pc (e.t.regRead i x.a 0)) ∧
      LanesAt t (Ex1.others e) fun _ => pcNext e.pc)

/-- Each call and return stops where its link stack does: BOUNDS at depth 15, ILLEGAL_TARGET at depth 0, and both without
a link area (R146, R147). -/
def Sys2Proof.Claims.LinkStackBounds : Prop :=
  (∀ (x : BrOp) (s : State) (e : Ex1) (i : Nat), Issues (.call x) s e → AllLanes e →
    (e.slots.find? fun i => decide (e.t.entry.slice < 128) || (e.t.lane i).depth == 15) = some i →
    exec (.call x) s = .next (s.raise (metered s e) e.x (e.cause codeBounds 0 i e.mask))) ∧
  (∀ (h : Head) (s : State) (e : Ex1) (i : Nat), Issues (.ret h) s e → AllLanes e →
    (e.slots.find? fun i => decide (e.t.entry.slice < 128) || (e.t.lane i).depth == 0) = some i →
    exec (.ret h) s = .next (s.raise (metered s e) e.x (e.cause codeIllegalTarget 0 i e.mask)))

/-- `join` outside its frame goes on; in it the split waits with reason 3, and a complete frame instance merges into one
split of all its lanes, behind the `join`, in the record's frame (R97, R98, R148). -/
def Obligations.JoinWaitsAndMerges : Prop :=
  (∀ (any : Bool) (h : Head) (s : State) (e : Ex1), (Instr.join any h).wf = true → Issues (.join any h) s e →
    if e.x.creator = noEntry ∨ e.x.join ≠ e.pc then exec (.join any h) s = .next (s.setTeam (e.advance (metered s e)))
    else exec (.join any h) s = .next (s.setTeam
      ((metered s e).setSplit { e.x with wait := .join, joinAny := any, since := s.tick }).mergeJoins)) ∧
  (∀ (t : Team) (x y c : Split), t.splits = [x, y, c] → x.id ≠ y.id → x.id ≠ c.id → y.id ≠ c.id →
    x.wait = .join → y.wait = .join → x.pc = y.pc → x.join = y.join → x.creator = c.id → y.creator = c.id → x.lap = y.lap →
    c.id ≠ noEntry → x.record = false → y.record = false → c.record = true → c.wait = .frame →
    (c.join ≠ x.join ∨ c.creator ≠ c.id ∨ (c.lap ≠ x.lap ∧ x.joinAny = false)) → c.mask = x.mask ||| y.mask →
    ∃ m, t.mergeJoins.splits = [m] ∧ m.id = c.id ∧ m.mask = c.mask ∧ m.pc = pcNext x.pc ∧ m.wait = .ready ∧
      m.record = false ∧ m.join = c.join ∧ m.creator = c.creator ∧ m.lap = c.lap)

/-- `exit`: the contributing lanes are gone from their team and from every split, or the team has ended: the whole team
where no other lane is left. A split of which only some lanes exit needs room for one more entry; without it SPLIT_DEPTH
is raised (R83, R99, R101, R143, R149). -/
def Obligations.ExitRemovesItsLanes : Prop :=
  ∀ (h : Head) (s : State) (e : Ex1), (Instr.exit h).wf = true → Issues (.exit h) s e →
    (LanesExist e → (AllLanes e ∨ Room e 1) →
      ∃ s1, exec (.exit h) s = .next s1 ∧
        (AllLanes e → e.t.splits = [e.x] → s1.team? e.t.key = none) ∧
        ∀ u, s1.team? e.t.key = some u →
          ∀ i ∈ e.slots, (u.lane i).live = false ∧ ∀ y ∈ u.splits, slotIn y.mask i = false) ∧
    (¬AllLanes e → 16 + e.t.entry.splitspill < e.t.splits.length + 1 →
      exec (.exit h) s = .next (s.raise (metered s e) e.x (e.cause codeSplitDepth
        (BitVec.ofNat 32 e.t.splits.length) (lowestSlot e.x.mask) e.mask)))

/-- `trap` and `brk` raise SOFTWARE and BREAKPOINT with j2 = the lowest trapping lane's A, to resume behind them; without
a label a breakpoint stops the team and records itself (R143, R152, R154, R155). -/
def Sys2Proof.Claims.SoftwareTrapAndBreakpoint : Prop :=
  ∀ (x : PlainOp) (s : State) (e e' : Ex1) (p : Pops) (s' : State) (label : Pc),
    let a := readField e'.t p.a (immPlain x.imm) e'.low x.a 0
    let u := e'.t.landSplit e'.x.id
    ((Instr.trap x).wf = true → Issues (.trap x) s e → AllLanes e → Delivers e.slots (.trap x) x.ops (e.charged s) s e' p s' →
      TakesTrap s' e'.t e'.x label →
      exec (.trap x) s = .next (s'.setTeam (deliveredAt u e'.x label codeSoftware e'.pc a (BitVec.ofNat 32 e'.low)
        (pcNext e'.pc) e'.mask))) ∧
    ((Instr.brk x).wf = true → Issues (.brk x) s e → AllLanes e → Delivers e.slots (.brk x) x.ops (e.charged s) s e' p s' →
      (TakesTrap s' e'.t e'.x label →
        exec (.brk x) s = .next (s'.setTeam (deliveredAt u e'.x label codeBreakpoint e'.pc a (BitVec.ofNat 32 e'.low)
          (pcNext e'.pc) e'.mask))) ∧
      (e'.x.trap = none → e'.t.entry.trap = none → s'.xshufArrival u e'.x = false → Leads (.brk x) s fun s1 =>
        ∀ v, s1.team? e'.t.key = some v → v.status = .held))

/-- `tret` of the frame in which the trap was delivered clears the mark and goes to the PC of j1 and the recorded resume
PC; j1 as delivered gives the recorded PC itself. Without a mark it is ILLEGAL_OPCODE, in another frame DOUBLE_TRAP
(R153, R441). A fault of some of its lanes that became due with the one delivered (R442) is delivered at that PC, where no
other split of the team is in a handler: the model's reading (notes/assumptions/40). -/
def Sys2Proof.Claims.ReturnFromTrap : Prop :=
  ∀ (h : Head) (s : State) (e : Ex1), (Instr.tret h).wf = true → Issues (.tret h) s e →
    (e.x.trap = none → exec (.tret h) s =
      .next (s.raise (metered s e) e.x (e.cause codeIllegalOpcode 0 e.low e.mask))) ∧
    ∀ m, e.x.trap = some m → m.preempt = false →
      if e.x.join = m.join ∧ e.x.creator = m.creator ∧ e.x.lap = m.lap then
        let back := if e.t.j[1] = m.given then m.resume else (m.resume.extractLsb' 32 25) ++ e.t.j[1]
        (e.t.held = [] → (∀ c ∈ m.more, c.lanes &&& e.x.mask = 0) →
          exec (.tret h) s = .next (s.setTeam ((metered s e).setSplit { e.x with
            trap := none, pc := back, wait := .ready, check := if back = m.resume then none else some e.pc }))) ∧
        ∀ label c more, e.t.entry.trap = some label → (∀ y ∈ e.t.splits, y.id ≠ e.x.id → y.trap = none) →
          (m.more.filter fun c => c.lanes &&& e.x.mask != 0) = c :: more → c.code ≠ codeWplaneLost →
          ∃ t y, exec (.tret h) s = .next (s.setTeam t) ∧ t.j = #v[BitVec.ofNat 32 c.code, c.pc.setWidth 32, c.j2, c.j3] ∧
            t.held = e.t.held ∧ t.split? e.x.id = some y ∧ y.pc = label ∧ y.mask = e.x.mask ∧ y.trap = some
              { resume := back, given := c.pc.setWidth 32, join := m.join, creator := m.creator, lap := m.lap
                faulting := c.lanes &&& e.x.mask, more := more }
      else exec (.tret h) s = .next (s.raise (metered s e) e.x (e.cause codeDoubleTrap 0 e.low e.mask))

/-- `rdsplit` reads Table 7.3; `nap` waits with reason 9 until its cycle, and 0 cycles are no wait; the end of a nap makes
the split ready, the clock being at least at that cycle (R150, R151). -/
def Sys2Proof.Claims.SplitTableReadsAndNaps : Prop :=
  (∀ (x : PlainOp) (s : State) (e : Ex1), (Instr.rdsplit x).wf = true → Issues (.rdsplit x) s e →
    let sel := (readField e.t [] (immPlain x.imm) e.low x.a 0).toNat
    let value (i : Nat) : Word :=
      if sel = 0 then BitVec.ofNat 32 (e.x.id + e.x.creator * 2 ^ 16)
      else if sel = 1 then BitVec.ofNat 32 (e.x.lap.toNat + (if e.x.dem then 256 else 0) + e.x.wait.code.toNat * 512 +
        if e.x.record then 8192 else 0)
      else if sel = 2 then e.x.join.setWidth 32
      else if sel = 3 then BitVec.ofNat 32 e.t.splits.length
      else if sel = 4 then BitVec.ofNat 32 (e.t.splits.filter fun y => y.spilled).length
      else if sel = 5 then BitVec.ofNat 32 (e.t.lane i).depth
      else if sel = 6 then truth ((e.x.trap.map fun m => slotIn m.faulting i).getD false)
      else 0
    exec (.rdsplit x) s = .next (s.setTeam (e.advance ((metered s e).applyWrites
      ((execSlots x.d e.slots).flatMap fun i => destWrites x.d i [value i]))))) ∧
  (∀ (x : PlainOp) (s : State) (e : Ex1), (Instr.nap x).wf = true → Issues (.nap x) s e →
    let n := (readField e.t [] (immPlain x.imm) e.low x.a 0).toNat
    ∃ t y, exec (.nap x) s = .next (s.setTeam t) ∧ t.split? e.x.id = some y ∧ y.pc = pcNext e.pc ∧
      (if n = 0 then y.wait = .ready else y.wait = .nap ∧ y.napUntil = s.cycle e.t.pkg + n)) ∧
  (∀ (team split : Nat) (s : State) (t : Team) (x : Split), s.team? team = some t → t.split? split = some x → x.wait = .nap →
    Leads (.napExpiry team split) s fun s1 =>
      (∃ u y, s1.team? team = some u ∧ u.split? split = some y ∧ y = { x with wait := .ready }) ∧
      s1.cycle t.pkg = max (s.cycle t.pkg) x.napUntil)

/-- The first fetch of a transfer's target: a line that reads, with the slot's TGT bit set, lets the split go on;
otherwise the trap is ILLEGAL_TARGET, which reports the transfer's own PC (R25, R145). -/
def Sys2Proof.Claims.TargetCheckAsksForTgt : Prop :=
  ∀ (team split : Nat) (s : State) (t : Team) (x : Split) (pc : Pc) (s1 : State) (bs : List Byte),
    s.team? team = some t → t.split? split = some x → x.check = some pc →
    targetOk x.pc = true → s.fetchLine t.coreNo t.ctx (pcLine x.pc).toNat = (s1, .ok bs) →
    (tgtBit bs (pcSlot x.pc) = true →
      exec (.targetCheck team split) s = .next (s1.setTeam (t.setSplit { x with check := none, fresh := false }))) ∧
    (tgtBit bs (pcSlot x.pc) = false → x.fresh = false →
      exec (.targetCheck team split) s = .next (s1.raise t { x with check := none, fresh := false }
        { code := codeIllegalTarget, level := 0, pc := pc, j2 := x.pc.setWidth 32
          j3 := BitVec.ofNat 32 (lowestSlot x.mask), addr := x.pc.toNat, lanes := x.mask, resume := pc }))

namespace Sys2Proof.Claims
open Sys2Proof.Machine

/-! ### Memory -/

/-- The split issues its instruction for the first time: nothing is left from an issue that was rejected or waited
(R182, R183, R191, R262). -/
structure FirstIssue (e : Ex1) : Prop where
  unbegun : e.x.accepted = 0 ∧ e.x.ahead = 0 ∧ e.x.poisoned = 0 ∧ e.x.failed = false ∧ e.x.unified = false ∧ e.x.lost = []
  pops : e.x.pops = none
  needs : e.x.needEntries = 0 ∧ e.x.needWalks = 0

/-- No other split of the team has an access that was issued earlier and is not performed (R184, R186, R260). -/
def NothingEarlier (e : Ex1) : Prop :=
  ∀ y ∈ e.t.splits, y.id ≠ e.x.id → y.issuedAt < e.x.issuedAt → y.holds = []

/-- Some other split of the team has an access that was issued earlier and is not performed. -/
abbrev EarlierOpen (e : Ex1) : Prop :=
  ∃ y ∈ e.t.splits, y.id ≠ e.x.id ∧ y.issuedAt < e.x.issuedAt ∧ y.accessOpen = true

/-- Some other split of the team has issued earlier an instruction whose elements have still to enter their slots. -/
abbrev EarlierElements (e : Ex1) : Prop :=
  ∃ y ∈ e.t.splits, y.id ≠ e.x.id ∧ y.issuedAt < e.x.issuedAt ∧ y.elementsDue = true

/-- The core has `n` miss entries to give, and no team of it is ahead in a reservation queue (R181, R183). -/
def EntriesFor (s : State) (e : Ex1) (n : Nat) : Prop :=
  s.reservation e.t.coreNo = none ∧ s.entriesUsed e.t.coreNo + n ≤ 256

/-- Every page that the lanes need is translated in a TLB, or its walk has ended (R259 to R262). -/
def Translated (s : State) (e : Ex1) (sp : Space) (need : Need) (addrs : List Nat) : Prop :=
  sp = .glb → s.pagesToWalk e.t e.x.walked need addrs = []

/-- Slots that access, with their addresses: a uniform access is performed once, and a `wait` keeps the addresses that it
has read (R168, R170, R174). -/
def accessAddrs (x : MemOp) (indexed : Bool) (e : Ex1) : List (Nat × Nat) :=
  if e.x.src = [] then (if memUniform x then [e.low] else e.slots).map fun i => (i, memAddr e.t x indexed i)
  else e.x.src.map fun r => (r.1, r.2.1)

/-- The accesses of a memory instruction find their places: `accs` in slot order, located in `s1`. No earlier access holds
the lines back, the homes can be reached, and the core has miss entries for every line; where a register is named by the
aperture, no result is in flight and no instruction of another split is open (R164, R168, R178, R181 to R184, R247). -/
structure Served (x : MemOp) (indexed : Bool) (need : Need) (s : State) (e : Ex1) (s1 : State) (accs : List Acc) :
    Prop where
  translated : Translated s e x.space need ((accessAddrs x indexed e).map Prod.snd)
  located : s.locateAll e.t x.space need (accessAddrs x indexed e) = (s1, accs.map fun a => (a.slot, a.addr, .ok a.loc))
  rising : (accs.map Acc.slot).Pairwise (· < ·) ∧ ∀ a ∈ accs, a.slot < 1024
  fresh : FirstIssue e
  free : NothingEarlier e
  aperture : (∃ a ∈ accs, ∃ h ∈ a.loc.keys need.bytes, 2 ^ 90 ≤ h) →
    (∀ l ∈ e.t.landings, l.silent = true) ∧ ∀ y ∈ e.t.splits, y.id ≠ e.x.id → y.inFlight = none
  reach : ∀ a ∈ accs, ∀ ps, a.loc = .glb ps → ∀ q ∈ ps, s1.reachable e.t.coreNo (homeDie q.2.1) = true
  entries : EntriesFor s1 e (2 * accs.length)
  requests : (s1.die e.t.dieNo).requestsOf e.t.key e.x.id = []

/-- What a release before the accesses does: no element that it waits for is open, and L1 is written back where its
scope asks for it (R186, R358, R363). -/
def released (rel : Bool) (x : MemOp) (e : Ex1) (accs : List Acc) (s : State) : State :=
  if rel && decide (2 ≤ x.scope.toNat) then s.releaseL1 e.t.coreNo e.t.ctx (accWords s e.t x.width.bytes accs) else s

def NothingOpen (rel : Bool) (x : MemOp) (e : Ex1) (accs : List Acc) (s : State) : Prop :=
  rel = true → ¬EarlierElements e ∧
    s.elementsOpen e.t x.scope.toNat (accWords s e.t x.width.bytes accs) e.x.issuedAt = false

/-- What an acquire after the accesses does. -/
def acquired (acq : Bool) (x : MemOp) (e : Ex1) (cov : Coverage) (s : State) : State :=
  if acq && decide (2 ≤ x.scope.toNat) then s.acquireL1 e.t.coreNo e.t.ctx cov else s

/-- Reads in slot order: bytes, and whether one is poisoned. `home`: where the access is performed at the home. -/
def readAll (home na : Bool) (n : Nat) (t : Team) : List Acc → State → State × List (List Byte × Bool)
  | [], s => (s, [])
  | a :: as, s =>
    let r := if home then s.homeReadLoc t n a.loc else s.readLoc t na n a.loc
    let q := readAll home na n t as r.1
    (q.1, r.2 :: q.2)

/-- Writes in slot order of each lane's bytes. -/
def writeAll (home na : Bool) (n : Nat) (data : Nat → List Byte) : List Acc → State → Team → State × Team
  | [], s, t => (s, t)
  | a :: as, s, t =>
    let r := if home then (s.homeReadLoc t n a.loc).1.homeWriteLoc t (data a.slot) a.loc
      else s.writeLoc t na (data a.slot) a.loc
    writeAll home na n data as r.1 r.2

/-- Read-modify-write steps in slot order: the old bytes of each lane and whether they were poisoned; whether one failed. A
lane whose bytes are poisoned writes nothing. -/
def updateAll (n : Nat) (f : Nat → Nat → Option Nat) :
    List Acc → State → Team → State × Team × List (List Byte × Bool) × Bool
  | [], s, t => (s, t, [], false)
  | a :: as, s, t =>
    let (s, bs, bad) := s.homeReadLoc t n a.loc
    let (s, t, failed) := if bad then (s, t, false) else match f a.slot (leNat bs) with
      | some v => let (s, t) := s.homeWriteLoc t (leBytes n v) a.loc; (s, t, false)
      | none => (s, t, true)
    let (s, t, l, q) := updateAll n f as s t
    (s, t, (bs, bad) :: l, failed || q)

/-- The words of a loaded value: narrow values zero-extended, wide ones lowest register first (R169). -/
def regWords (bs : List Byte) : List Word :=
  if bs.length < 4 then [BitVec.ofNat 32 (leNat bs)]
  else (List.range (bs.length / 4)).map fun k => BitVec.ofNat 32 (leNat ((bs.drop (4 * k)).take 4))

/-- A register group's bytes, lowest register first, as many as the width has (R169). -/
def groupBytes (x : MemOp) (t : Team) (q : List (Nat × Word)) (o : Operand) (slot : Nat) : List Byte :=
  leBytes x.width.bytes (wordsVal ((List.range x.width.regs).map (readField t q (immPlain x.imm) slot o)))

/-- A long result in flight: its writes wait for its reply, and its miss entries are taken (R30, R181). -/
def inFlight (t : Team) (e : Ex1) (h : Head) (kind : LandKind) (ws : List RegWrite) (lines : List Nat) : Team :=
  { t with
    landings := t.landings ++ [{ id := t.nextLanding, split := e.x.id, kind := kind
                                 look := if h.ver1 then 0 else h.look.toNat, writes := ws, lines := lines }]
    nextLanding := t.nextLanding + 1 }

/-- The lines for which an instruction's accesses take miss entries (R181, R223). -/
def entryLines (s : State) (t : Team) (use : LineUse) (x : MemOp) (accs : List Acc) : List Nat :=
  (accs.flatMap fun a => a.loc.lines s t use x.width.bytes).eraseDups

/-- Entries that are held until the replies come, for an instruction whose results do not come in flight (R181). -/
def holding (t : Team) (e : Ex1) (lines : List Nat) : Team :=
  if lines = [] then t
  else
    { t with
      landings := t.landings ++ [{ id := t.nextLanding, split := e.x.id, kind := .miss, look := 0, writes := [], lines := lines }]
      nextLanding := t.nextLanding + 1 }

/-! #### Passes in increasing word order (R85, R182) -/

/-- The accesses of each mask word in which there is one. -/
def byWord (accs : List Acc) : List (List Acc) :=
  ((List.range 32).map fun w => accs.filter fun a => a.slot / 32 == w).filter fun l => !l.isEmpty

/-- What the passes so far have come to: the lanes that read poison, with their addresses, and whether one of them met an
error of the unified store; whether a lane failed. -/
structure Passed where
  s : State
  t : Team
  bad : List (Nat × Nat) := []
  unified : Bool := false
  failed : Bool := false

/-- Lanes with what they read. -/
abbrev Got := List (Acc × List Byte × Bool)

/-- Register writes of the lanes that did not read poison, and those that did (R179). -/
def loadWrites (x : MemOp) (l : Got) : List RegWrite :=
  l.flatMap fun (a, bs, bad) => if bad then [] else destWrites x.d a.slot (regWords bs)
def poisonedLanes (l : Got) : List (Nat × Nat) := (l.filter fun q => q.2.2).map fun q => (q.1.slot, q.1.addr)
def poisonedStore (s : State) (t : Team) (l : Got) : Bool := l.any fun q => q.2.2 && q.1.loc.unified s t

/-- A pass has been performed: its poisoned lanes are noted, and the team is as the pass leaves it. -/
def Passed.then (o : Passed) (s : State) (t : Team) (was : State × Team) (l : Got) (failed : Bool) : Passed :=
  { s := s.setTeam t, t := t, bad := o.bad ++ poisonedLanes l, unified := o.unified || poisonedStore was.1 was.2 l
    failed := o.failed || failed }

/-- One pass of a load. Every lane reads before anything is written to a register. -/
def loadPass (x : MemOp) (e : Ex1) (use : LineUse) (long : Bool) (kind : LandKind) (o : Passed) (accs : List Acc) : Passed :=
  let n := x.width.bytes
  let lines := entryLines o.s o.t use x accs
  let c := o.s.chargePass o.t use accs
  let r := readAll use.home use.na n c.2 accs c.1
  let got : Got := accs.zip r.2
  let ws := loadWrites x got
  o.then (r.1.flitsArrived (accs.flatMap fun a => a.loc.flits c.1 c.2 use.home n))
    (if long then inFlight c.2 e x.head kind ws lines else holding (c.2.applyWrites ws) e lines) c got false

/-- One pass of a store; units that the pass writes whole are no longer poisoned. -/
def storePass (x : MemOp) (e : Ex1) (use : LineUse) (data : Nat → List Byte) (o : Passed) (accs : List Acc) : Passed :=
  let lines := entryLines o.s o.t use x accs
  let c := o.s.chargePass o.t use accs
  let r := writeAll use.home use.na x.width.bytes data accs c.1 c.2
  let v := r.1.coverPass r.2 (accs.flatMap fun a => a.loc.bytes x.width.bytes) c.1.badWrites
  o.then v.1 (holding v.2 e lines) c [] false

/-- One pass of an atomic instruction: each lane sees what the lanes before it left. -/
def updatePass (x : MemOp) (e : Ex1) (result : Bool) (f : Nat → Nat → Option Nat) (o : Passed) (accs : List Acc) : Passed :=
  let n := x.width.bytes
  let use : LineUse := { home := true, atomic := true }
  let lines := entryLines o.s o.t use x accs
  let c := o.s.chargePass o.t use accs
  let r := updateAll n f accs c.1 c.2
  let got : Got := accs.zip r.2.2.1
  o.then (r.1.flitsArrived (accs.flatMap fun a => a.loc.flits c.1 c.2 true n))
    (if result then inFlight r.2.1 e x.head .miss (loadWrites x got) lines else holding r.2.1 e lines) c got r.2.2.2

/-- The passes are done: the split is demoted where the instruction asks for it or a lane failed. Where lanes read poison they
raise POISON, the others being complete, and go on behind the instruction (R104, R179, R264). -/
def finished (x : MemOp) (e : Ex1) (dem : Bool) (o : Passed) (s : State) : State :=
  let t := if dem || o.failed then o.t.demote e.x.id else o.t
  match o.bad with
  | [] => s.setTeam (e.advance t)
  | (slot, a) :: r =>
    s.raise t ((t.split? e.x.id).getD e.x)
      { code := codePoison, level := if o.unified then 2 else 0, pc := e.pc, j2 := BitVec.ofNat 32 a
        j3 := BitVec.ofNat 32 slot, addr := a, lanes := if memUniform x then e.mask else maskOf (slot :: r.map Prod.fst)
        resume := pcNext e.pc }

/-- A load: each lane's bytes come to D. -/
def LoadResult (i : Instr) (x : MemOp) (long short : Bool) (kind : LandKind) : Prop :=
  ∀ (s : State) (e : Ex1) (s1 : State) (accs : List Acc), i.wf = true → Issues i s e → e.x.src = [] →
    Served x true { bytes := x.width.bytes, kind := .read, plain := long } s e s1 accs →
    let acq := x.order == .sync
    let o := (byWord accs).foldl (loadPass x e { home := acq, na := x.na, short := short } long kind) { s := s1, t := e.t }
    exec i s = .next (finished x e x.poll o (acquired acq x e (accWords s1 e.t x.width.bytes accs) o.s))

/-- A store: each lane's bytes go to its place, in slot order. -/
def StoreResult (i : Instr) (x : MemOp) (short : Bool) : Prop :=
  ∀ (s : State) (e : Ex1) (s1 : State) (accs : List Acc) (e' : Ex1) (p : Pops) (s2 : State), i.wf = true → Issues i s e →
    e.x.src = [] → Served x true { bytes := x.width.bytes, kind := .write, plain := true } s e s1 accs →
    let rel := x.order == .sync
    NothingOpen rel x e accs s1 → Delivers e.slots i x.ops e (released rel x e accs s1) e' p s2 →
    let use : LineUse := { home := rel && decide (2 ≤ x.scope.toNat), na := x.na, write := true, short := short }
    let o := (byWord accs).foldl (storePass x e' use (groupBytes x e'.t p.c x.c)) { s := s2, t := e'.t }
    exec i s = .next (finished x e' false o o.s)

/-- The new value of an atomic operation. -/
def combine (op : AOp) (ty : AType) (n : Nat) (a b : BitVec n) : BitVec n :=
  if ty = .f32 then
    let x := fp32.decode a.toNat
    let y := fp32.decode b.toNat
    match op with
    | .add => BitVec.ofNat n (fp32.round .rne false (x.add .rne y)).1
    | .min => BitVec.ofNat n (fminF ⟨⟨false, 0, ⟨false, 7⟩⟩, .rne, false, false, false, .f32, .zero, .zero, .zero, .zero, 0⟩ fp32 x y y).1
    | .max => BitVec.ofNat n (fmaxF ⟨⟨false, 0, ⟨false, 7⟩⟩, .rne, false, false, false, .f32, .zero, .zero, .zero, .zero, 0⟩ fp32 x y y).1
    | _ => b
  else
    match op with
    | .add => a + b
    | .min => if lessThan (ty == .s) b a then b else a
    | .max => if lessThan (ty == .s) a b then b else a
    | .and => a &&& b
    | .or => a ||| b
    | .xor => a ^^^ b
    | .exch => b

/-- An atomic instruction: one step for each lane in slot order. -/
def UpdateResult (i : Instr) (x : MemOp) (indexed rel acq result : Bool) (f : Ex1 → Pops → Nat → Nat → Option Nat) : Prop :=
  ∀ (s : State) (e : Ex1) (s1 : State) (accs : List Acc) (e' : Ex1) (p : Pops) (s2 : State), i.wf = true → Issues i s e →
    e.x.src = [] → Served x indexed { bytes := x.width.bytes, kind := .write, aligned := true } s e s1 accs →
    NothingOpen rel x e accs s1 → Delivers e.slots i x.ops e (released rel x e accs s1) e' p s2 →
    let o := (byWord accs).foldl (updatePass x e' result (f e' p)) { s := s2, t := e'.t }
    exec i s = .next (finished x e' false o (acquired acq x e' (accWords s1 e.t x.width.bytes accs) o.s))

/-- What a reading of `wait`'s words comes to. The thresholds are those that the first reading found. While a lane's word is
below its own the split waits with reason 6: the reading's entries are held until its replies, and between readings no access is
open, which is the model's choice (notes/assumptions/40). Then every lane's value goes to D. -/
def WaitOutcome (x : MemOp) (s : State) (e : Ex1) (out : State) : Prop :=
  ∀ (s1 : State) (accs : List Acc),
    Served x false { bytes := x.width.bytes, kind := .read, aligned := true } s e s1 accs →
    let use : LineUse := { home := true, atomic := !e.x.src.isEmpty }
    let floor (a : Acc) : Nat :=
      if e.x.src = [] then leNat (groupBytes x e.t [] x.b a.slot)
      else ((e.x.src.find? fun r => r.1 == a.slot).map fun r => r.2.2).getD 0
    let met := (accs.zip (readAll true false x.width.bytes e.t accs s1).2).all fun (a, bs, bad) =>
      bad || decide (floor a ≤ leNat bs)
    (met = false → out = (s1.flitsArrived (accs.flatMap fun a => a.loc.flits s1 e.t true x.width.bytes)).setTeam
      ((holding e.t e (entryLines s1 e.t use x accs)).setSplit { e.x with
        src := if e.x.src = [] then accs.map fun a => (a.slot, a.addr, floor a) else e.x.src
        holds := [], walked := [], needEntries := 0, needWalks := 0
        wait := .value, block := .value x, since := s1.tick, again := true })) ∧
    (met = true →
      let acq := x.order == .sync
      let o := (byWord accs).foldl (loadPass x e use true .miss) { s := s1, t := e.t }
      out = finished x e false o (acquired acq x e (accWords s1 e.t x.width.bytes accs) o.s))

/-- What each memory instruction asks of its places, and whether B is an index. -/
def accessForms (x : MemOp) : List (Instr × Bool × Need) :=
  let need (k : AccKind) (plain aligned : Bool) : Need := { bytes := x.width.bytes, kind := k, plain := plain, aligned := aligned }
  [(.ld x, true, need .read true false), (.lds x, true, need .read true false), (.ldk x, true, need .read false false),
   (.st x, true, need .write true false), (.sts x, true, need .write true false), (.cas x, false, need .write false true),
   (.wait x, false, need .read false true)] ++
  [AOp.add, .min, .max, .and, .or, .xor, .exch].flatMap fun op => [AType.u, .s, .f32].flatMap fun ty =>
    [(.atom op ty x, true, need .write false true), (.red op ty x, true, need .write false true)]

/-- The byte that a core's loads see at a physical address through a mapping that its L1 knows: its L1 where it holds the byte,
else the home. -/
def seenByte (s : State) (core pa : Nat) : Byte :=
  match getBy L1Line.pa (pa / 128) (s.core core).l1 with
  | some ln =>
    if ln.dirty.getLsbD (pa % 128) || ln.valid.getLsbD (pa % 128 / 32) then ln.data.get (pa % 128) else s.mem.get pa
  | none => s.mem.get pa

/-- No die of the fabric is fenced. -/
def NoFence (s : State) : Prop := ∀ d, (s.die d).fenced = false

/-- No soft error is pending in a flit that no check covers (R265). -/
def NothingWrong (s : State) : Prop := s.wrongReplies = [] ∧ s.wrongWrites = []

end Sys2Proof.Claims

/-- Loads of every space and width, of one pass or several: the aperture and lanes that read poison are covered (R164, R169,
R170, R171, R178, R179, R186). That an acquire load of `.glb` reads at the home is the model's choice
(notes/assumptions/12), and so is what comes into the L2 (notes/assumptions/34). The aperture's and poison's corners are
notes/assumptions/15 and 17. -/
def Obligations.LoadResults : Prop :=
  ∀ x : MemOp, LoadResult (.ld x) x true false (if x.space = .lane ∨ x.space = .core then .loc else .miss) ∧
    LoadResult (.lds x) x true true .loc ∧ LoadResult (.ldk x) x false false .miss

/-- Stores of every space and width, of one pass or several (R164, R169, R171, R178, R179, R186). That a release store of scope 2 or
wider is written at the home is the model's choice (notes/assumptions/17). -/
def Obligations.StoreResults : Prop := ∀ x : MemOp, StoreResult (.st x) x false ∧ StoreResult (.sts x) x true

/-- Atomic updates (R172, R173, R104, R179, R186). -/
def Sys2Proof.Claims.AtomicUpdates : Prop :=
  ∀ x : MemOp,
    let n := 8 * x.width.bytes
    let data (e : Ex1) (q : List (Nat × Word)) (o : Operand) (slot : Nat) : Nat := leNat (groupBytes x e.t q o slot)
    (∀ op ty, UpdateResult (.atom op ty x) x true (x.order == .ar) (x.order != .weak) true fun e p slot old =>
      some (combine op ty n (BitVec.ofNat n old) (BitVec.ofNat n (data e p.c x.c slot))).toNat) ∧
    (∀ op ty, UpdateResult (.red op ty x) x true (x.order != .weak) false false fun e p slot old =>
      some (combine op ty n (BitVec.ofNat n old) (BitVec.ofNat n (data e p.c x.c slot))).toNat) ∧
    UpdateResult (.cas x) x false (x.order == .ar) (x.order != .weak) true fun e p slot old =>
      if old = data e p.b x.b slot then some (data e p.c x.c slot) else none

/-- `wait`, and the core's later readings of its words (R174). -/
def Sys2Proof.Claims.WaitReadsUntilMet : Prop :=
  (∀ (x : MemOp) (s : State) (e : Ex1), (Instr.wait x).wf = true → Issues (.wait x) s e →
    Leads (.wait x) s (WaitOutcome x s e)) ∧
  (∀ (team split : Nat) (s : State) (t : Team) (y : Split) (x : MemOp), s.team? team = some t → t.split? split = some y →
    y.wait = .value → y.block = .value x → (Instr.wait x).wf = true →
    let e : Ex1 := { t := t, x := y, pc := y.pc, word := 0
                     slots := (maskSlots y.mask).filter fun i => guardHolds (t.lane i) x.head.guard && !slotIn y.regBad.1 i }
    e.slots ≠ [] → Leads (.waitReread team split) s (WaitOutcome x s e))

/-- Every lane is checked before any access: the fault is that of the lowest failing lane, nothing is accessed or
written, and the resume PC is the instruction's (R177, R178). -/
def Sys2Proof.Claims.FailingLanesFaultFirst : Prop :=
  ∀ (x : MemOp) (i : Instr) (indexed : Bool) (need : Need) (s : State) (e : Ex1) (s1 : State)
    (l : List (Nat × Nat × Except Denied Loc)) (slot a code : Nat) (rest : List (Nat × Nat × Nat)),
    (i, indexed, need) ∈ accessForms x → i.wf = true → Issues i s e → FirstIssue e →
    Translated s e x.space need ((accessAddrs x indexed e).map Prod.snd) →
    s.locateAll e.t x.space need (accessAddrs x indexed e) = (s1, l) →
    (l.filterMap fun (i, a, r) => match r with
      | .error (.fault c) => if c = codeDieLost ∨ c = codeLinkDown then none else some (i, a, c)
      | _ => none) = (slot, a, code) :: rest →
    exec i s = .next (s1.raise e.t e.x (e.cause code (BitVec.ofNat 32 a) slot
      (if memUniform x then e.mask else maskOf (slot :: rest.map Prod.fst)) a))

/-- Lanes whose page is replayable raise nothing: they wait with reason 7 at the same instruction, in a split of their own where
others can go on, and nothing of theirs is accessed or written; the others perform the instruction in a split that has no lane of
the first (R178, R259). -/
def Sys2Proof.Claims.ReplayableLanesWait : Prop :=
  ∀ (x : MemOp) (i : Instr) (indexed : Bool) (need : Need) (s : State) (e : Ex1) (s1 : State)
    (l : List (Nat × Nat × Except Denied Loc)),
    (i, indexed, need) ∈ accessForms x → memUniform x = false → i.wf = true → Issues i s e → FirstIssue e → e.x.src = [] →
    Translated s e x.space need ((accessAddrs x indexed e).map Prod.snd) →
    s.locateAll e.t x.space need (accessAddrs x indexed e) = (s1, l) →
    let waits := l.filterMap fun (i, a, r) => match r with | .error (.replay va) => some (i, a, va) | _ => none
    (∀ q ∈ l, ∀ c, q.2.2 ≠ .error (.fault c)) → waits ≠ [] →
    let m := maskOf (waits.map Prod.fst)
    let Waits (w : Split) : Prop := w.mask = m ∧ w.pc = e.x.pc ∧ w.wait = .fault ∧ w.again = true ∧
      ∃ c, w.block = .page need.kind c waits
    (e.x.mask &&& ~~~m = 0 → ∃ w, exec i s = .next (s1.setTeam (e.t.setSplit w)) ∧ w.id = e.x.id ∧ Waits w) ∧
    (e.x.mask &&& ~~~m ≠ 0 → e.t.roomFor 1 = true → e.t.splits.length < 8191 → e.x.trap = none → e.t.entry.trap ≠ none →
      (∀ q, x.a ≠ .f q ∧ x.b ≠ .f q ∧ x.c ≠ .f q) →
      ∃ s3 u w, exec i s = .next s3 ∧ s3.team? e.t.key = some u ∧ w ∈ u.splits ∧ w.id ≠ e.x.id ∧ Waits w ∧
        (∀ y ∈ u.splits, y.id = e.x.id → y.mask = e.x.mask &&& ~~~m ∧
          ((∀ q ∈ l, ∃ va, q.2.2 = .error (.replay va)) → y.pc = pcNext e.pc ∧ y.wait = .ready)) ∧
        (e.t.landings = [] → ∀ k, slotIn m k = true → u.lane k = e.t.lane k))

/-- Places and faults of the spaces within a core, cluster and die: an offset is inside or raises BOUNDS; what has to be
aligned and is not raises MISALIGNED (R146, R163, R168, R177, R222, R252). -/
def Sys2Proof.Claims.BoundsAndAlignment : Prop :=
  ∀ (s : State) (t : Team) (slot a : Nat) (need : Need),
    let place (size : Nat) (l : Loc) : Except Denied Loc :=
      if size < a + need.bytes then .error (.fault codeBounds)
      else if need.aligned = true ∧ a % need.bytes ≠ 0 then .error (.fault codeMisaligned)
      else .ok l
    (128 ≤ t.entry.slice → s.locate t slot .lane a need = (s, place (t.entry.slice - 128) (.slice slot (a + 128)))) ∧
    ((need.plain = false ∨ a + need.bytes ≤ t.entry.scratch) →
      s.locate t slot .core a need = (s, place t.entry.scratch (.scratch a))) ∧
    (∀ g, t.gang.bind s.gang? = some g → 0 < g.poolSize →
      s.locate t slot .clu a need = (s, place g.poolSize (.pool g.id a))) ∧
    (t.gang = none → s.locate t slot .clu a need = (s, .error (.fault codeBounds))) ∧
    (let w := s.ctxDie t.ctx t.dieNo
     s.locate t slot .die a need = (s, place w.winSize (.dieRam t.dieNo (w.winBase + a)))) ∧
    (need.aligned = true → a % need.bytes ≠ 0 →
      s.locate t slot .glb a need = (s, .error (.fault codeMisaligned)))

/-- A core reads back from L1 what it wrote within a line, whether the line was held, whether it is poisoned, and whether
the write allocates, where no undetected error of a flit is pending (R169, R185, R187, R265). -/
def Sys2Proof.Claims.L1ReadAfterWrite : Prop :=
  ∀ (s : State) (core ctx va pa : Nat) (bs : List Byte) (na na' : Bool), Canonical s → NoFence s → NothingWrong s → bs ≠ [] →
    pa % 128 + bs.length ≤ 128 → va % 128 = pa % 128 →
    ((s.l1Write core ctx va pa bs na).l1Read core ctx va pa bs.length na').2.1 = bs

/-- A write through L1 into a line that is held, and has been reached by the same mapping, or for which there is room, changes no
other byte that the core sees. -/
def Sys2Proof.Claims.L1WriteFrame : Prop :=
  ∀ (s : State) (core ctx va pa : Nat) (bs : List Byte) (na : Bool) (b : Nat), Canonical s → NoFence s →
    pa % 128 + bs.length ≤ 128 →
    (match l1Find (s.core core).l1 (pa / 128) with
      | some ln => ln.maps.contains (ctx, va / 128) = true
      | none => (s.core core).l1.length < 2048) →
    (b < pa ∨ pa + bs.length ≤ b) → seenByte (s.l1Write core ctx va pa bs na) core b = seenByte s core b

/-- Stores outside HBM change their own bytes and no others: a slice, the scratchpad, a pool, a die scratchpad; where no
undetected error of a flit is pending (R265). -/
def Sys2Proof.Claims.LocalStoreFrame : Prop :=
  ∀ (s : State) (t : Team) (na : Bool) (bs : List Byte), Canonical s → NothingWrong s → t ∈ s.teams →
    (∀ slot off, slot < t.lanes.length →
      let r := s.writeLoc t na bs (.slice slot off)
      r.1 = s ∧ (∀ k b, bs[k]? = some b → ((r.2.lane slot).slice.cells).get (off + k) = b) ∧
      (∀ a, a < off ∨ off + bs.length ≤ a → ((r.2.lane slot).slice.cells).get a = ((t.lane slot).slice.cells).get a) ∧
      ∀ i, i ≠ slot → r.2.lane i = t.lane i) ∧
    (∀ off,
      let r := s.writeLoc t na bs (.scratch off)
      r.1 = s ∧ (∀ k b, bs[k]? = some b → r.2.scratch.cells.get (off + k) = b) ∧
      (∀ a, a < off ∨ off + bs.length ≤ a → r.2.scratch.cells.get a = t.scratch.cells.get a) ∧
      { r.2 with scratch := t.scratch } = t) ∧
    (∀ g off q, s.gang? g = some q →
      let r := s.writeLoc t na bs (.pool g off)
      ∃ q', r.1.gang? g = some q' ∧ r.2 = t ∧ (∀ k b, bs[k]? = some b → q'.pool.cells.get (off + k) = b) ∧
        ∀ a, a < off ∨ off + bs.length ≤ a → q'.pool.cells.get a = q.pool.cells.get a) ∧
    (∀ d off,
      let r := s.writeLoc t na bs (.dieRam d off)
      r.2 = t ∧ (∀ k b, bs[k]? = some b → (r.1.die d).ram.cells.get (off + k) = b) ∧
      ∀ a, a < off ∨ off + bs.length ≤ a → (r.1.die d).ram.cells.get a = (s.die d).ram.cells.get a)

/-- `pref` brings its line into L1, all its bytes held or dirty, with entries held for the lines that it asks for, and
changes no register; `cctl` writes back, drops, or does both, on the lines of the issuing core that overlap its range, and
drops instruction lines of the whole package for `.ifl`. A write-back leaves no selected dirty byte; an invalidation of
`cctl` drops a sector unless it holds a dirty byte, that of an acquire drops all but the dirty bytes (R175, R176, R181,
R358). Which lines take entries is the model's choice (notes/assumptions/34). -/
def Obligations.PrefetchAndCacheControl : Prop :=
  (∀ (x : MemOp) (s : State) (e : Ex1), (Instr.pref x).wf = true → Issues (.pref x) s e → FirstIssue e →
    NothingEarlier e → EntriesFor s e e.slots.length →
    s.pagesToWalk e.t e.x.walked { bytes := 1, kind := .read }
      ((if memUniform x then [e.low] else e.slots).map (memAddr e.t x true)) = [] →
    ∃ (s1 : State) (t : Team), exec (.pref x) s = .next (s1.setTeam (e.advance t)) ∧
      { t with metered := 0, landings := [], nextLanding := 0 } = { e.t with metered := 0, landings := [], nextLanding := 0 } ∧
      (∀ l ∈ t.landings, l ∈ e.t.landings ∨ l.writes = []) ∧
      ∀ i s2 pa level pte, (if memUniform x then [e.low] else e.slots) = [i] → x.na = false →
        memAddr e.t x true i < 2 ^ 57 → s.translate e.t.coreNo e.t.ctx (memAddr e.t x true i) .read = (s2, .ok pa level pte) →
        s2.fencedAt pa = false → s2.reachable e.t.coreNo (homeDie pa) = true → s2.poison = [] → s2.badReplies = [] →
        ∃ ln, getBy L1Line.pa (pa / 128) (s1.core e.t.coreNo).l1 = some ln ∧
          ∀ o < 128, ln.valid.getLsbD (o / 32) = true ∨ ln.dirty.getLsbD o = true) ∧
  (∀ (x : PlainOp) (s : State) (e : Ex1), FirstIssue e → NothingEarlier e →
    let a := (readField e.t [] (immPlain 0) e.low x.a 0).toNat
    let n := (readField e.t [] (immPlain 0) e.low x.b 0).toNat
    let sel (va : Nat) : Bool := decide (0 < n) && decide (a / 128 ≤ va / 128) && decide (va / 128 ≤ (a + n - 1) / 128)
    let c := e.t.coreNo
    let done (s1 : State) : Host.Outcome State Fault Refusal := .next (s1.setTeam (e.advance (metered s e)))
    let wb := s.l1WriteBack c e.t.ctx sel
    let entries := EntriesFor s e (min 256 (s.dirtyLines c e.t.ctx sel).length)
    ((Instr.cctlWb x).wf = true → Issues (.cctlWb x) s e → entries → exec (.cctlWb x) s = done wb) ∧
    ((Instr.cctlInv x).wf = true → Issues (.cctlInv x) s e → exec (.cctlInv x) s = done (s.l1Invalidate true c e.t.ctx sel)) ∧
    ((Instr.cctlWbinv x).wf = true → Issues (.cctlWbinv x) s e → entries →
      exec (.cctlWbinv x) s = done (wb.l1Invalidate true c e.t.ctx sel)) ∧
    ((Instr.cctlIfl x).wf = true → Issues (.cctlIfl x) s e → entries →
      let s1 := wb.l1Invalidate true c e.t.ctx sel
      exec (.cctlIfl x) s = done { s1 with cores := s1.cores.map fun k =>
        if k.id / 512 = e.t.pkg then { k with icache := k.icache.filter fun l => !(l.ctx == e.t.ctx && sel l.va) } else k })) ∧
  (∀ (s : State) (core ctx : Nat) (sel : Nat → Bool),
    (∀ ln ∈ ((s.l1WriteBack core ctx sel).core core).l1, ∀ o < 128, ln.selected ctx sel o = true →
      ln.dirty.getLsbD o = false) ∧
    (∀ whole, ∀ ln ∈ ((s.l1Invalidate whole core ctx sel).core core).l1, ∀ o < 128, ln.selected ctx sel o = true →
      ln.valid.getLsbD (o / 32) = false ∨ whole = true ∧ ∃ i < 32, ln.dirty.getLsbD (32 * (o / 32) + i) = true) ∧
    ∀ whole, (s.l1Invalidate whole core ctx sel).mem = s.mem)

/-- A result that arrives reaches its registers with its flags, and its entries are free; where it arrives for some
lanes, those get theirs and the rest stays in flight (R30, R63, R106). -/
def Sys2Proof.Claims.ResultsLand : Prop :=
  ∀ (team : Nat) (s : State) (t : Team) (l : Landing) (lanes : Mask), s.team? team = some t → l ∈ t.landings →
    (∀ m ∈ t.landings, m.id = l.id → m = l) →
    let now := l.writes.filter fun w => (w.slot.map (slotIn lanes)).getD true
    let later := l.writes.filter fun w => !(w.slot.map (slotIn lanes)).getD true
    let u : Team :=
      if later = [] then
        { t.applyWrites l.writes with fstat := t.fstat ||| l.flags, landings := t.landings.filter fun m => m.id != l.id }
      else
        { t.applyWrites now with landings := t.landings.map fun k => if k.id = l.id then { l with writes := later } else k }
    (l.kind = .special → exec (.specialFunctionResult team ⟨l.id, lanes⟩) s = .next (s.setTeam u)) ∧
    (l.kind = .loc → exec (.localAccessComplete team ⟨l.id, lanes⟩) s = .next (s.setTeam u)) ∧
    (l.kind = .mma → exec (.mmaComplete team ⟨l.id, lanes⟩) s = .next (s.setTeam u)) ∧
    (l.kind = .miss → exec (.missReply team l.id lanes) s = .next (s.setTeam u))

/-- Entries, or places in the walk queue, that free let a rejected pass issue again, that of the reservation queue's head
first; a team that is a candidate is starved once 256 cycles have passed without an issue of it (R165, R182, R183,
R262). -/
def Sys2Proof.Claims.RetryAndStarvation : Prop :=
  (∀ (core : Nat) (s : State) (t : Team) (x : Split), t ∈ s.teams → t.coreNo = core → t.status = .resident →
    (t.splits.find? fun y => y.wait == .rejected && s.accepts t y.needEntries &&
      (y.needWalks == 0 || s.walkRoom t y.needWalks)) = some x →
    (s.reservation core = some t ∨ s.reservation core = none ∧ ∀ u ∈ s.teams, u.coreNo = core → u = t) →
    exec (.passRetry core) s = .next (s.setTeam (t.setSplit { x with wait := .ready }))) ∧
  (∀ (team : Nat) (s : State) (t : Team) (x : Split), s.team? team = some t → t.status = .resident → x ∈ t.splits →
    x.wait = .ready → x.record = false → Leads (.teamStarved team) s fun s1 =>
      let since := t.waiting.getD (s.cycle t.pkg)
      s1.team? team = some { t with waiting := some since } ∧ s1.cycle t.pkg = max (s.cycle t.pkg) (since + 256) ∧
      Team.starved { t with waiting := some since } (s1.cycle t.pkg) = true)

namespace Sys2Proof.Claims
open Sys2Proof.Machine

/-! ### Matrix and feeder -/

/-- In every mask word the instruction takes either every lane that has not exited or none (R209). -/
def FullWords (e : Ex1) : Prop := partialWord e.t e.mask = none

/-- The descriptor that a field names, and the pair of the team. -/
def descriptor (s : State) (e : Ex1) (o : Operand) : BitVec 256 :=
  s.tensor e.t (match o with | .td i => i.toNat | _ => 0)
def pairNow (s : State) (e : Ex1) : PlanePair := ((s.core e.t.coreNo).planes[e.t.plane.getD 0]?).getD {}

/-- The pair once a `wload` in flight has completed. -/
def settled (p : PlanePair) : PlanePair := { p with shadow := p.loading.getD p.shadow, loading := none }

def withPair (s : State) (e : Ex1) (p : PlanePair) : State :=
  let c := s.core e.t.coreNo
  s.setCore { c with planes := ((List.range 8).map fun i => (c.planes[i]?).getD {}).set (e.t.plane.getD 0) p }

/-- The plane that a tile of descriptor `d` at offset `b` fills: element n of row k from the row's bits, 16-byte pieces
exchanged under SWZ; scales from behind SCALEOFF, 1.0 without (R56, R212). -/
structure FilledFrom (m : Mem) (d : Tensor) (b : Nat) (p : Plane) : Prop where
  kind : p.state = .loaded ∧ p.fmtB = d.fmtB ∧ p.kdim = d.kdim ∧ p.badRows = [] ∧ (p.scaled = true ↔ d.smode = 1)
  shape : p.tile.length = d.kdim ∧ p.scales.length = 32
  elements : ∀ k < d.kdim, ∀ n < 32,
    let w := if d.fmtB = 5 then 6 else if d.fmtB = 1 then 16 else 8
    let byte (o : Nat) : Byte :=
      m.get (b + k * d.rstride + if d.swz = 1 then ((o / 16) ^^^ (k % 8)) * 16 + o % 16 else o)
    ((p.tile[k]?).getD [])[n]? = some (leNat ((List.range (4 * w)).map byte) / 2 ^ (w * n) % 2 ^ w)
  scales : ∀ n < 32, p.scales[n]? = some (
    if d.smode = 1 then leNat (m.read (((b : Int) + d.scaleOff).toNat + 2 * n) 2) else 0x3F80)

/-- An `mma` result in flight. -/
def mmaFlight (t : Team) (e : Ex1) (h : Head) (ws : List RegWrite) (fl : Flags) (now : Nat) : Team :=
  { t with
    landings := t.landings ++ [{ id := t.nextLanding, split := e.x.id, kind := .mma
                                 look := if h.ver1 then 0 else h.look.toNat, writes := ws, flags := fl, lines := []
                                 lanes := e.mask, pc := e.pc, at' := now }]
    nextLanding := t.nextLanding + 1 }

/-- The stream that a descriptor describes (Table 8.6), at position `pos`. -/
def streamFrom (d : BitVec 256) (sp : Space) (pos : Word) : Stream :=
  { active := true, base := (d.extractLsb' 0 64).toNat, lstride := (d.extractLsb' 64 32).toInt
    stride1 := (d.extractLsb' 96 32).toInt, count1 := (d.extractLsb' 128 32).toNat, stride2 := (d.extractLsb' 160 32).toInt
    elem := (d.extractLsb' 192 8).toNat, space := sp, pos := pos, queued := [] }

/-- Table 8.6 is kept: KIND 1, a base below 2^57, a count, an element code and a space, reserved bytes zero. -/
structure StreamForm (d : BitVec 256) (sp : Space) : Prop where
  kind : d.extractLsb' 248 8 = 1
  base : (d.extractLsb' 0 64).toNat < 2 ^ 57
  count : d.extractLsb' 128 32 ≠ 0
  elem : (d.extractLsb' 192 8).toNat ≤ 4
  space : (d.extractLsb' 200 8, sp) ∈ [(1#8, Space.core), (2, .clu), (3, .die), (4, .glb)]
  zero : d.extractLsb' 208 40 = 0

/-- The instruction reads `n` bytes at an aligned address, once for the team: `s2`, `t` after the access, `bs` the bytes
(R178, R181). -/
structure ReadsBytes (s : State) (e : Ex1) (va n : Nat) (s2 : State) (t : Team) (bs : List Byte) : Prop where
  aligned : va % n = 0
  fresh : FirstIssue e
  free : NothingEarlier e
  translated : s.pagesToWalk e.t e.x.walked { bytes := n, kind := .read } [va] = []
  read : ∃ s1 l, s.locateGlb e.t.coreNo e.t.ctx va { bytes := n, kind := .read } = (s1, .ok l) ∧
    l.unreached s1 e.t false false = false ∧ EntriesFor s1 e (l.lines s1 e.t {} n).length ∧
    let c := s1.chargePass (holding e.t e (l.lines s1 e.t {} n)) {} [⟨e.low, va, l⟩]
    let q := c.1.readLoc c.2 false n l
    q.2 = (bs, false) ∧ s2 = q.1.flitsArrived (l.flits c.1 c.2 false n) ∧ t = c.2

def queueNo (o : Operand) : Nat := match o with | .f i => i.toNat | _ => 0
def setStream (t : Team) (i : Nat) (q : Stream) : Team := { t with f := t.f.setIfInBounds i q }

end Sys2Proof.Claims

/-- `tdset` copies the 32 bytes at its address into the descriptor of the context on this package, and no other
(R205, R206). -/
def Sys2Proof.Claims.DescriptorsAreSet : Prop :=
  ∀ (x : PlainOp) (s s2 : State) (e : Ex1) (t : Team) (bs : List Byte) (i : BitVec 6),
    (Instr.tdset x).wf = true → Issues (.tdset x) s e → x.d = .td i →
    ReadsBytes s e (readField e.t [] (immPlain 0) e.low x.a 0).toNat 32 s2 t bs →
    Leads (.tdset x) s fun s3 =>
      s3.tensor e.t i.toNat = BitVec.ofNat 256 (leNat bs) ∧ (∀ k ≠ i.toNat, s3.tensor e.t k = s2.tensor e.t k) ∧
      s3.teams = (s2.setTeam (e.advance t)).teams ∧ s3.mem = s2.mem

/-- `wload` puts the plane of a tile in flight, its end makes it the shadow plane; `wswap` exchanges the planes, `wdrop`
empties them (R211 to R214). -/
def Sys2Proof.Claims.PlanesAreLoadedAndExchanged : Prop :=
  (∀ (x : PlainOp) (s : State) (e : Ex1) (d : Tensor), (Instr.wload x).wf = true → Issues (.wload x) s e → FullWords e →
    NothingEarlier e →
    tensorOf (descriptor s e x.a) = some d →
    let b := (readField e.t [] (immPlain 0) e.low x.b 0).toNat
    tileFault d b e.t.entry.scratch = none → e.t.plane.getD 0 < 8 →
    ∃ p, FilledFrom e.t.scratch.cells d b p ∧
      exec (.wload x) s = .next ((withPair s e { settled (pairNow s e) with loading := some p }).setTeam (e.advance e.t))) ∧
  (∀ (core pair : Nat) (s : State) (p : Plane), pair < 8 →
    (((s.core core).planes[pair]?).getD {}).loading = some p → Leads (.wloadComplete core pair) s fun s1 =>
      ((s1.core core).planes[pair]?).getD {} = settled (((s.core core).planes[pair]?).getD {}) ∧
      ∀ i < 8, i ≠ pair → ((s1.core core).planes[i]?).getD {} = ((s.core core).planes[i]?).getD {}) ∧
  (∀ (x : PlainOp) (s : State) (e : Ex1), (Instr.wswap x).wf = true → Issues (.wswap x) s e → FullWords e →
    let p := settled (pairNow s e)
    e.t.plane.getD 0 < 8 → p.active.state ≠ .lost → p.shadow.state ≠ .lost →
    exec (.wswap x) s = .next ((withPair s e { p with active := p.shadow, shadow := p.active }).setTeam (e.advance e.t))) ∧
  (∀ (x : PlainOp) (s : State) (e : Ex1) (i : Nat), (Instr.wdrop x).wf = true → Issues (.wdrop x) s e → FullWords e →
    e.t.plane = some i →
    exec (.wdrop x) s = .next ((withPair s e { pairNow s e with active := {}, shadow := {}, loading := none }).setTeam
      (e.advance e.t)))

/-- `mma` on a loaded plane of its formats: each contributing lane's 32 results come in flight under LOOK (R71, R209,
R210, R215). -/
def Obligations.MmaPutsItsResultsInFlight : Prop :=
  ∀ (sat : Bool) (x : PlainOp) (s : State) (e : Ex1) (d : Tensor), (Instr.mma sat x).wf = true → Issues (.mma sat x) s e →
    FullWords e → tensorOf (descriptor s e x.c) = some d →
    let p := pairNow s e
    mmaFormatOk d p.active sat = true → p.active.state = .loaded → p.shadow.state ≠ .lost → p.active.badRows = [] →
    (p.active.scaled = true → p.active.badScales = false) →
    let out (slot n : Nat) : Word × Flags :=
      mmaElem d p.active sat (rowA e.t slot x.a d.fmtA d.kdim) ((readField e.t [] (immPlain 0) slot (.v x.imm) 0).toNat % 65536)
        n (e.t.regRead slot x.d n)
    let ws := e.slots.flatMap fun slot => (List.range 32).map fun n => ⟨some slot, nthReg x.d n, (out slot n).1⟩
    let fl := e.slots.foldl (fun f slot => (List.range 32).foldl (fun f n => f ||| (out slot n).2) f) 0
    let cls := if d.fmtB = 1 then 2 else if d.fmtB = 5 then 1 else 0
    exec (.mma sat x) s = .next (s.setTeam (e.advance
      (mmaFlight (s.charge e.t cls (passes e.mask)) e x.head ws fl s.tick)))

namespace Sys2Proof.Claims
open Sys2Proof.Machine

/-- The product of two LG6 codes: T of the sum of the exponents (R57). -/
def lg6Product (a b : Nat) : Rat :=
  if a % 32 = 0 ∨ b % 32 = 0 then 0
  else
    let q : Int := (a % 32 : Nat) - 16 + ((b % 32 : Nat) - 16)
    let m : Rat := ((([4096, 4871, 5793, 6889][(q % 4).toNat]?).getD 0 : Nat) : Rat) * (2 : Rat) ^ (Int.fdiv q 4 - 12)
    if a / 32 % 2 = b / 32 % 2 then m else -m

/-- The products of an A row and a column, exactly (R73, R74). -/
def productsOf (d : Tensor) (p : Plane) (row : List Nat) (n : Nat) : List Rat :=
  List.zipWith (fun a b => if d.fmtA = 5 then lg6Product a b else number (elemValue d.fmtA a) * number (elemValue p.fmtB b))
    row (p.tile.map fun r => r[n]?.getD 0)

def magnitude (x : Rat) : Rat := if x < 0 then -x else x

/-- A number truncated toward zero to a multiple of 2^`e`. -/
def cutAt (e : Int) (x : Rat) : Rat :=
  let m : Rat := ((magnitude x / (2 : Rat) ^ e).floor : Rat) * (2 : Rat) ^ e
  if x < 0 then -m else m

/-- The dot product: the exact sum, but for BF16, whose products are truncated 47 places below the largest one's exponent. -/
def IsDot (fmtA : Nat) (ps : List Rat) (dot : Rat) : Prop :=
  if fmtA = 1 then
    (∀ q ∈ ps, q = 0) ∧ dot = 0 ∨
    ∃ E : Int, (∃ q ∈ ps, (2 : Rat) ^ E ≤ magnitude q) ∧ (∀ q ∈ ps, magnitude q < (2 : Rat) ^ (E + 1)) ∧
      dot = (ps.map (cutAt (E - 47))).sum
  else dot = ps.sum

/-- The floating combinations of R71. -/
def FloatFormats (d : Tensor) (p : Plane) : Prop :=
  (d.fmtA = 3 ∨ d.fmtA = 4) ∧ (p.fmtB = 3 ∨ p.fmtB = 4) ∨ d.fmtA = 5 ∧ p.fmtB = 5 ∨ d.fmtA = 1 ∧ p.fmtB = 1

/-- The scales of a column, 1.0 without (R70). -/
def scaleA (p : Plane) (sA : Nat) : Ex := if p.scaled then bf16.decode sA else bf16.decode 0x3F80
def scaleB (p : Plane) (n : Nat) : Ex := if p.scaled then bf16.decode ((p.scales[n]?).getD 0x3F80) else bf16.decode 0x3F80
/-- The signs of the scales differ. -/
def signsDiffer (p : Plane) (sA n : Nat) : Bool := p.scaled && (sA / 2 ^ 15 % 2 != ((p.scales[n]?).getD 0x3F80) / 2 ^ 15 % 2)

/-- INV for each LG6 code 0b100000 that is read (R55). -/
def readFlags (d : Tensor) (p : Plane) (row : List Nat) (n : Nat) : Flags :=
  if d.fmtA = 5 ∧ (row ++ p.tile.map fun r => r[n]?.getD 0).any (fun c => c % 64 == 32) = true then flagInv else 0

/-- Elements of a row and column with their partners. -/
def pairsOf (d : Tensor) (p : Plane) (row : List Nat) (n : Nat) : List (Ex × Ex) :=
  List.zipWith (fun a b => (elemValue d.fmtA a, elemValue p.fmtB b)) row (p.tile.map fun r => r[n]?.getD 0)

def isZero (x : Ex) : Prop := isNumber x = true ∧ number x = 0
/-- The product is infinite, with that sign. -/
def InfiniteProduct (q : Ex × Ex) (neg : Bool) : Prop :=
  ¬isZero q.1 ∧ ¬isZero q.2 ∧ ((∃ a, q.1 = .inf a) ∨ ∃ b, q.2 = .inf b) ∧ q.1.isNan = false ∧ q.2.isNan = false ∧
    neg = (q.1.isNeg != q.2.isNeg)

end Sys2Proof.Claims

/-- INT8: the exact sum of products is added to the accumulator, wrapping or saturating, and sets no flag (R75). -/
def Sys2Proof.Claims.MmaIntegerSums : Prop :=
  ∀ (d : Tensor) (p : Plane) (sat : Bool) (row : List Nat) (sA n : Nat) (acc : Word), d.fmtA = 6 →
    let value (c : Nat) : Int := (BitVec.ofNat 8 c).toInt
    let dot := (List.zipWith (fun a b => value a * value b) row (p.tile.map fun r => r[n]?.getD 0)).sum
    (row.length ≤ 32 → -2 ^ 31 ≤ dot ∧ dot < 2 ^ 31) ∧
    mmaElem d p sat row sA n acc =
      (if sat then clampBits 32 true (acc.toInt + dot) else acc + BitVec.ofInt 32 dot, 0)

/-- FP8, LG6 and BF16, with and without scales, where every input is a number: acc + sA × sB × dot exactly, rounded once to
nearest; OVF where it overflows, INV only for the LG6 code 0b100000. That a result which is or rounds to −0 is +0, but where acc is −0
and the scales' signs differ, is how the model reads R76 (R57, R70, R73, R74, R76; notes/assumptions/14). -/
def Sys2Proof.Claims.MmaFloatSums : Prop :=
  ∀ (d : Tensor) (p : Plane) (row : List Nat) (sA n : Nat) (acc : Word) (dot : Rat), FloatFormats d p →
    (∀ q ∈ pairsOf d p row n, isNumber q.1 = true ∧ isNumber q.2 = true) → row.length = p.tile.length →
    isNumber (fp32.decode acc.toNat) = true → isNumber (scaleA p sA) = true → isNumber (scaleB p n) = true →
    IsDot d.fmtA (productsOf d p row n) dot →
    let x := number (fp32.decode acc.toNat) + number (scaleA p sA) * number (scaleB p n) * dot
    let r := mmaElem d p false row sA n acc
    let negative : Prop := acc = 0x80000000 ∧ signsDiffer p sA n = true
    (x ≠ 0 → ∀ v, isNumber v = true → number v = x →
      let q := fp32.round .rne false v
      (q.1 ≠ 0x80000000 ∨ negative → r.1 = BitVec.ofNat 32 q.1) ∧
      (q.1 = 0x80000000 → ¬negative → r.1 = 0) ∧ r.2 = (q.2 &&& flagOvf) ||| readFlags d p row n) ∧
    (x = 0 → (r.1 = 0 ∨ r.1 = 0x80000000 ∧ negative) ∧ (negative → dot = 0 → r.1 = 0x80000000) ∧
      r.2 = readFlags d p row n)

/-- A NaN among the inputs, infinity times zero and opposite infinities give the canonical NaN with INV; an infinite product or
accumulator carries its sign into the result, without a flag (R76). -/
def Sys2Proof.Claims.MmaSpecialSums : Prop :=
  ∀ (d : Tensor) (p : Plane) (row : List Nat) (sA n : Nat) (acc : Word), FloatFormats d p → row.length = p.tile.length →
    let a := fp32.decode acc.toNat
    let l := pairsOf d p row n
    let r := mmaElem d p false row sA n acc
    let invalid : Prop := r = (0x7FC00000, flagInv)
    ((∃ q ∈ l, q.1.isNan = true ∨ q.2.isNan = true) ∨ a.isNan = true ∨ (scaleA p sA).isNan = true ∨
      (scaleB p n).isNan = true → invalid) ∧
    ((∃ q ∈ l, (∃ s, q.1 = .inf s) ∧ isZero q.2 ∨ isZero q.1 ∧ ∃ s, q.2 = .inf s) → invalid) ∧
    ((∃ q ∈ l, InfiniteProduct q true) → (∃ q ∈ l, InfiniteProduct q false) → invalid) ∧
    (∀ neg, (∃ q ∈ l, InfiniteProduct q neg) →
      (∀ q ∈ l, isNumber q.1 = true ∧ isNumber q.2 = true ∨ InfiniteProduct q neg) →
      (scaleA p sA).isNan = false → (scaleB p n).isNan = false →
      (isZero (scaleA p sA) ∨ isZero (scaleB p n) → invalid) ∧
      (¬isZero (scaleA p sA) → ¬isZero (scaleB p n) →
        let out := neg != ((scaleA p sA).isNeg != (scaleB p n).isNeg)
        (a = .inf (!out) → invalid) ∧
        (isNumber a = true ∨ a = .inf out → r = (if out then 0xFF800000 else 0x7F800000, 0)))) ∧
    (∀ out, a = .inf out → (∀ q ∈ l, isNumber q.1 = true ∧ isNumber q.2 = true) → isNumber (scaleA p sA) = true →
      isNumber (scaleB p n) = true → r = (if out then 0xFF800000 else 0x7F800000, readFlags d p row n))

/-- The sums of `mma` (R57, R70 to R76). -/
def Obligations.MmaElementSums : Prop := Claims.MmaIntegerSums ∧ Claims.MmaFloatSums ∧ Claims.MmaSpecialSums

/-- `feed` starts a stream at P, discarding the earlier one; `fstop` ends it; `fpos` reads P without a pop. A broken
stream form is FORMAT (R38, R189, R190). -/
def Sys2Proof.Claims.StreamsStartAndStop : Prop :=
  (∀ (x : PlainOp) (s : State) (e : Ex1), (Instr.feed x).wf = true → Issues (.feed x) s e →
    (∀ sp, StreamForm (descriptor s e x.a) sp →
      exec (.feed x) s = .next (s.setTeam (e.advance (setStream (metered s e) (queueNo x.d)
        (streamFrom (descriptor s e x.a) sp (readField e.t [] (immPlain x.imm) e.low x.b 0)))))) ∧
    ((∀ sp, ¬StreamForm (descriptor s e x.a) sp) →
      exec (.feed x) s = .next (s.raise e.t e.x (e.cause codeFormat 0 e.low e.mask)))) ∧
  (∀ (x : PlainOp) (s : State) (e : Ex1) (q : Stream), (Instr.fstop x).wf = true → Issues (.fstop x) s e →
    e.t.f[queueNo x.d]? = some q →
    exec (.fstop x) s = .next (s.setTeam (e.advance (setStream (metered s e) (queueNo x.d)
      { q with active := false, queued := [] })))) ∧
  (∀ (x : PlainOp) (s : State) (e : Ex1) (q : Stream), (Instr.fpos x).wf = true → Issues (.fpos x) s e →
    e.t.f[queueNo x.a]? = some q →
    exec (.fpos x) s = .next (s.setTeam (e.advance ((metered s e).applyWrites
      ((execSlots x.d e.slots).flatMap fun i => destWrites x.d i [q.pos])))))

/-- A pop gives every slot its element P, and P goes on by one. Without that no queue of the instruction moves: an element
that has not arrived makes the split wait with reason 1, one whose load failed and a queue without a stream are FEED_FAULT,
and the instruction has no effect (R38, R191, R192, R194). -/
def Sys2Proof.Claims.QueueOperandsPop : Prop :=
  (∀ (t : Team) (i : BitVec 2) (slots : List Nat) (f : Nat → Word), t.f[i.toNat].active = true →
    (∀ slot ∈ slots, t.f[i.toNat].queued.find? (fun e => e.n == t.f[i.toNat].pos.toNat && e.slot == slot) =
      some ⟨t.f[i.toNat].pos.toNat, slot, .val (f slot)⟩) →
    t.pop i slots = (setStream t i.toNat { t.f[i.toNat] with
      pos := t.f[i.toNat].pos + 1, queued := t.f[i.toNat].queued.filter fun e => e.n != t.f[i.toNat].pos.toNat },
      .ok (slots.map fun slot => (slot, f slot)))) ∧
  (∀ (t : Team) (i : BitVec 2) (slots : List Nat) (k : Nat), t.f[i.toNat].active = true → k ∈ slots →
    (∀ e ∈ t.f[i.toNat].queued, e.slot = k → e.n ≠ t.f[i.toNat].pos.toNat) → t.pop i slots = (t, .waiting)) ∧
  (∀ (i : Instr) (q : BitVec 2) (o : Ops) (t : Team) (slots : List Nat), popsField i (.f q) = some q →
    o.a = .f q → t.f[q.toNat].active = false → popFields slots i o t = .error .absent) ∧
  (∀ (x : IntOp) (s : State) (e : Ex1) (r : PopResult), (Instr.mov x).wf = true → Issues (.mov x) s e →
    popFields (execSlots x.d e.slots) (.mov x) x.ops e.t = .error r →
    (r = .absent → exec (.mov x) s = .next (s.raise e.t e.x (e.cause codeFeedFault 0xFFFFFFFF e.low e.mask))) ∧
    (∀ addr k ks, r = .fault addr (k :: ks) → exec (.mov x) s =
      .next (s.raise e.t e.x (e.cause codeFeedFault (BitVec.ofNat 32 addr) k (maskOf (k :: ks)) addr))) ∧
    (r = .waiting → exec (.mov x) s = .next (s.setTeam (e.t.setSplit { e.x.clear with
      wait := .scoreboard, block := .element, since := s.tick, again := true }))))

/-- A run-ahead load takes the lowest of elements P to P + 7, and of that the lowest mask word, which some lane that has
not exited lacks, for every such lane; it changes no register and no position, and splits that wait for an element issue
again (R192 to R194). -/
def Sys2Proof.Claims.FeederRunsAhead : Prop :=
  ∀ (team : Nat) (i : BitVec 2) (s : State) (t : Team) (k w : Nat), s.team? team = some t → t.status = .resident →
    t.saving = false → s.reservation t.coreNo = none → s.entriesUsed t.coreNo + 64 ≤ 256 →
    (∀ b ∈ (s.die t.dieNo).walks, b.owner ≠ .queue team i.toNat) →
    let q := t.f[i.toNat]
    let has (j slot : Nat) : Prop := ∃ e ∈ q.queued, e.n = (q.pos + BitVec.ofNat 32 j).toNat ∧ e.slot = slot
    let lives (slot : Nat) : Prop := slot < t.lanes.length ∧ (t.lane slot).live = true
    let lacking (slot : Nat) : Prop := slot / 32 = w ∧ lives slot ∧ ¬has k slot
    (q.space = .glb → ∀ slots : List Nat, s.pagesToWalk t q.walked { bytes := elemBytes q.elem, kind := .read, aligned := true }
      (slots.map fun j => q.address j (q.pos + BitVec.ofNat 32 k).toNat) = []) →
    q.active = true → k < 8 → w < 32 → (∀ j < k, ∀ slot < 1024, lives slot → has j slot) →
    (∀ slot < 32 * w, lives slot → has k slot) → (∃ slot, lacking slot) →
    (∃ (s1 : State) (got : List QElem) (u : Team), exec (.feederRunaheadLoad team i.toNat) s = .next (s1.setTeam u) ∧
      s1.teams = s.teams ∧ u.f = (setStream t i.toNat { q with queued := q.queued ++ got, walked := [] }).f ∧
      u.splits = t.splits.map (fun x => if x.block = .element then x.wake else x) ∧
      { u with f := t.f, splits := t.splits, landings := t.landings, nextLanding := t.nextLanding } = t ∧
      (∀ e ∈ got, e.n = (q.pos + BitVec.ofNat 32 k).toNat) ∧ ∀ slot, lacking slot ↔ ∃ e ∈ got, e.slot = slot) ∧
    (∀ s1 v, t.lanes.length = 1 → s.loadElem t q 0 (q.pos + BitVec.ofNat 32 k).toNat = (s1, .val v) →
      ∃ u, (exec (.feederRunaheadLoad team i.toNat) s = .next u) ∧ ∃ t1, u.team? team = some t1 ∧
        t1.f = (setStream t i.toNat { q with queued := q.queued ++ [⟨(q.pos + BitVec.ofNat 32 k).toNat, 0, .val v⟩], walked := [] }).f)

/-- A matrix reset loses every plane of its core; the team whose `mma` was executing takes MATRIX_RESET at that instruction,
whose result registers then hold values left open (R217). Which mma was executing, and that later ones have no effect, is
the model's choice (notes/assumptions/16). -/
def Obligations.MatrixResetLosesThePlanes : Prop :=
  ∀ (core : Nat) (s : State) (t : Team) (l : Landing) (x : Split) (label : Pc), s.team? t.key = some t → t ∈ s.teams →
    t.coreNo = core → (t.landings.find? fun l => l.kind == LandKind.mma) = some l → t.split? l.split = some x →
    (∀ u ∈ s.teams, u.coreNo = core → (u.landings.any fun l => l.kind == LandKind.mma) = true → u = t) →
    let c := s.core core
    let s1 := (s.setCore { c with planes := (List.range 8).map fun i =>
      { ((c.planes[i]?).getD {}) with active := { state := .lost }, shadow := { state := .lost }, loading := none } })
    let m := l.lanes &&& x.mask
    let u := ({ t with landings := t.landings.filter fun (k : Landing) => k.kind != LandKind.mma } : Team).applyWrites
      (l.writes.zipIdx.map fun (w, i) => { w with val := Config.matrixLeft s.tick i })
    TakesTrap s1.bump u x label →
    exec (.matrixReset core) s = .next (s1.bump.setTeam
      (deliveredAt (u.landSplit x.id) x label codeMatrixReset l.pc 0 (BitVec.ofNat 32 (lowestSlot m)) l.pc m))

namespace Sys2Proof.Claims
open Sys2Proof.Machine

/-! ### Teams and clusters -/

/-- The team is in the gang `g`, whose barrier `b` the instruction names; it is in no trap handler, and the instruction
issues for the first time. -/
structure AtBarrier (s : State) (e : Ex1) (x : PlainOp) (g : Gang) (b : Nat) : Prop where
  fresh : e.x.accepted = 0 ∧ e.x.holds = []
  outside : e.x.trap = none
  gang : e.t.gang.bind s.gang? = some g
  number : (readField e.t [] (immPlain x.imm) e.low x.a 0).toNat = b ∧ b < 16
  rank : e.t.rank < 16
  here : e.x.pc = e.pc

/-- No element of the team is on its way, and no other split of it has an earlier access that is not performed, or elements
that have still to enter. -/
def AllPerformed (s : State) (e : Ex1) : Prop :=
  s.outstanding e.t.key e.t.dieNo = [] ∧ NothingEarlier e ∧ ¬EarlierElements e

def barrierOf (g : Gang) (b : Nat) : Barrier := (g.barriers[b]?).getD {}

/-- The rank's flag in the barrier. -/
def hasArrived (g : Gang) (b : Nat) (t : Team) : Bool := (barrierOf g b).arrived.getLsbD t.rank

/-- The team's one split arrives: its rank has not in this phase, the phase's timer has not expired, and every other team
of the gang has a split that has not come to the barrier (R228, R243). -/
structure Arrives (s : State) (e : Ex1) (g : Gang) (b : Nat) : Prop where
  alone : e.t.splits = [e.x] ∧ e.x.record = false
  first : hasArrived g b e.t = false
  inTime : ∀ n, (barrierOf g b).timer = some n → s.cycle g.pkg ≤ n + 2 ^ g.log2bar
  others : ∀ u ∈ s.teams, u.gang = some g.id → u.key ≠ e.t.key →
    ∃ y ∈ u.splits, y.record = false ∧ y.gbarDone.getLsbD b = false ∧ ∀ op, y.block ≠ .gbarArrived b op

/-- The barrier after the arrival of a rank: the last one completes the phase. -/
def afterArrival (g : Gang) (b : Nat) (t : Team) (now : Nat) : Barrier :=
  let x := barrierOf g b
  if x.count + 1 = g.expected then { phase := !x.phase, count := 0, arrived := 0, timer := none }
  else { x with count := x.count + 1, arrived := x.arrived ||| (1 <<< t.rank), timer := if x.count = 0 then some now else x.timer }

/-- A split of a team in a state: found, with `P`. -/
def SplitIs (s : State) (team split : Nat) (P : Split → Prop) : Prop :=
  ∃ t x, s.team? team = some t ∧ t.split? split = some x ∧ P x

/-- In a trap handler the instruction is ILLEGAL_OPCODE, with bits [95:64] of its word in j2 (R227, R232, R234). -/
def RefusedInHandlers (i : Instr) (s : State) (e : Ex1) : Prop :=
  e.x.trap.isSome = true →
    exec i s = .next (s.raise e.t e.x (e.cause codeIllegalOpcode (e.word.extractLsb' 64 32) e.low e.mask))

/-- Where `gbar` faults: in a handler, without a gang, and on an id above 15 (R227). -/
def GbarFaults (i : Instr) (x : PlainOp) (s : State) (e : Ex1) : Prop :=
  RefusedInHandlers i s e ∧
  (e.x.trap = none → e.t.gang.bind s.gang? = none →
    exec i s = .next (s.raise e.t e.x (e.cause codeIllegalOperand 0 e.low e.mask))) ∧
  (∀ g b, e.x.trap = none → e.t.gang.bind s.gang? = some g →
    (readField e.t [] (immPlain x.imm) e.low x.a 0) = b → 15 < b.toNat →
    exec i s = .next (s.raise e.t e.x (e.cause codeBounds b e.low e.mask b.toNat)))

/-- What an exchange puts in flight for one side. -/
def exchangeWrites (dst src : BitVec 8) (both : Mask) (other : Team) : List RegWrite :=
  (maskSlots both).map fun i => ⟨some i, .v dst, ((other.lane i).v[src.toNat]?).getD 0⟩

def vNo (o : Operand) : BitVec 8 := match o with | .v i => i | _ => 0

/-- Nothing of the team is on its way: a save can take it at once (R336). -/
structure Savable (s : State) (t : Team) : Prop where
  single : t.gang = none
  status : t.status = .resident ∨ t.status = .held
  alive : (s.die t.dieNo).fenced = false
  free : ∀ r ∈ (s.core t.coreNo).regroups, r.nmax.isSome = true → r.participants.contains t.key = false
  acks : ∀ x ∈ t.splits, x.block ≠ .acks
  done : ∀ x ∈ t.splits, x.mustFinish = false
  quiet : s.quiet t = true

/-- A team as a save leaves it: its registers with every result in them, no place, no run-ahead elements; rejected
passes, naps, `wait` and ordering stalls issue again (R107, R336). -/
structure SavedFrom (t u : Team) : Prop where
  status : u.status = .saved
  state : u.lanes = t.landAll.lanes ∧ u.s = t.landAll.s ∧ u.k = t.landAll.k ∧ u.j = t.landAll.j ∧
    u.fstat = t.landAll.fstat ∧ u.scratch = t.scratch ∧ u.entry = t.entry
  splits : u.splits.map Split.id = t.splits.map Split.id ∧ u.splits.map Split.mask = t.splits.map Split.mask ∧
    u.splits.map Split.pc = t.splits.map Split.pc
  gone : u.landings = [] ∧ u.plane = none ∧ u.preempt = none ∧ u.saving = false ∧ ∀ q ∈ u.f.toList, q.queued = []

end Sys2Proof.Claims

/-- `gbar`: an arrival of a team of one split counts at its barrier and sets the rank's flag, the last one completes the
phase; `.wait` goes on, after an acquire, when the flag is clear, and waits with reason 5 otherwise; `.sync` does both.
All three fault in a handler, without a gang and on an id above 15 (R226 to R229). -/
def Sys2Proof.Claims.GangBarriers : Prop :=
  (∀ (x : PlainOp) (s : State) (e : Ex1) (g : Gang) (b : Nat), (Instr.gbarArrive x).wf = true → Issues (.gbarArrive x) s e →
    AtBarrier s e x g b → Arrives s e g b →
    Leads (.gbarArrive x) s fun s1 =>
      (∃ g1, s1.gang? g.id = some g1 ∧ barrierOf g1 b = afterArrival g b e.t (s.cycle e.t.pkg) ∧
        ∀ c < 16, c ≠ b → barrierOf g1 c = barrierOf g c) ∧
      SplitIs s1 e.t.key e.x.id fun y => y.pc = pcNext e.pc ∧ y.wait = .ready) ∧
  (∀ (x : PlainOp) (s : State) (e : Ex1) (g : Gang) (b : Nat), (Instr.gbarWait x).wf = true → Issues (.gbarWait x) s e →
    AtBarrier s e x g b →
    exec (.gbarWait x) s = .next (
      if hasArrived g b e.t then
        s.setTeam ((metered s e).setSplit { e.x with wait := .sync, block := .gbarPhase b, since := s.tick })
      else (s.acquireL1 e.t.coreNo e.t.ctx ⟨[], false⟩).setTeam (e.advance (metered s e)))) ∧
  (∀ (x : PlainOp) (s : State) (e : Ex1) (g : Gang) (b : Nat), (Instr.gbarSync x).wf = true → Issues (.gbarSync x) s e →
    AtBarrier s e x g b → Arrives s e g b →
    Leads (.gbarSync x) s fun s1 =>
      (∃ g1, s1.gang? g.id = some g1 ∧ barrierOf g1 b = afterArrival g b e.t (s.cycle e.t.pkg)) ∧
      SplitIs s1 e.t.key e.x.id fun y =>
        if (barrierOf g b).count + 1 = g.expected then y.pc = pcNext e.pc ∧ y.wait = .ready
        else y.pc = e.pc ∧ y.wait = .sync ∧ y.block = .gbarPhase b) ∧
  (∀ (x : PlainOp) (s : State) (e : Ex1),
    (Issues (.gbarArrive x) s e → GbarFaults (.gbarArrive x) x s e) ∧
    (Issues (.gbarWait x) s e → GbarFaults (.gbarWait x) x s e) ∧
    (Issues (.gbarSync x) s e → GbarFaults (.gbarSync x) x s e))

/-- `tsync` holds a split with reason 5 until every live split of the team waits at one; then each goes on behind its
own, and every earlier result is in its register. In a handler it is ILLEGAL_OPCODE (R232). -/
def Sys2Proof.Claims.TeamBarrier : Prop :=
  ∀ (h : Head) (s : State) (e : Ex1), (Instr.tsync h).wf = true → Issues (.tsync h) s e →
    RefusedInHandlers (.tsync h) s e ∧
    (e.x.trap = none → e.x.record = false → (e.t.splits.map Split.id).Nodup →
    if ∀ y ∈ e.t.splits, y.id ≠ e.x.id → y.record = true ∨ y.block = .tsync then
      Leads (.tsync h) s fun s1 => ∃ u, s1.team? e.t.key = some u ∧ u.timer = none ∧ u.landings = [] ∧
        ∀ y ∈ e.t.splits, y.record = false → ∃ z ∈ u.splits, z.id = y.id ∧ z.mask = y.mask ∧ z.wait = .ready ∧ z.pc = pcNext y.pc
    else exec (.tsync h) s = .next (s.setTeam ({ metered s e with timer := some (e.t.timer.getD (s.cycle e.t.pkg)) }.setSplit
      { e.x with wait := .sync, block := .tsync, since := s.tick })))

/-- `xshuf` waits for its peer; when a team of another cluster of the die and context has arrived with the same tag, the
lanes that contribute on both sides exchange A for D, and both splits go on. In a handler it is ILLEGAL_OPCODE
(R233, R234). -/
def Obligations.ExchangeBetweenTeams : Prop :=
  ∀ (x : PlainOp) (s : State) (e : Ex1), (Instr.xshuf x).wf = true → Issues (.xshuf x) s e →
    RefusedInHandlers (.xshuf x) s e ∧ (e.x.trap = none → e.x.src = [] →
    let d := s.die e.t.dieNo
    let tag : BitVec 8 := (readField e.t [] (immPlain x.imm) e.low x.b 0).setWidth 8
    (∀ a ∈ d.xshuf, a.team ≠ e.t.key) →
    ((∀ a ∈ d.xshuf, a.tag ≠ tag) → exec (.xshuf x) s = .next ((s.setDie { d with xshuf := d.xshuf ++ [
        { team := e.t.key, split := e.x.id, tag := tag, dst := vNo x.d, src := vNo x.a, lanes := e.mask
          look := if x.head.ver1 then 0 else x.head.look.toNat, since := s.cycle e.t.pkg }] }).setTeam
        ((metered s e).setSplit { e.x with
          src := [(0, tag.toNat, 0)], wait := .sync, block := .xshuf e.mask, since := s.tick }))) ∧
    (∀ (a : XArrival) (u : Team) (y : Split), d.xshuf = [a] → a.tag = tag → s.team? a.team = some u → u.ctx = e.t.ctx →
      u.clusterNo ≠ e.t.clusterNo → u.split? a.split = some y →
      Leads (.xshuf x) s fun s1 =>
        (s1.die e.t.dieNo).xshuf = [] ∧
        (∃ v l, s1.team? e.t.key = some v ∧ v.landings = e.t.landings ++ [l] ∧ l.split = e.x.id ∧
          l.writes = exchangeWrites (vNo x.d) a.src (e.mask &&& a.lanes) u) ∧
        (∃ v l, s1.team? u.key = some v ∧ v.landings = u.landings ++ [l] ∧ l.split = a.split ∧
          l.writes = exchangeWrites a.dst (vNo x.a) (e.mask &&& a.lanes) e.t) ∧
        (SplitIs s1 e.t.key e.x.id fun z => z.pc = pcNext e.pc ∧ z.wait = .ready) ∧
        SplitIs s1 u.key a.split fun z => z.pc = pcNext y.pc ∧ z.wait = .ready))

/-- `regroup`: the arrival of a team of one split, whose earlier results are then in their registers; when all
participants have arrived, the relocation starts with room for N_max teams. With several splits, or in a handler, it is
REGROUP_ABORT with j2 = 1 (R197 to R199, R201). -/
def Sys2Proof.Claims.RegroupArrives : Prop :=
  ∀ (x : PlainOp) (s : State) (e : Ex1), (Instr.regroup x).wf = true → Issues (.regroup x) s e →
    ((e.x.trap.isSome = true ∨ e.t.splits.length ≠ 1) → exec (.regroup x) s = .next (s.raise e.t e.x
      { code := codeRegroupAbort, level := 2, pc := e.x.pc, j2 := 1, j3 := BitVec.ofNat 32 (lowestSlot e.x.mask)
        lanes := e.x.mask, resume := e.x.pc })) ∧
    (e.x.trap = none → e.t.splits = [e.x] → e.t.gang = none → e.t.status = .resident → (∃ l ∈ e.t.lanes, l.live = true) →
      (s.core e.t.coreNo).regroups = [] →
      Leads (.regroup x) s fun s1 =>
        (SplitIs s1 e.t.key e.x.id fun y => y.pc = e.x.pc ∧ y.wait = .sync ∧ y.block = .regroup) ∧
        (∃ u, s1.team? e.t.key = some u ∧ u.landings = [] ∧ u.lanes = e.t.landAll.lanes) ∧
        ∃ r, (s1.core e.t.coreNo).regroups = [r] ∧
          r.arrivals = [{ team := e.t.key, split := e.x.id, dst := vNo x.d, keyReg := vNo x.a }] ∧
          (∀ k ∈ r.participants, ∃ t ∈ s.teams, t.key = k ∧ t.coreNo = e.t.coreNo ∧ t.ctx = e.t.ctx) ∧
          (r.nmax.isSome = true ↔ r.participants.length = 1))

/-- The cut C of R199: the lanes in order, in pieces of one key and at most Λ lanes, each of which ends where the key changes
or Λ lanes are reached. -/
structure Sys2Proof.Claims.IsCut (lanes : Nat) (l : List Sorted) (cs : List (List Sorted)) : Prop where
  order : cs.flatten = l
  pieces : ∀ g ∈ cs, g ≠ [] ∧ g.length ≤ lanes ∧ ∀ a ∈ g, ∀ b ∈ g, a.key = b.key
  ends : ∀ (i : Nat) (g h : List Sorted), cs[i]? = some g → cs[i + 1]? = some h →
    g.length = lanes ∨ ∀ a ∈ g.getLast?, ∀ b ∈ h.head?, a.key ≠ b.key

/-- The lanes in order, cut after every Λ. -/
structure Sys2Proof.Claims.IsPacked (lanes : Nat) (l : List Sorted) (cs : List (List Sorted)) : Prop where
  order : cs.flatten = l
  pieces : ∀ g ∈ cs, g ≠ [] ∧ g.length ≤ lanes
  full : ∀ (i : Nat) (g : List Sorted), cs[i]? = some g → i + 1 < cs.length → g.length = lanes

/-- The new teams of a regroup: every lane of every participant, sorted by key, old team and old slot; C where it has at most
N_max teams, else the first U teams of C, for the largest U, and the rest cut after every Λ lanes. N_max is the number of
participants and of the further teams that fit, in a gang at most 16 (R199). -/
def Obligations.RegroupFormsTeams : Prop :=
  (∀ (lanes nmax : Nat) (l : List Sorted), 0 < lanes → ∃ c, Sys2Proof.Claims.IsCut lanes l c ∧
    (c.length ≤ nmax → regroupForm lanes nmax l = c) ∧
    (nmax < c.length → l.length ≤ lanes * nmax →
      let fits (u : Nat) : Prop := u + ((c.drop u).flatten.length + lanes - 1) / lanes ≤ nmax
      ∃ u w, u ≤ c.length ∧ fits u ∧ (∀ v ≤ c.length, fits v → v ≤ u) ∧
        Sys2Proof.Claims.IsPacked lanes (c.drop u).flatten w ∧ regroupForm lanes nmax l = c.take u ++ w)) ∧
  (∀ (s : State) (r : Regroup),
    (s.regroupLanes r).Pairwise (fun a b => a.key < b.key ∨ a.key = b.key ∧
      (a.old < b.old ∨ a.old = b.old ∧ a.slot ≤ b.slot)) ∧
    ∀ q, q ∈ s.regroupLanes r ↔ ∃ a ∈ r.arrivals, ∃ t, s.team? a.team = some t ∧ q.old = t.key ∧ q.dst = a.dst ∧
      q.slot < t.lanes.length ∧ (t.lane q.slot).live = true ∧
      q.key = (((t.lane q.slot).v[a.keyReg.toNat]?).getD 0).toNat % 256) ∧
  (∀ (s : State) (core : Nat) (r : Regroup),
    let e := s.regroupEntry r
    0 < e.granules e.lanes → ∃ more,
      (∀ k, 0 < k → (k ≤ more ↔ s.coreCount core + k ≤ 32 ∧ k * e.granules e.lanes ≤ s.coreFree core ∧
        (e.planes = 1 → k ≤ s.pairsLeft core))) ∧
      s.regroupMax core r = if r.gang.isSome then min (r.participants.length + more) 16 else r.participants.length + more)

/-- The commit of a regroup of any number of teams outside a gang: their lanes stand in new teams, each with its new slot in
the register that its `regroup` named, its key, and p0 where its team has one key; what else a lane has moves with it. Registers
of a team come from the old team of its lowest lane, FSTAT is that of all its lanes' old teams, age and priority those of
the earliest-placed one. It goes on behind the `regroup`; which one, where the participants arrived at different ones, is the
model's choice (notes/assumptions/18). An error has the team abort with j2 = 4 instead (R199, R200, R202). -/
def Sys2Proof.Claims.RegroupCommits : Prop :=
  (∀ (core : Nat) (s : State) (ts : List Team) (e : Entry) (r : Regroup), (s.core core).regroups = [r] →
    r.nmax.isSome = true → r.gang = none → ts ≠ [] → (ts.map Team.key).Nodup → r.arrivals.map RegroupArrival.team = ts.map Team.key →
    r.participants = ts.map Team.key → e.planes = 0 → 0 < e.lanes →
    (∀ t ∈ ts, s.team? t.key = some t ∧ t.coreNo = core ∧ t.gang = none ∧ t.plane = none ∧ t.entry = e ∧
      ∃ x, t.splits = [x]) →
    let groups : List (List Sorted) := regroupForm e.lanes (r.nmax.getD 1) (s.regroupLanes r)
    Leads (.regroupCommit core false) s fun s1 =>
      (s1.core core).regroups = [] ∧ ∃ stay new, s1.teams = stay ++ new ∧
        stay.map Team.key = (s.teams.map Team.key).filter (fun k => !r.participants.contains k) ∧ new.length = groups.length ∧
        ∀ (i : Nat) (u : Team) (g : List Sorted), new[i]? = some u → groups[i]? = some g →
          (∃ low ∈ ts, (∀ q ∈ g.head?, q.old = low.key) ∧ u.core = low.core ∧ u.pkg = low.pkg ∧ u.entry = e ∧ u.s = low.s ∧
            u.k = low.k ∧ u.j = low.j ∧ u.scratch = {} ∧ u.f = Vector.replicate 4 {} ∧
            ∃ y z, u.splits = [y] ∧ low.splits = [z] ∧ y.pc = pcNext z.pc ∧ y.mask = maskOf (List.range g.length)) ∧
          (∃ first ∈ ts, (∀ t ∈ ts, first.age ≤ t.age) ∧ u.age = first.age ∧ u.prio = first.prio) ∧
          (∀ b, u.fstat.getLsbD b = true ↔ ∃ q ∈ g, ∃ t ∈ ts, t.key = q.old ∧ t.fstat.getLsbD b = true) ∧
          u.lanes.length = g.length ∧ ∀ k q, g[k]? = some q → ∃ t ∈ ts, t.key = q.old ∧
            let l := u.lane k
            let o := t.lane q.slot
            l.key = BitVec.ofNat 32 q.key ∧ (q.dst.toNat < o.v.size → l.v[q.dst.toNat]? = some (BitVec.ofNat 32 k)) ∧
            (∀ n, n ≠ q.dst.toNat → l.v[n]? = o.v[n]?) ∧
            l.pred 0 = g.all (fun b => b.key == (g.head?.map Sorted.key).getD 0) ∧
            (∀ n, n ≠ 0 → l.pred n = o.pred n) ∧ { l with v := o.v, p := o.p, key := o.key } = o) ∧
  (∀ (core : Nat) (s : State) (t : Team) (a : RegroupArrival) (r : Regroup) (x : Split) (label : Pc), s.teams = [t] →
    t.coreNo = core → (s.core core).regroups = [r] → r.arrivals = [a] → a.team = t.key → r.participants = [t.key] →
    r.nmax.isSome = true → t.gang = none → t.plane = none → t.split? a.split = some x →
    TakesTrap (s.setCore { s.core core with regroups := [] }) t x label →
    Leads (.regroupCommit core true) s fun s1 => (s1.core core).regroups = [] ∧
      ∃ u, s1.team? t.key = some u ∧ u.j[0] = BitVec.ofNat 32 codeRegroupAbort ∧ u.j[2] = 4 ∧
        ∃ y, u.split? x.id = some y ∧ y.pc = label)

/-- `trig` marks its team once and counts it at its gang; without a trigger count, or a second time, it is a no-op
(R331). -/
def Sys2Proof.Claims.TriggersCount : Prop :=
  ∀ (h : Head) (s : State) (e : Ex1) (l : Launch), (Instr.trig h).wf = true → Issues (.trig h) s e →
    ((e.t.launch = none ∨ e.t.triggered = true) → exec (.trig h) s = .next (s.setTeam (e.advance (metered s e)))) ∧
    (e.t.launch.bind s.launch? = some l → 0 < l.rec'.trign → e.t.triggered = false →
      AllPerformed s e →
      ∀ g, e.t.gang.bind s.gang? = some g → g.triggeredBy.contains e.t.id = false → Leads (.trig h) s fun s1 =>
        (l.rec'.trign ≤ g.triggers + 1 → ∀ l1, s1.launch? g.launch = some l1 → l1.counted.contains g.index = true) ∧
        (∃ u, s1.team? e.t.key = some u ∧ u.triggered = true) ∧
        (∃ g1, s1.gang? g.id = some g1 ∧ g1.triggers = g.triggers + 1 ∧ g1.triggeredBy = g.triggeredBy ++ [e.t.id]) ∧
        SplitIs s1 e.t.key e.x.id fun y => y.pc = pcNext e.pc)

/-- `yield T` goes to T, where a pre-emption saves the team; `yield.done T` of a whole team ends its placement: at T its
lanes hold their payloads and nothing else; an event team is placed again on the core of its die with the fewest teams
where it fits (R109, R327, R332). -/
def Sys2Proof.Claims.SafePoints : Prop :=
  (∀ (x : BrOp) (s : State) (e : Ex1), (Instr.yield x).wf = true → Issues (.yield x) s e →
    (e.t.preempt = none → exec (.yield x) s =
      .next (s.setTeam (((metered s e).setSplit (transferred e.x e.pc (target e x))).endShadow e.x.id))) ∧
    (e.t.preempt.isSome = true → Savable s e.t → Leads (.yield x) s fun s1 => ∃ u, s1.team? e.t.key = some u ∧
      SavedFrom (((metered s e).setSplit (transferred e.x e.pc (target e x))).endShadow e.x.id) u)) ∧
  (∀ (x : BrOp) (s : State) (e : Ex1), (Instr.yieldDone x).wf = true → Issues (.yieldDone x) s e → e.t.splits = [e.x] →
    Savable s e.t → e.t.status = .resident → e.t.saving = false →
    Leads (.yieldDone x) s fun s1 => ∃ u, s1.team? e.t.key = some u ∧ u.status = .parked ∧ u.landings = [] ∧
      u.splits = [{ mask := e.x.mask, pc := target e x, check := some e.x.pc }] ∧ u.lanes.length = e.t.lanes.length ∧
      u.s = Vector.replicate 64 0 ∧ u.scratch = {} ∧ ∀ i < e.t.lanes.length,
        let l : Lane := u.lane i
        let payload (n : Nat) : Word := match (e.t.lane i).event with
          | some ev => ev.payload.toList.getD n 0
          | none => 0
        (∀ n < 256, l.v[n]? = some (payload n)) ∧ l.p = 0 ∧ l.slice = {} ∧ l.entity = (e.t.lane i).entity ∧ l.event = (e.t.lane i).event) ∧
  (∀ (team core k : Nat) (s : State) (t : Team) (c : Ctx), s.team? team = some t → s.ctx? t.ctx = some c →
    t.status = .parked → t.gang = none → t.handler.isSome = true → t.wasHeld = false → core / 512 = t.pkg →
    core / 128 = t.dieNo → c.dies.contains t.dieNo = true → s.mayPlace t.ctx t.pkg = true → (s.die t.dieNo).fenced = false →
    s.emptiestCore t.dieNo t.entry t.lanes.length = some k → (∀ x ∈ t.splits, x.wait ≠ .fault) →
    k / 128 = t.dieNo ∧ (∀ j, j / 128 = t.dieNo → s.fitsCore j t.entry t.lanes.length 0 = true →
      (s.coreTeams k).length ≤ (s.coreTeams j).length) ∧
    Leads (.yieldDoneResume team core) s fun s1 => ∃ u, s1.team? team = some u ∧ u.status = .resident ∧
      u.core = k % 512 ∧ u.lanes = t.lanes ∧ u.splits = t.splits)

namespace Sys2Proof.Claims
open Sys2Proof.Machine

/-! ### Timeouts -/

/-- The team's one split `x` stands in a trap handler at `label`: the code in j0, its own PC recorded for the return. -/
def Trapped (s : State) (team : Nat) (x : Split) (label : Pc) (code : Nat) : Prop :=
  ∃ u y m, s.team? team = some u ∧ u.j[0] = BitVec.ofNat 32 code ∧ u.split? x.id = some y ∧ y.pc = label ∧
    y.wait = .ready ∧ y.mask = x.mask ∧ y.trap = some m ∧ m.resume = x.pc

/-- A team of one split outside handlers, with a trap label. -/
def Lone (t : Team) (x : Split) (label : Pc) : Prop :=
  t.splits = [x] ∧ x.trap = none ∧ t.held = [] ∧ t.entry.trap = some label

/-- The barrier timeout in force: the gang's, or the entry's (R235). -/
def patience (s : State) (t : Team) : Nat :=
  2 ^ match t.gang.bind s.gang? with
    | some g => g.log2bar
    | none => t.entry.log2bar

/-! ### Scribes -/

/-- Word `k` of a uniform operand group, and a pair of words. -/
def uword (e : Ex1) (o : Operand) (k : Nat) : Word := readField e.t [] (immPlain 0) e.low o k
def upair (e : Ex1) (o : Operand) (k : Nat) : Nat := (uword e o (k + 1) ++ uword e o k).toNat

/-- Source and destination of each ROUTE (Table 14.3). -/
def routeOf (r : Nat) : Option (Space × Space) :=
  [(.glb, .core), (.core, .glb), (.glb, .glb), (.glb, .die), (.die, .glb), (.core, .die), (.die, .core), (.glb, .clu),
    (.clu, .glb), (.core, .core)][r]?

/-- The address that an operand gives in a space, and the side as the command keeps it. -/
def addrIn (e : Ex1) (sp : Space) (o : Operand) : Nat := if sp = .glb then upair e o 0 else (uword e o 0).toNat
def sideOf (s : State) (e : Ex1) (sp : Space) (a : Nat) : Space × Nat :=
  (sp, if sp = .die then (s.ctxDie e.t.ctx e.t.dieNo).winBase + a else a)

/-- `n` bytes at `a` lie inside the team's space, and so does the address of none (R180); a global side is checked by the
scribe. -/
def Inside (s : State) (e : Ex1) (sp : Space) (a n : Nat) : Prop :=
  match sp with
  | .core => a + max n 1 ≤ e.t.entry.scratch
  | .clu => ∃ g, e.t.gang.bind s.gang? = some g ∧ a + max n 1 ≤ g.poolSize
  | .die => a + max n 1 ≤ (s.ctxDie e.t.ctx e.t.dieNo).winSize
  | _ => True

/-- A pair of registers does not run past the last one. -/
def PairFits (sp : Space) (o : Operand) : Prop := sp = .glb → o ≠ .s 63 ∧ o ≠ .k 255

/-- The parts of a command that every form has. -/
def commandOf (s : State) (e : Ex1) (kind : ScribeKind) (x : ScribeOp) (src dst : Space × Nat) : ScribeCmd :=
  { id := (s.die e.t.dieNo).nextCmd, kind := kind, team := e.t.key, teamId := e.t.id, core := e.t.coreNo, ctx := e.t.ctx
    gang := e.t.gang, pc := e.pc, add := x.add, strict := x.strict, value := x.imm.toNat
    compl := if x.c = .zero then none else some (uword e x.c 0).toNat, src := src, dst := dst }

/-- The completion word is aligned and in the team's scratchpad. -/
def ComplFits (e : Ex1) (x : ScribeOp) : Prop :=
  x.c ≠ .zero → (uword e x.c 0).toNat % 8 = 0 ∧ (uword e x.c 0).toNat + 8 ≤ e.t.entry.scratch

/-- The fork: earlier writes of the core go home, earlier results are in their registers, and the command is the die's
newest; at the limits of R268, and while an access that another split issued before is not performed, the split waits
with reason 10 instead, as it does behind an earlier fence (R269, R363). -/
def Forks (i : Instr) (s : State) (e : Ex1) (c : ScribeCmd) : Prop :=
  exec i s = .next (
    if 256 ≤ (s.die e.t.dieNo).cmds.length ∨ 16 ≤ ((s.die e.t.dieNo).cmds.filter fun m => m.team == e.t.key).length ∨
        EarlierOpen e ∨ e.t.fenced e.x = true then
      s.setTeam (e.t.setSplit { e.x with wait := .order, since := s.tick, again := true })
    else
      let r := s.releaseL1 e.t.coreNo e.t.ctx ⟨[], true⟩
      let d := r.die e.t.dieNo
      (r.setDie { d with cmds := d.cmds ++ [c], nextCmd := d.nextCmd + 1 }).setTeam (e.advance (metered s e).landAll))

/-- Byte fields of a descriptor. -/
def tdField (d : BitVec 256) (at' n : Nat) : Nat := d.toNat / 2 ^ (8 * at') % 2 ^ (8 * n)

/-- The row shape that commands read: bytes of a row, rows, row stride, and whether 16-byte pieces are exchanged. -/
structure RowForm (d : BitVec 256) (rb rows stride : Nat) (swz : Bool) : Prop where
  tensor : tdField d 31 1 = 0
  fmt : tdField d 0 1 ∈ [1, 3, 4, 5, 6]
  bytes : rb = if tdField d 0 1 = 1 then 2 * tdField d 12 4 else if tdField d 0 1 = 5 then 3 * tdField d 12 4 / 4 else tdField d 12 4
  whole : tdField d 0 1 = 5 → tdField d 12 4 % 4 = 0
  rows : rows = tdField d 8 4
  stride : stride = tdField d 16 4
  swizzle : (tdField d 5 1 = 0 ∧ swz = false) ∨ (tdField d 5 1 = 1 ∧ swz = true ∧ rb % 128 = 0)

/-- The memory of a side that no translation guards. -/
def ramOf (s : State) (c : ScribeCmd) (sp : Space) : Ram :=
  match sp with
  | .core => ((s.team? c.team).map Team.scratch).getD {}
  | .clu => ((c.gang.bind s.gang?).map Gang.pool).getD {}
  | _ => (s.die (c.core / 128)).ram

/-- The side exists: the team, or its gang, has not ended. -/
def Present (s : State) (c : ScribeCmd) (sp : Space) : Prop :=
  match sp with
  | .core => c.orphan = none ∧ (s.team? c.team).isSome = true
  | .clu => (c.gang.bind s.gang?).isSome = true
  | .die => True
  | _ => False

/-- A command of the die that a scribe runs and that waits for no page. -/
structure Running (s : State) (die : Nat) (c : ScribeCmd) : Prop where
  found : (s.die die).cmds.find? (fun m => m.id == c.id) = some c
  runs : c.scribe.isSome = true ∧ c.page = none
  alive : (s.die die).fenced = false

/-- The issuing team is there, and some split of it has not executed `yield.done`. -/
def Working (s : State) (team : Nat) (t : Team) : Prop :=
  s.team? team = some t ∧ ∃ y ∈ t.splits, y.record = false ∧ ∀ z, y.block ≠ .yieldDone z

/-- The word at an offset of a team's scratchpad. -/
def scratchWord (t : Team) (off : Nat) : Word := BitVec.ofNat 32 (leNat (t.scratch.cells.read off 4))

/-- An instruction that writes one value, once or to every contributing lane. -/
def WritesValue (i : Instr) (d : Operand) (s : State) (e : Ex1) (w : Word) : Prop :=
  exec i s = .next (s.setTeam (e.advance ((metered s e).applyWrites
    ((execSlots d e.slots).flatMap fun i => destWrites d i [w]))))

end Sys2Proof.Claims

/-- BARRIER_TIMEOUT of the timer that expires first ends the gang's context: no team and no gang of it is left, the next
diagnostic position is used, and its fault queue has the record or says that one was lost (R235, R236). That the clock is then
not below the timer's end is the model's (notes/assumptions/3). -/
def Sys2Proof.Claims.barrierTimeoutEnds : Prop :=
  ∀ (gang b n : Nat) (s : State) (g : Gang) (c : Ctx), s.gang? gang = some g → b < 16 →
    (barrierOf g b).timer = some n →
    (∀ b2 < 16, ∀ n2, (barrierOf g b2).timer = some n2 → n < n2 ∨ (n = n2 ∧ b ≤ b2)) → s.ctx? g.ctx = some c →
    Leads (.barrierTimeout gang b) s fun s1 =>
      s1.cycle g.pkg = max (s.cycle g.pkg) (n + 2 ^ g.log2bar) ∧
      (∀ t ∈ s1.teams, t.ctx ≠ g.ctx) ∧ (∀ h ∈ s1.gangs, h.ctx ≠ g.ctx) ∧
      ∃ c1, s1.ctx? g.ctx = some c1 ∧ c1.ended = .barrierTimeout ∧ c1.diagPos = (c.diagPos + 1) % 64 ∧
        (c1.lost = true ∨ ∃ r ∈ c1.faultQ, r.code = codeBarrierTimeout ∧ r.level = 3 ∧ r.ctx = g.ctx)

/-- WATCHDOG: a `tsync` that another split of the team holds up, an exchange or a regroup that has waited beyond its timeout is
given up, and the waiting split traps; of several splits at a `tsync` the one of lowest entry id does, and the traps of
the others are held (R90, R204, R237). That the clock is then not below the timer's end is the model's (notes/assumptions/3). -/
def Sys2Proof.Claims.watchdogRaises : Prop :=
  (∀ (team n : Nat) (s : State) (t : Team) (x y : Split) (label : Pc), s.team? team = some t → t.status = .resident →
    t.timer = some n → (t.splits.map Split.id).Nodup → t.inHandler = false → t.held = [] → t.entry.trap = some label →
    x ∈ t.splits → x.trap = none → x.block = .tsync → (∀ z ∈ t.splits, z.block = .tsync → x.id ≤ z.id) →
    y ∈ t.splits → y.record = false → y.block ≠ .tsync →
    Leads (.watchdog (.tsync team)) s fun s1 =>
      s1.cycle t.pkg = max (s.cycle t.pkg) (n + patience s t) ∧ Trapped s1 team x label codeWatchdog ∧
      ∃ u, s1.team? team = some u ∧ u.timer = none ∧ u.splits.map Split.id = t.splits.map Split.id ∧
        (∀ z ∈ t.splits, z.block ≠ .tsync → z ∈ u.splits) ∧
        ∀ z ∈ t.splits, z.block = .tsync → z.id ≠ x.id → z.id ∈ u.held ∧
          ∃ w c more, u.split? z.id = some w ∧ w.wait = .trap ∧ w.block = .held c more ∧ c.code = codeWatchdog ∧
            w.pc = z.pc ∧ w.mask = z.mask) ∧
  (∀ (team : Nat) (s : State) (t : Team) (x : Split) (label : Pc) (a : XArrival) (lanes : Mask), s.team? team = some t →
    (s.die t.dieNo).xshuf.find? (fun a => a.team == team) = some a → Lone t x label → x.block = .xshuf lanes →
    Leads (.watchdog (.xshuf team)) s fun s1 =>
      s1.cycle t.pkg = max (s.cycle t.pkg) (a.since + patience s t) ∧ Trapped s1 team x label codeWatchdog ∧
      (∃ u y m, s1.team? team = some u ∧ u.split? x.id = some y ∧ y.trap = some m ∧ m.faulting = lanes) ∧
      (s1.die t.dieNo).xshuf = (s.die t.dieNo).xshuf.filter fun a => a.team != team) ∧
  (∀ (core : Nat) (s : State) (r : Regroup) (a : RegroupArrival) (t : Team) (x : Split) (label : Pc),
    (s.core core).regroups = [r] → r.nmax = none → r.aborted = none → r.arrivals = [a] → a.team ∈ r.participants →
    r.participants.Nodup → r.participants.length ≤ 16 → s.team? a.team = some t → Lone t x label → a.split = x.id →
    x.block = .regroup →
    Leads (.watchdog (.regroup core)) s fun s1 =>
      (s1.core core).regroups = [] ∧ Trapped s1 a.team x label codeWatchdog)

/-- BARRIER_TIMEOUT and WATCHDOG. Both say that the clock has reached the timer's end, which is the model's
(notes/assumptions/3). -/
def Obligations.SyncTimeouts : Prop := Sys2Proof.Claims.barrierTimeoutEnds ∧ Sys2Proof.Claims.watchdogRaises

/-- `cpy`, `fill`, `tile`, `gather` and `scatter` fork a command whose operands are read at once, once the checks of
Table 14.5 are met (R269, R273 to R280). -/
def Obligations.ScribeInstructionsFork : Prop :=
  (∀ (x : ScribeOp) (s : State) (e : Ex1) (route len : Nat) (f g : Space), (Instr.cpy x).wf = true → Issues (.cpy x) s e →
    route < 16 → len < 2 ^ 24 → uword e x.b 0 = BitVec.ofNat 32 (route * 2 ^ 28 + len) → routeOf route = some (f, g) →
    PairFits f x.a → PairFits g x.d → ComplFits e x →
    (len ≠ 0 → Inside s e f (addrIn e f x.a) len) → Inside s e g (addrIn e g x.d) len →
    Forks (.cpy x) s e { commandOf s e .cpy x (sideOf s e f (addrIn e f x.a)) (sideOf s e g (addrIn e g x.d)) with
      len := len }) ∧
  (∀ (x : ScribeOp) (s : State) (e : Ex1) (route len : Nat) (f g : Space), (Instr.fill x).wf = true →
    Issues (.fill x) s e → route < 16 → len < 2 ^ 24 → uword e x.b 0 = BitVec.ofNat 32 (route * 2 ^ 28 + len) →
    routeOf route = some (f, g) → PairFits g x.d → ComplFits e x → Inside s e g (addrIn e g x.d) len →
    Forks (.fill x) s e { commandOf s e .fill x (.core, 0) (sideOf s e g (addrIn e g x.d)) with
      len := len, pattern := readField e.t [] (immPlain x.imm) e.low x.a 0 }) ∧
  (∀ (x : ScribeOp) (s : State) (e : Ex1) (rb rows stride : Nat) (swz : Bool), (Instr.tile x).wf = true →
    Issues (.tile x) s e → RowForm (descriptor s e x.b) rb rows stride swz → ComplFits e x →
    Inside s e .core (uword e x.d 0).toNat (rows * rb) → (swz = true → (uword e x.d 0).toNat % 128 = 0) →
    Forks (.tile x) s e { commandOf s e .tile x (.glb, upair e x.a 0) (.core, (uword e x.d 0).toNat) with
      rb := rb, rows := rows, rstride := stride, swz := swz }) ∧
  (∀ (x : ScribeOp) (s : State) (e : Ex1) (rb rows stride : Nat) (swz : Bool), (Instr.gather x).wf = true →
    Issues (.gather x) s e → RowForm (descriptor s e x.b) rb rows stride swz → ComplFits e x →
    upair e x.a 0 % 4 = 0 → (uword e x.a 2 ≠ 0 → Inside s e .core (uword e x.d 0).toNat ((uword e x.a 2).toNat * rb)) →
    (swz = true → (uword e x.d 0).toNat % 128 = 0) →
    Forks (.gather x) s e { commandOf s e .gather x (.glb, upair e x.a 3) (.core, (uword e x.d 0).toNat) with
      rb := rb, rows := rows, rstride := stride, swz := swz
      list := upair e x.a 0, count := (uword e x.a 2).toNat, table := upair e x.a 3 }) ∧
  (∀ (x : ScribeOp) (s : State) (e : Ex1) (rb rows stride : Nat) (swz : Bool), (Instr.scatter x).wf = true →
    Issues (.scatter x) s e → RowForm (descriptor s e x.b) rb rows stride swz → ComplFits e x →
    upair e x.d 0 % 4 = 0 → (uword e x.d 2 ≠ 0 → Inside s e .core (uword e x.a 0).toNat ((uword e x.d 2).toNat * rb)) →
    (swz = true → (uword e x.a 0).toNat % 128 = 0) →
    Forks (.scatter x) s e { commandOf s e .scatter x (.core, (uword e x.a 0).toNat) (.glb, upair e x.d 3) with
      rb := rb, rows := rows, rstride := stride, swz := swz
      list := upair e x.d 0, count := (uword e x.d 2).toNat, table := upair e x.d 3 })

/-- The scribes of a die: a free one takes the oldest command; elements move bytes and nothing else; a command ends with its
completion write, and `gather` and `scatter` count batches of eight; `scq` reads Table 14.7 (R268, R276, R277, R283, R286).
That the free scribe is the lowest is the model's choice (notes/assumptions/10), and so is what a command reads at issue
(notes/assumptions/21). -/
def Obligations.ScribesRunCommands : Prop :=
  (∀ (die i : Nat) (s : State) (c : ScribeCmd), (s.die die).fenced = false → i < 8 →
    (∀ m ∈ (s.die die).cmds, m.scribe ≠ some i) → (∀ k < i, ∃ m ∈ (s.die die).cmds, m.scribe = some k) →
    (s.die die).cmds.find? (fun m => m.scribe.isNone) = some c →
    let d := s.die die
    exec (.scribeCommandStart die) s =
      .next (s.setDie { d with cmds := setBy ScribeCmd.id { c with scribe := some i } d.cmds })) ∧
  (∀ (s : State) (c : ScribeCmd) (x : Xfer) (f g : Space) (as ds : List Nat), Canonical s → Present s c f →
    Present s c g → x.src = some (f, as) → x.dst = (g, ds) → as.length = ds.length → ds.Nodup →
    (∀ a ∈ as, f = .die → s.dieReplyPoisoned (c.core / 128) a 1 = false) →
    ∃ s1 o, s.runXfers c [x] = (s1, .ok o) ∧ o.fails = [] ∧
      (∀ (j a b : Nat), as[j]? = some a → ds[j]? = some b → (ramOf s1 c g).cells.get b = (ramOf s c f).cells.get a) ∧
      ∀ b, b ∉ ds → (ramOf s1 c g).cells.get b = (ramOf s c g).cells.get b) ∧
  (∀ (c : ScribeCmd), 0 < c.len → (∀ k, 128 * k < c.len →
      (c.kind = .cpy → ∃ x, c.xfers[k]? = some x ∧
        x.src = some (c.src.1, (List.range (min 128 (c.len - 128 * k))).map (c.src.2 + 128 * k + ·)) ∧
        x.dst = (c.dst.1, (List.range (min 128 (c.len - 128 * k))).map (c.dst.2 + 128 * k + ·))) ∧
      (c.kind = .fill → ∃ x, c.xfers[k]? = some x ∧ x.src = none ∧
        x.dst = (c.dst.1, (List.range (min 128 (c.len - 128 * k))).map (c.dst.2 + 128 * k + ·)) ∧
        ∀ j < min 128 (c.len - 128 * k), x.bytes[j]? =
          some (c.pattern.extractLsb' (8 * ((c.dst.2 + 128 * k + j) % 4)) 8)))) ∧
  (∀ (die : Nat) (s : State) (c : ScribeCmd) (s1 : State) (o : XOut) (t : Team), Canonical s → Running s die c →
    c.kind ≠ .gather → c.kind ≠ .scatter → s.runXfers c c.xfers = (s1, .ok o) → o.fails = [] →
    Working s1 c.team t → c.orphan = none →
    Leads (.scribeCommandComplete die c.id) s fun s2 => (∀ m ∈ (s2.die die).cmds, m.id ≠ c.id) ∧
      ∀ off, c.compl = some off → ∃ u, s2.team? c.team = some u ∧
        scratchWord u off = (if c.add then scratchWord t off else 0) + BitVec.ofNat 32 c.value) ∧
  (∀ (die : Nat) (s : State) (c : ScribeCmd) (t : Team), Canonical s → Running s die c → c.kind = .gather ∨ c.kind = .scatter →
    c.count ≤ c.next → Working s c.team t → c.orphan = none → Leads (.scribeCommandComplete die c.id) s fun s2 =>
      (∀ m ∈ (s2.die die).cmds, m.id ≠ c.id) ∧ ∀ off, c.compl = some off → ∃ u, s2.team? c.team = some u ∧
        scratchWord u off = if c.add then scratchWord t off else BitVec.ofNat 32 c.value) ∧
  (∀ (die : Nat) (s : State) (c : ScribeCmd) (s1 s2 : State) (b : Batch) (o : XOut) (t : Team), Canonical s →
    Running s die c → c.kind = .gather ∨ c.kind = .scatter → c.next < c.count →
    let n := min 8 (c.count - c.next)
    s.readBatch c n c.next = (s1, .ok b) → b.fails = [] → b.range = none → b.stop = none →
    s1.runXfers c b.xfers = (s2, .ok o) → o.fails = [] → s2.team? c.team = some t → c.orphan = none → c.counted = c.next →
    Leads (.scribeBatchComplete die c.id) s fun s3 =>
      (∃ m, (s3.die die).cmds.find? (fun m => m.id == c.id) = some m ∧ m.next = c.next + n ∧ m.counted = c.next + n ∧
        m.scribe = c.scribe) ∧
      ∀ off, c.compl = some off → c.add = true → ∃ u, s3.team? c.team = some u ∧
        scratchWord u off = scratchWord t off + BitVec.ofNat 32 (c.value * n)) ∧
  (∀ (x : PlainOp) (s : State) (e : Ex1), (Instr.scq x).wf = true → Issues (.scq x) s e →
    let d := s.die e.t.dieNo
    let mine := (d.cmds.filter fun c => c.team == e.t.key).length
    let n := (readField e.t [] (immPlain x.imm) e.low x.a 0).toNat
    WritesValue (.scq x) x.d s e (
      if n = 0 then BitVec.ofNat 32 mine
      else if n = 1 then BitVec.ofNat 32 (min (16 - mine) (256 - d.cmds.length))
      else if n = 2 then BitVec.ofNat 32 (((d.cmds.filterMap ScribeCmd.scribe).map fun i => 2 ^ i).sum)
      else if n = 3 then BitVec.ofNat 32 e.t.scribeFaults
      else 0))

namespace Sys2Proof.Claims
open Sys2Proof.Machine

/-! ### Events -/

/-- One lane after another, in slot order, each in the state that the lanes before it left; none where one is not
accepted. -/
def eachLane (f : State → Team → Nat → Option (State × Team)) : List Nat → State → Team → Option (State × Team)
  | [], s, t => some (s, t)
  | i :: is, s, t => match f s t i with
    | some (s, t) => eachLane f is s t
    | none => none

/-- An instruction that acts lane by lane: when every lane is accepted the split goes on; at the first lane that is not
it waits with reason 10, to go on from there (R314, R395). -/
def ActsByLane (i : Instr) (s s0 : State) (e : Ex1) (f : State → Team → Nat → Option (State × Team)) : Prop :=
  (∀ s1 t1, eachLane f e.slots s0 e.t = some (s1, t1) →
    exec i s = .next (s1.setTeam (e.advance (s1.charge t1 4 (passes e.x.mask))))) ∧
  ∀ s1 t1 done k rest, e.slots = done ++ k :: rest → eachLane f done s0 e.t = some (s1, t1) → f s1 t1 k = none →
    ∃ j2 start h, exec i s = .next (s1.setTeam (t1.setSplit { e.x with
      wait := .order, since := s1.tick, again := true, accepted := k, block := .stalled j2 start e.mask h }))

/-- No lane of the instruction has acted yet, and it has not stalled. -/
def Unbegun (e : Ex1) : Prop := e.x.accepted = 0 ∧ ∀ j2 start lanes h, e.x.block ≠ .stalled j2 start lanes h

/-- What an element of `n` bytes adds to the packet of its slot, which holds `size` bytes with it: lines of a link between
dies, or flits of the Rinkway; nothing within its own die (R338, R377, Table 17.4; which element pays for a line or flit that several
share is the model's choice, notes/assumptions/38). -/
def addedUnits (here dst size n : Nat) : Nat × Nat :=
  let added (f : Nat → Nat) : Nat := if size ≤ n then f size else f size - f (size - n)
  if dst = here then (8, 0) else if dst / 4 = here / 4 then (8, added fun b => (b + 127) / 128)
  else (9, added packetFlits)

/-- An element enters a slot towards its destination, and is charged for its way (R338, R391). -/
def entering (s : State) (t : Team) (dst : Nat) (el : Element) : Option (State × Team) :=
  (s.enterElement t.dieNo t.ctx dst el).map fun s1 =>
    let size := (((s1.die t.dieNo).blotters.find? fun b => b.ctx == t.ctx && b.dst == dst).map BlotterSlot.size).getD 0
    let units := addedUnits t.dieNo dst size el.size
    (s1, s.charge t units.1 units.2)

/-- The words of the operands of a lane of an event instruction. -/
def evWord (t : Team) (x : PlainOp) (i : Nat) (o : Operand) (k : Nat) : Word := readField t [] (immPlain x.imm) i o k
def evTime (t : Team) (x : PlainOp) (i : Nat) : DWord := evWord t x i x.a 1 ++ evWord t x i x.a 0
def evHandler (t : Team) (x : PlainOp) (i : Nat) : BitVec 12 := (evWord t x i x.d 0).extractLsb' 0 12

/-- The record of a lane (R317, Tables 16.1, 16.2). -/
def evRecord (t : Team) (x : PlainOp) (i : Nat) (time : DWord) (short : Bool) : EvRec :=
  let ctl := evWord t x i x.d 0
  { time := time, entity := evWord t x i x.b 0, handler := evHandler t x i, cls := ctl.extractLsb' 12 2, short := short
    gated := false, tie := ctl.extractLsb' 16 16
    payload := #v[evWord t x i x.c 0, evWord t x i x.c 1, evWord t x i x.c 2, evWord t x i x.c 3] }

/-- Where a record goes (R296). -/
def evHome (c : Ctx) (t : Team) (x : PlainOp) (i : Nat) : Nat :=
  c.home (c.handlerFields (evHandler t x i)) (evWord t x i x.b 0) t.dieNo

/-- Times and SHORT of R304. -/
def shortTime (event : Bool) (now : DWord) (own look : Word) (h asked : DWord) (target : Word) : DWord × Bool :=
  if event = true then
    if asked < now then (now, true)
    else (asked, decide (target ≠ 0 ∧ target ≠ own ∧ asked.toNat < min (2 ^ 64 - 1) (now.toNat + look.toNat)))
  else (asked, decide (asked < h))

/-- `post` of one lane (R304, R317). -/
def postOne (e : Ex1) (c : Ctx) (rel : Bool) (x : PlainOp) (s : State) (t : Team) (i : Nat) : Option (State × Team) :=
  let l := t.lane i
  let asked : DWord := if rel then BitVec.ofNat 64 (min (2 ^ 64 - 1) (l.time.toNat + (evTime t x i).toNat)) else evTime t x i
  let d := s.ctxDie t.ctx t.dieNo
  let r := shortTime t.handler.isSome l.time l.entity c.control.lookahead d.h asked (evWord t x i x.b 0)
  let core := s.core t.coreNo
  let s1 := s.setCore { core with seq := core.seq + 1 }
  let p : PRec := { ev := evRecord t x i r.1 r.2, poster := t.coreNo, seq := core.seq }
  if evHome c t x i = t.dieNo then
    if d.share + c.control.deepLim * 65536 < d.held + 65536 then none else some (s1.insertRecord t.ctx t.dieNo p, t)
  else
    entering s1 t (evHome c t x i)
      { kind := .post, rec' := some p, team := t.key, core := t.coreNo, lane := i, pc := e.pc, issued := e.x.issuedAt }

/-- `cancel` of one lane (R313). -/
def cancelOne (e : Ex1) (c : Ctx) (res : BitVec 8) (x : PlainOp) (s : State) (t : Team) (i : Nat) : Option (State × Team) :=
  let p := evRecord t x i (evTime t x i) false
  let hit (r : PRec) : Bool := r.ev.handler == p.handler && r.ev.entity == p.entity && r.ev.time == p.time && r.ev.tie == p.tie
  if evHome c t x i = t.dieNo then
    let d := s.ctxDie t.ctx t.dieNo
    let n := (d.pending.filter hit).length + (d.bins.map fun b => (b.recs.filter hit).length).sum
    let d1 : CtxDie := { d with
      pending := d.pending.filter fun r => !hit r
      bins := (d.bins.map fun b => { b with recs := b.recs.filter fun r => !hit r }).filter fun b => !b.recs.isEmpty }
    some (s.setCtxDie (d1.settleLevels (s.controlOf t.ctx)), t.regWrite i (.v res) 0 (BitVec.ofNat 32 n))
  else
    (entering s t (evHome c t x i)
      { kind := .cancel, rec' := some { ev := p, poster := t.coreNo, seq := 0 }, team := t.key, core := t.coreNo
        lane := i, pc := e.pc, issued := e.x.issuedAt }).map fun (s, t) => (s, t.regWrite i (.v res) 0 0xFFFFFFFF)

/-- `gate` of one lane: the lowest free slot is armed (R318). -/
def gateOne (res : BitVec 8) (x : PlainOp) (s : State) (t : Team) (i : Nat) : Option (State × Team) :=
  let d := s.die t.dieNo
  ((List.range (min 65536 (d.gates.length + 1))).find? fun k => d.gates.all fun g => g.slot != k).map fun k =>
    let core := s.core t.coreNo
    let g : Gate := { slot := k, record := evRecord t x i (evTime t x i) false, poster := t.coreNo, seq := core.seq
                      count := 0, published := false, ctx := t.ctx }
    ((s.setCore { core with seq := core.seq + 1 }).setDie { d with gates := d.gates ++ [g] },
      t.regWrite i (.v res) 0 (BitVec.ofNat 32 (t.dieNo / 4 * 2 ^ 18 + t.dieNo % 4 * 2 ^ 16 + k)))

/-- `signal` of one lane: at a gate of this die, or as an element; a dropped one is recorded (R311, R319). -/
def signalOne (e : Ex1) (c : Ctx) (x : PlainOp) (s : State) (t : Team) (i : Nat) : Option (State × Team) :=
  let h := evWord t x i x.a 0
  let die := h.toNat / 2 ^ 18 % 512 * 4 + h.toNat / 2 ^ 16 % 4
  if h.toNat < 2 ^ 27 ∧ c.places.any (fun p => p.1 == die / 4) ∧ die ≠ t.dieNo ∧ c.dies.contains die then
    entering s t die { kind := .signal, addr := h.toNat, scope := (evWord t x i x.b 0).toNat, team := t.key
                       core := t.coreNo, lane := i, pc := e.pc, issued := e.x.issuedAt }
  else some (s.gateAct ⟨t.ctx, t.core, t.pkg, t.id, e.pc, BitVec.ofNat 32 i⟩ h none, t)

/-- Every lane's handler has a valid entry. -/
def HandlersValid (s : State) (e : Ex1) (c : Ctx) (x : PlainOp) : Prop :=
  s.ctx? e.t.ctx = some c ∧ Unbegun e ∧ ∀ i ∈ e.slots, (c.handler? (evHandler e.t x i)).isSome = true

/-- The L1 action of a release that covers bound bytes too. -/
def releasedAll (s : State) (t : Team) : State := s.releaseL1 t.coreNo t.ctx ⟨[], true⟩

/-- The release of a signal or publish: at some lane's scopes it acts on the L1 (R312). -/
def releasedFor (s : State) (e : Ex1) (scopes : Nat → List Nat) : State :=
  if e.slots.any fun i => (scopes i).any fun sc => decide (2 ≤ sc) then releasedAll s e.t else s

/-- A field of an image. -/
def img (bs : List Byte) (off n : Nat) : Nat := leNat ((bs.drop off).take n)
def Label (x : Nat) : Prop := x / 2 ^ 57 % 64 = 0
def labelFrom (x : Nat) : Option Pc := if 2 ^ 63 ≤ x % 2 ^ 64 then some (BitVec.ofNat 57 x) else none

/-- A valid handler entry within the ranges of Table 16.3. -/
structure HandlerImage (bs : List Byte) : Prop where
  pcs : img bs 0 8 < 2 ^ 57 ∧ Label (img bs 8 8) ∧ Label (img bs 16 8)
  const : img bs 24 8 < 2 ^ 57 ∧ img bs 24 8 % 4 = 0 ∧ img bs 32 2 ≤ 256
  size : 1 ≤ img bs 34 2 ∧ img bs 34 2 ≤ 256 ∧ 1 ≤ img bs 36 2 ∧ img bs 36 2 ≤ 1024 ∧ 1 ≤ img bs 38 2 ∧
    img bs 38 2 ≤ img bs 36 2 ∧ 1 ≤ img bs 40 2
  spill : img bs 44 2 ≤ 4096 ∧ img bs 46 1 ≤ 1
  place : img bs 47 1 ≤ 31 ∧ img bs 48 1 ≤ 31 ∧ img bs 49 1 ≤ 3 ∧ img bs 50 1 ≤ 31 ∧ img bs 52 2 ≤ 511
  bar : 12 ≤ img bs 51 1 ∧ img bs 51 1 ≤ 30
  slice : img bs 54 2 = 0 ∨ (128 ≤ img bs 54 2 ∧ img bs 54 2 ≤ 65520 ∧ img bs 54 2 % 16 = 0)
  scratch : img bs 56 4 % 1024 = 0 ∧ img bs 56 4 ≤ 1048576
  flags : img bs 60 1 = 1 ∧ img bs 61 3 = 0

def entryOf (bs : List Byte) : Entry :=
  { pc := BitVec.ofNat 57 (img bs 0 8), trap := labelFrom (img bs 8 8), preempt := labelFrom (img bs 16 8)
    const := img bs 24 8, constw := img bs 32 2, vregs := img bs 34 2, lanes := img bs 36 2, coalesce := img bs 38 2
    binTimer := img bs 40 2, energy := img bs 42 2, splitspill := img bs 44 2, planes := img bs 46 1, place := img bs 47 1
    dshift := img bs 48 1, dmask := img bs 49 1, pshift := img bs 50 1, pmask := img bs 52 2, log2bar := img bs 51 1
    slice := img bs 54 2, scratch := img bs 56 4 }

/-- One half of a route image: not valid, or within the ranges of Table 21.8. -/
def RouteImage (c : Ctx) (b : List Byte) : Prop :=
  img b 30 1 = 0 ∨ (img b 30 1 = 1 ∧ img b 0 8 < 2 ^ 57 ∧ img b 0 8 % 128 = 0 ∧ img b 8 8 < 2 ^ 57 ∧ img b 8 8 % 16 = 0 ∧
    img b 16 8 < 2 ^ 57 ∧ img b 16 8 % 4 = 0 ∧ img b 24 2 ≠ 0 ∧ 16 ≤ img b 26 2 ∧ img b 26 2 ≤ 8192 ∧ img b 26 2 % 16 = 0 ∧
    (∃ p ∈ c.places, p.1 = img b 28 2) ∧ img b 31 1 = 0)

/-- `hset` and its like: the split waits with reason 10, behind the instruction, for every die. -/
def AwaitsDies (s : State) (e : Ex1) : Prop :=
  SplitIs s e.t.key e.x.id fun y => y.pc = pcNext e.pc ∧ y.wait = .order ∧ y.block = .acks

/-- A record that a gate posts: GATED, and not before H less the lookahead (R310). -/
def gated (c : Ctx) (h : DWord) (g : Gate) : PRec :=
  let t0 := h.toNat - c.control.lookahead.toNat
  { ev := if g.record.time.toNat < t0 then { g.record with gated := true, time := BitVec.ofNat 64 t0, short := true }
      else { g.record with gated := true }
    poster := g.poster, seq := g.seq }

end Sys2Proof.Claims

/-- `post`, `cancel` and `gate` act lane by lane (R304, R313, R317, R318); a lane without a valid handler stops all of them
before any lane acts (R317). Model's choices: the lowest free slot (notes/assumptions/10), the sequence number of a refused
post (19), what an element is charged (38). -/
def Obligations.EventInstructions : Prop :=
  (∀ (rel : Bool) (x : PlainOp) (s : State) (e : Ex1) (c : Ctx), (Instr.post rel x).wf = true → Issues (.post rel x) s e →
    HandlersValid s e c x → ActsByLane (.post rel x) s s e (postOne e c rel x)) ∧
  (∀ (res : BitVec 8) (x : PlainOp) (s : State) (e : Ex1) (c : Ctx), (Instr.cancel res x).wf = true →
    Issues (.cancel res x) s e → HandlersValid s e c x → ActsByLane (.cancel res x) s s e (cancelOne e c res x)) ∧
  (∀ (res : BitVec 8) (x : PlainOp) (s : State) (e : Ex1) (c : Ctx), (Instr.gate res x).wf = true →
    Issues (.gate res x) s e → HandlersValid s e c x → ActsByLane (.gate res x) s s e (gateOne res x)) ∧
  (∀ (i : Instr) (rel : Bool) (res : BitVec 8) (x : PlainOp) (s : State) (e : Ex1) (c : Ctx) (k : Nat),
    i ∈ [.post rel x, .cancel res x, .gate res x] → i.wf = true → Issues i s e → s.ctx? e.t.ctx = some c →
    Unbegun e → (e.slots.find? fun i => (c.handler? (evHandler e.t x i)).isNone) = some k →
    let w := evWord e.t x k x.d 0
    exec i s = .next (s.raise e.t e.x (e.cause codeBounds w k e.mask w.toNat)))

/-- `signal` and `publish` check every lane, release, and act at their gates; a gate that is due posts its record and is
free; a die without room holds it back (R310 to R312, R314, R319). Model's choices: what an element is charged
(notes/assumptions/38), the team of a gate's post (19). -/
def Obligations.GatesCountAndFire : Prop :=
  (∀ (x : PlainOp) (s : State) (e : Ex1) (c : Ctx), (Instr.signal x).wf = true → Issues (.signal x) s e →
    s.ctx? e.t.ctx = some c → Unbegun e → AllPerformed s e →
    (∀ i ∈ e.slots, (evWord e.t x i x.b 0).toNat ≤ 31) →
    ActsByLane (.signal x) s (releasedFor s e fun i => s.gateScopes e.t (evWord e.t x i x.a 0) [(evWord e.t x i x.b 0).toNat])
      e (signalOne e c x)) ∧
  (∀ (x : PlainOp) (s : State) (e : Ex1) (k : Nat), (Instr.signal x).wf = true → Issues (.signal x) s e →
    Unbegun e → (e.slots.find? fun i => decide (31 < (evWord e.t x i x.b 0).toNat)) = some k →
    let w := evWord e.t x k x.b 0
    exec (.signal x) s = .next (s.raise e.t e.x (e.cause codeBounds w k e.mask w.toNat))) ∧
  (∀ (x : PlainOp) (s : State) (e : Ex1), (Instr.publish x).wf = true → Issues (.publish x) s e → AllPerformed s e →
    (∀ i ∈ e.slots, (evWord e.t x i x.b 0).toNat < 2 ^ 31 ∧ (evWord e.t x i x.a 0).toNat / 2 ^ 18 % 512 = e.t.pkg) →
    let r := e.slots.foldl (fun (s : State) i =>
        s.gateAct ⟨e.t.ctx, e.t.core, e.t.pkg, e.t.id, e.pc, BitVec.ofNat 32 i⟩ (evWord e.t x i x.a 0)
          (some (evWord e.t x i x.b 0).toNat))
      (releasedFor s e fun i => s.gateScopes e.t (evWord e.t x i x.a 0) [])
    exec (.publish x) s = .next (r.setTeam (e.advance (metered r e)))) ∧
  (∀ (s : State) (src : GateSource) (c : Ctx) (g : Gate) (handle : Word), handle.toNat < 2 ^ 27 →
    let die := handle.toNat / 2 ^ 18 * 4 + handle.toNat / 2 ^ 16 % 4
    s.ctx? src.ctx = some c → (∃ p ∈ c.places, p.1 = die / 4) → g.ctx = src.ctx → g.slot = handle.toNat % 2 ^ 16 →
    getBy Gate.slot g.slot (s.die die).gates = some g →
    (g.published = false ∨ 1 < g.count → s.gateAct src handle none = s.setDie { s.die die with
      gates := setBy Gate.slot { g with count := max (-(2 ^ 31)) (min (2 ^ 31 - 1) (g.count - 1)) } (s.die die).gates }) ∧
    (∀ n : Nat, g.published = false → 0 < g.count + n → s.gateAct src handle (some n) = s.setDie { s.die die with
      gates := setBy Gate.slot { g with count := max (-(2 ^ 31)) (min (2 ^ 31 - 1) (g.count + n)), published := true }
        (s.die die).gates })) ∧
  (∀ (die slot : Nat) (s : State) (g : Gate) (c : Ctx), getBy Gate.slot slot (s.die die).gates = some g →
    s.ctx? g.ctx = some c → g.published = true → g.count ≤ 0 →
    c.home (c.handlerFields g.record.handler) g.record.entity die = die →
    let d := s.ctxDie g.ctx die
    if d.share + c.control.deepLim * 65536 < d.held + 65536 then exec (.gateFire die slot) s = .next s
    else Leads (.gateFire die slot) s fun s1 =>
      (s1.die die).gates = (s.die die).gates.filter (fun h => h.slot != slot) ∧
      (s1.ctxDie g.ctx die).held = d.held + 1 ∧
      (∃ p ∈ (s1.ctxDie g.ctx die).pending, p.ev = (gated c d.h g).ev ∧ p.poster = g.poster ∧ p.seq = g.seq) ∧
      let Open (r : QRec) : Prop :=
        r.rec'.wgate = some (BitVec.ofNat 32 (die / 4 * 2 ^ 18 + die % 4 * 2 ^ 16 + slot)) → r.waits = false
      (∀ cp ∈ s1.ctxPkgs, cp.ctx = g.ctx → ∀ q ∈ cp.queues, ∀ r ∈ q.2, Open r) ∧
      ∀ t ∈ s1.teams, t.ctx = g.ctx → ∀ y ∈ t.splits, ∀ r q, y.block = .launching r q → Open r) ∧
  (∀ (team split start : Nat) (s : State) (t : Team) (x : Split) (label : Pc) (j2 : Word) (lanes : Mask) (h : DWord),
    s.team? team = some t → Lone t x label → x.id = split → x.block = .stalled j2 (some start) lanes h →
    Leads (.eventOverflow team split) s fun s1 => s1.cycle t.pkg = max (s.cycle t.pkg) (start + 2 ^ 20) ∧
      ∃ u y m, s1.team? team = some u ∧ u.j = #v[BitVec.ofNat 32 codeEventOverflow, x.pc.setWidth 32, j2,
        BitVec.ofNat 32 x.accepted] ∧ u.split? split = some y ∧ y.pc = label ∧ y.trap = some m ∧ m.resume = pcNext x.pc)

/-- `hset` writes a handler entry, the control block or two route entries, when their fields are in range, and waits for
every die; the last acknowledgement lets the split go on. `hznq` reads Table 16.13 (R295, R320, R321). That an image with
VALID clear is not checked further is the model's choice (notes/assumptions/19). -/
def Obligations.HandlersAndControlAreSet : Prop :=
  (∀ (x : PlainOp) (s s2 : State) (e : Ex1) (t : Team) (bs : List Byte) (c : Ctx), (Instr.hset x).wf = true →
    Issues (.hset x) s e → s2.ctx? e.t.ctx = some c → AllPerformed s2 { e with t := t } →
    let a := (readField e.t [] (immPlain x.imm) e.low x.a 0).toNat
    ReadsBytes s e (readField e.t [] (immPlain x.imm) e.low x.b 0).toNat 64 s2 t bs → bs.length = 64 →
    (a < 4096 → HandlerImage bs → Leads (.hset x) s fun s3 => AwaitsDies s3 e ∧ ∃ c1, s3.ctx? e.t.ctx = some c1 ∧
      c1.handler? (BitVec.ofNat 12 a) = some (entryOf bs) ∧
      (∀ h, h ≠ BitVec.ofNat 12 a → c1.handler? h = c.handler? h) ∧ c1.control = c.control ∧ c1.routes = c.routes ∧
      ∀ d ∈ s3.ctxDies, d.ctx = e.t.ctx → BitVec.ofNat 12 a ∉ d.frozen) ∧
    (a < 4096 → img bs 60 1 = 0 → Leads (.hset x) s fun s3 => AwaitsDies s3 e ∧ ∃ c1, s3.ctx? e.t.ctx = some c1 ∧
      c1.handler? (BitVec.ofNat 12 a) = none ∧ c1.handlerFields (BitVec.ofNat 12 a) = entryOf bs) ∧
    (a = 4096 → img bs 12 1 ≤ 40 → img bs 13 1 ≤ 1 → img bs 16 48 = 0 → Leads (.hset x) s fun s3 => AwaitsDies s3 e ∧
      ∃ c1, s3.ctx? e.t.ctx = some c1 ∧ c1.handlers = c.handlers ∧ c1.control =
        { stop := BitVec.ofNat 64 (img bs 0 8), lookahead := BitVec.ofNat 32 (max 1 (img bs 8 4)), calw := img bs 12 1
          hold := img bs 13 1 == 1, deepLim := img bs 14 2, written := true }) ∧
    (4352 ≤ a → a ≤ 4479 → RouteImage c (bs.take 32) → RouteImage c (bs.drop 32) → Leads (.hset x) s fun s3 =>
      AwaitsDies s3 e ∧ ∃ c1, s3.ctx? e.t.ctx = some c1 ∧ c1.handlers = c.handlers ∧ c1.control = c.control ∧
        getBy RouteEntry.index (2 * (a - 4352)) c1.routes =
          (if img bs 30 1 = 1 then some ⟨2 * (a - 4352), bs.take 32⟩ else none) ∧
        getBy RouteEntry.index (2 * (a - 4352) + 1) c1.routes =
          (if img bs 62 1 = 1 then some ⟨2 * (a - 4352) + 1, bs.drop 32⟩ else none))) ∧
  (∀ (x : PlainOp) (s : State) (e : Ex1), (Instr.hset x).wf = true → Issues (.hset x) s e →
    let a := (readField e.t [] (immPlain x.imm) e.low x.a 0).toNat
    (4479 < a ∨ (4096 < a ∧ a < 4352)) →
      exec (.hset x) s = .next (s.raise e.t e.x (e.cause codeBounds (BitVec.ofNat 32 a) e.low e.mask a))) ∧
  (∀ (team split : Nat) (s : State) (t : Team) (x : Split), s.team? team = some t → t.split? split = some x →
    x.block = .acks →
    exec (.dieAcknowledge team split) s = .next (s.setTeam (t.setSplit { x with wait := .ready, block := .none }))) ∧
  (∀ (x : PlainOp) (s : State) (e : Ex1) (c : Ctx), (Instr.hznq x).wf = true → Issues (.hznq x) s e →
    s.ctx? e.t.ctx = some c →
    let n := (readField e.t [] (immPlain x.imm) e.low x.a 0).toNat
    let d := s.ctxDie e.t.ctx e.t.dieNo
    let least : DWord := match s.localTimes e.t.ctx e.t.dieNo with
      | [] => 0xFFFFFFFFFFFFFFFF
      | t :: ts => BitVec.ofNat 64 (ts.foldl min t)
    WritesValue (.hznq x) x.d s e ([d.h.extractLsb' 0 32, d.h.extractLsb' 32 32, least.extractLsb' 0 32,
      least.extractLsb' 32 32, c.control.stop.extractLsb' 0 32, c.control.stop.extractLsb' 32 32, c.control.lookahead,
      c.short.extractLsb' 0 32, c.short.extractLsb' 32 32, BitVec.ofNat 32 (min d.held (2 ^ 32 - 1)),
      BitVec.ofNat 32 (65536 - (s.die e.t.dieNo).gates.length)].getD n 0))

namespace Sys2Proof.Claims
open Sys2Proof.Machine

/-! ### Ordering and launches -/

/-- The line has been reached through the context. -/
def ReachedBy (ctx : Nat) (ln : L1Line) : Prop := ∃ m ∈ ln.maps, m.1 = ctx

/-- No core holds a byte of the context in [base, base + len), by whatever mapping it was reached. -/
def NotHeld (s : State) (ctx base len : Nat) : Prop :=
  ∀ core, ∀ ln ∈ (s.core core).l1, ∀ m ∈ ln.maps, m.1 = ctx → ∀ o < 128, base ≤ m.2 * 128 + o → m.2 * 128 + o < base + len →
    ln.dirty.getLsbD o = false ∧ ln.valid.getLsbD (o / 32) = false

/-- The gate of a handle is attached to a launch. -/
def GateAttached (s : State) (h : Word) : Prop :=
  ∃ g, getBy Gate.slot (h.toNat % 2 ^ 16) (s.die (h.toNat / 2 ^ 18 % 512 * 4 + h.toNat / 2 ^ 16 % 4)).gates = some g ∧
    g.attached = true

def queueOf (s : State) (ctx pkg q : Nat) : List QRec := ((getBy Prod.fst q (s.ctxPkg ctx pkg).queues).map Prod.snd).getD []

/-- A launch record at the end of its queue, where that has room; else the split waits with reason 10, and keeps it. -/
def Enqueues (i : Instr) (s s2 : State) (e : Ex1) (r : QRec) (q : Nat) : Prop :=
  let n := r.rec'.prio * 4 + q
  ((queueOf s2 e.t.ctx e.t.pkg n).length < 64 → Leads i s fun s3 =>
    queueOf s3 e.t.ctx e.t.pkg n = queueOf s2 e.t.ctx e.t.pkg n ++ [r] ∧
    (∀ k, k ≠ n → queueOf s3 e.t.ctx e.t.pkg k = queueOf s2 e.t.ctx e.t.pkg k) ∧
    SplitIs s3 e.t.key e.x.id fun y => y.pc = pcNext e.pc ∧ y.wait = .ready) ∧
  (64 ≤ (queueOf s2 e.t.ctx e.t.pkg n).length → Leads i s fun s3 =>
    queueOf s3 e.t.ctx e.t.pkg n = queueOf s2 e.t.ctx e.t.pkg n ∧
    SplitIs s3 e.t.key e.x.id fun y => y.pc = e.x.pc ∧ y.wait = .order ∧ y.block = .launching r q)

/-! ### Remote memory -/

/-- The accesses of an instruction that sends elements find their places in global memory: every page is translated, no
earlier access holds anything back, and no element has gone yet. -/
structure Located (x : MemOp) (s : State) (e : Ex1) (s1 : State) (accs : List Acc) : Prop where
  translated : Translated s e x.space { bytes := x.width.bytes, kind := .write, aligned := true, element := true }
    ((accessAddrs x true e).map Prod.snd)
  located : s.locateAll e.t x.space { bytes := x.width.bytes, kind := .write, aligned := true, element := true }
    (accessAddrs x true e) = (s1, accs.map fun a => (a.slot, a.addr, .ok a.loc))
  glb : ∀ a ∈ accs, ∃ ps, a.loc = .glb ps
  fresh : FirstIssue e ∧ Unbegun e ∧ e.x.src = []
  free : NothingEarlier e
  once : (e.t.splits.map Split.id).Nodup

def paOf (a : Acc) : Nat := match a.loc with
  | .glb ((_, pa, _) :: _) => pa
  | _ => 0

/-- The element of one lane: the aligned unit, its byte enables, its data (R390, R400). -/
def elementOf (e : Ex1) (kind : ElemKind) (op : AOp) (ty : AType) (x : MemOp) (a : Acc) (bs : List Byte) : Element :=
  let unit := if x.width = .b64 then 8 else 4
  let off := paOf a % unit
  { kind := kind, addr := paOf a - off, va := a.addr, w64 := x.width == .b64
    be := BitVec.ofNat 8 ((2 ^ x.width.bytes - 1) * 2 ^ off), op := op, ty := ty
    data := BitVec.ofNat 64 (leNat bs * 2 ^ (8 * off)), team := e.t.key, core := e.t.coreNo, lane := a.slot, pc := e.pc
    issued := e.x.issuedAt }

/-- The core's own bytes go home, and the element enters a slot towards its home die (R391, R405). -/
def sendOne (e : Ex1) (kind : ElemKind) (op : AOp) (ty : AType) (x : MemOp) (p : Pops) (accs : List Acc) (s : State) (t : Team)
    (i : Nat) : Option (State × Team) :=
  match accs.find? fun a => a.slot == i with
  | none => some (s, t)
  | some a => entering (s.l1Flush t.coreNo (paOf a) x.width.bytes) t (paOf a / 2 ^ 37)
      (elementOf e kind op ty x a (groupBytes x e.t p.c x.c i))

def SendsElements (i : Instr) (kind : ElemKind) (op : AOp) (ty : AType) (x : MemOp) : Prop :=
  ∀ (s : State) (e : Ex1) (s1 : State) (accs : List Acc) (e' : Ex1) (p : Pops) (s2 : State), i.wf = true → Issues i s e →
    Located x s e s1 accs →
    let rel := x.order == .sync
    NothingOpen rel x e accs s1 → Delivers e.slots i x.ops e (released rel x e accs s1) e' p s2 →
    ∀ s3 t3, eachLane (sendOne e' kind op ty x p accs) (accs.map Acc.slot) s2 e'.t = some (s3, t3) →
      exec i s = .next (s3.setTeam (e'.advance (s3.charge t3 4 (passes e'.x.mask))))

/-- The operands of several lanes in one: the last of `exch`, else their combination in slot order (R401). -/
def joined (op : AOp) (ty : AType) (n : Nat) : List Nat → Option Nat
  | [] => none
  | c :: cs => some (cs.foldl (fun a b => (combine op ty (8 * n) (BitVec.ofNat (8 * n) a) (BitVec.ofNat (8 * n) b)).toNat) c)

/-- The word after the lanes of these operands. -/
def wordAfter (op : AOp) (ty : AType) (n old : Nat) (l : List Nat) : Nat :=
  match joined op ty n l with
  | some v => (combine op ty (8 * n) (BitVec.ofNat (8 * n) old) (BitVec.ofNat (8 * n) v)).toNat
  | none => old

/-- `ratom`: each lane gets the word with the operands of the lanes below it, and the home keeps the word after all. -/
def combineAll (op : AOp) (ty : AType) (n : Nat) (data : Nat → Nat) (g : List Acc) (old : Nat) : List (Nat × Nat) × Nat × Bool :=
  (g.map fun a => (a.slot, wordAfter op ty n old ((g.filter fun b => decide (b.slot < a.slot)).map fun b => data b.slot)),
    wordAfter op ty n old (g.map fun b => data b.slot), false)

/-- `rcas`: the lanes compare and swap in slot order, each seeing what the lanes before it left. -/
def swapAll (cmp new : Nat → Nat) : List Acc → Nat → List (Nat × Nat) × Nat × Bool
  | [], old => ([], old, false)
  | a :: as, old =>
    let (l, last, failed) := swapAll cmp new as (if old = cmp a.slot then new a.slot else old)
    ((a.slot, old) :: l, last, failed || old != cmp a.slot)

/-- Lanes of one address are one request, performed at the home where the lowest of them stands: what each lane reads, and
whether a lane failed. Where the word is poisoned nothing is written, and every lane of it reads poison (R401, R402, R404). -/
def requestAll (n : Nat) (f : List Acc → Nat → List (Nat × Nat) × Nat × Bool) (all : List Acc) :
    List Acc → State → Team → State × Team × Got × Bool
  | [], s, t => (s, t, [], false)
  | a :: as, s, t =>
    let g := all.filter fun b => b.addr == a.addr
    if (g.head?).map Acc.slot ≠ some a.slot then requestAll n f all as s t
    else
      let (s, bs, bad) := s.homeReadLoc t n a.loc
      let (words, new, failed) := if bad then (g.map fun b => (b.slot, 0), 0, false) else f g (leNat bs)
      let (s, t) := if bad then (s, t) else s.homeWriteLoc t (leBytes n new) a.loc
      let (s, t, l, q) := requestAll n f all as s t
      (s, t, (g.zip words).map (fun (b, v) => (b, leBytes n v.2, bad)) ++ l, failed || q)

/-- One pass of requests within the package. Lanes that a request of an earlier pass served make none, but their lines count for
the pass (R399). -/
def requestPass (x : MemOp) (e : Ex1) (f : List Acc → Nat → List (Nat × Nat) × Nat × Bool) (all : List Acc)
    (q : Passed × List Nat) (accs : List Acc) : Passed × List Nat :=
  let n := x.width.bytes
  let o := q.1
  let lines := entryLines o.s o.t { home := true } x accs
  let mine := accs.filter fun a => !q.2.contains a.slot
  let c := o.s.chargePass o.t { home := true } mine
  let r := requestAll n f all mine c.1 c.2
  let v := r.1.flitsArrived (mine.flatMap fun a => a.loc.flits c.1 c.2 true n)
  (o.then v (inFlight r.2.1 e x.head .miss (loadWrites x r.2.2.1) lines) c r.2.2.1 r.2.2.2,
    q.2 ++ r.2.2.1.map fun g => g.1.slot)

/-- The elements of the team that entered earlier, to the home of an access, have been acknowledged (R405). -/
def ElementsDone (s : State) (e : Ex1) (accs : List Acc) : Prop :=
  ∀ q ∈ s.outstanding e.t.key e.t.dieNo, q.1.byLane = true → q.1.issued < e.x.issuedAt → ∀ a ∈ accs, q.2 ≠ paOf a / 2 ^ 37

/-- Every home lies on the team's package. -/
def Near (e : Ex1) (accs : List Acc) : Prop := ∀ a ∈ accs, (∃ ps, a.loc = .glb ps) ∧ paOf a / 2 ^ 39 = e.t.pkg

/-- Requests to homes of the team's package: its earlier elements to those homes are performed before them, and their results come
in flight (R404, R405). -/
def RequestResult (i : Instr) (x : MemOp) (indexed rel acq : Bool)
    (f : Ex1 → Pops → List Acc → Nat → List (Nat × Nat) × Nat × Bool) : Prop :=
  ∀ (s : State) (e : Ex1) (s1 : State) (accs : List Acc) (e' : Ex1) (p : Pops) (s2 : State), i.wf = true → Issues i s e →
    e.x.src = [] → Served x indexed { bytes := x.width.bytes, kind := .write, aligned := true } s e s1 accs → Near e accs →
    ElementsDone s1 e accs → NothingOpen rel x e accs s1 → Delivers e.slots i x.ops e (released rel x e accs s1) e' p s2 →
    let o := ((byWord accs).foldl (requestPass x e' (f e' p) accs) ({ s := s2, t := e'.t }, [])).1
    exec i s = .next (finished x e' false o (acquired acq x e' (accWords s1 e.t x.width.bytes accs) o.s))

/-- Accesses of one mask word whose homes lie on other packages leave as requests, one for each line, with the operands of their
lanes; the split waits for the responses (R181, R399, R401). -/
def RequestsLeave (i : Instr) (x : MemOp) (indexed rel : Bool) (kind : AccKind) (req : ReqKind)
    (data : Ex1 → Pops → Nat → Nat × Nat) : Prop :=
  ∀ (s : State) (e : Ex1) (s1 : State) (accs : List Acc) (e' : Ex1) (p : Pops) (s2 : State), i.wf = true → Issues i s e →
    e.x.src = [] → Served x indexed { bytes := x.width.bytes, kind := kind, aligned := true } s e s1 accs →
    (∀ a ∈ accs, (∃ ps, a.loc = .glb ps) ∧ paOf a / 2 ^ 39 ≠ e.t.pkg) → accs ≠ [] → byWord accs = [accs] →
    ElementsDone s1 e accs → NothingOpen rel x e accs s1 → Delivers e.slots i x.ops e (released rel x e accs s1) e' p s2 →
    Leads i s fun s3 => ∃ new, (s3.die e.t.dieNo).requests = (s2.die e.t.dieNo).requests ++ new ∧
      new.map Request.line = (accs.map fun a => paOf a / 128).eraseDups ∧
      (∀ r ∈ new, r.team = e.t.key ∧ r.split = e.x.id ∧ r.core = e.t.coreNo ∧ r.ctx = e.t.ctx ∧ r.dst = 128 * r.line / 2 ^ 37 ∧
        r.kind = req ∧ r.width = x.width.bytes ∧ r.reg = x.d ∧ r.state = .sent ∧
        r.lanes = (accs.filter fun a => paOf a / 128 == r.line).map fun a =>
          ⟨a.slot, a.addr, paOf a, (data e' p a.slot).1, (data e' p a.slot).2⟩) ∧
      SplitIs s3 e.t.key e.x.id fun y => y.pc = e.x.pc ∧ y.wait = .scoreboard ∧ ∃ acq lanes, y.block = .reply acq lanes []

/-- A request, or its response, crosses to another package, behind no earlier one of its stream; `s1`: the state behind the crossing
(R375, R376). -/
structure Crosses (s : State) (die : Nat) (r : Request) (s1 : State) : Prop where
  found : getBy Request.id r.id (s.die die).requests = some r ∧ (s.die die).packet? r.id = none
  sent : r.state = .sent ∧ (s.die die).streamAhead r.lane r.id = false
  alive : (s.die die).fenced = false
  crosses : s.sendPacket (die / 4) (r.dst / 4) r.dst (requestStream r.core) (packetFlits r.bytesOut) = .ok s1

structure Returns (s : State) (die : Nat) (r : Request) (s1 : State) : Prop where
  found : getBy Request.id r.id (s.die die).requests = some r ∧ (s.die die).packet? r.id = none
  performed : r.state = .performed ∧ (s.die die).replyAhead r.lane r.ackAt = false
  alive : (s.die die).fenced = false
  crosses : s.sendPacket (r.dst / 4) (die / 4) die (requestStream r.core) (packetFlits r.bytesBack) = .ok s1

/-- The split waits for the response of this request alone. -/
structure Awaits (s : State) (die : Nat) (r : Request) (t : Team) (x : Split) (lanes : Option Mask) : Prop where
  team : s.team? r.team = some t ∧ t.dieNo = die
  split : t.split? r.split = some x ∧ x.regBad.1 = 0
  block : x.block = .reply none lanes []
  only : (s.die die).requestsOf r.team r.split = [r]
  clean : x.failed = false ∧ x.lost = []
  op : ∃ i h o, x.op = some i ∧ i.fields = some (h, o)

/-! ### Blotters and packets -/

/-- A packet on its way within its package, to a die that can take it, behind no other. -/
structure Arriving (s : State) (die : Nat) (p : Packet) (c : Ctx) : Prop where
  accepted : ∀ q ∈ (s.die die).packets, q.order < p.order → q.slot = p.slot → q.dst = p.dst → ∀ l, q.status = some l → 1 ∉ l
  found : getBy Packet.id p.id (s.die die).packets = some p
  open' : p.status = none ∧ (s.die die).fenced = false ∧ (s.die p.dst).fenced = false
  first : ∀ q ∈ (s.die die).packets, q.id < p.id → q.slot = p.slot → q.dst = p.dst → q.status ≠ none
  none' : ∀ b ∈ (s.die die).resend, b.slot = p.slot → b.dst ≠ p.dst
  local' : p.dst / 4 = die / 4
  context : s.ctx? p.ctx = some c ∧ c.ended = .running

def StatusIs (s : State) (die id : Nat) (codes : List Nat) : Prop :=
  ∃ p, getBy Packet.id id (s.die die).packets = some p ∧ p.status = some codes

end Sys2Proof.Claims

/-- `fence`: once what other splits issued before is performed, and the elements that `.bl` waits for are acknowledged (until then
it holds back every later access of the team), unbound dirty bytes are home and unbound clean ones dropped, from scope 2 on, and every earlier result is in its
register. What a release writes back is at home; what an acquire leaves is dirty only (R187, R358, R361, R363). -/
def Obligations.FencesAndReleases : Prop :=
  (∀ (bl : Bool) (scope : BitVec 5) (h : Head) (s : State) (e : Ex1), (Instr.fence bl scope h).wf = true →
    Issues (.fence bl scope h) s e →
    let due : Prop := bl = true ∧ (EarlierElements e ∨ s.elementsOpen e.t scope.toNat ⟨[], false⟩ e.x.issuedAt = true)
    (¬EarlierOpen e → ¬due → exec (.fence bl scope h) s = .next (
      (if 2 ≤ scope.toNat then
        (s.releaseL1 e.t.coreNo e.t.ctx ⟨[], false⟩).acquireL1 e.t.coreNo e.t.ctx ⟨[], false⟩ else s).setTeam
      (e.advance (metered s e).landAll))) ∧
    (EarlierOpen e ∨ due → Leads (.fence bl scope h) s fun s1 =>
      SplitIs s1 e.t.key e.x.id fun y => y.pc = e.x.pc ∧ y.wait = .order ∧ y.holds = [fenceKey])) ∧
  (∀ (s : State) (core ctx : Nat) (ln : L1Line) (o : Nat), NoFence s → ((s.core core).l1.map L1Line.pa).Nodup →
    ln ∈ (s.core core).l1 → ReachedBy ctx ln → o < 128 → ln.dirty.getLsbD o = true → Canonical s →
    (s.wrongWrites = [] → s.reachable core (ln.pa * 128 / 2 ^ 37) = true →
      (s.releaseL1 core ctx ⟨[], true⟩).mem.get (ln.pa * 128 + o) = ln.data.get o) ∧
    ∀ k ∈ ((s.releaseL1 core ctx ⟨[], true⟩).core core).l1, ReachedBy ctx k → k.dirty = 0) ∧
  (∀ (s : State) (core ctx : Nat), (s.acquireL1 core ctx ⟨[], true⟩).mem = s.mem ∧
    ∀ k ∈ ((s.acquireL1 core ctx ⟨[], true⟩).core core).l1, ReachedBy ctx k → k.valid = 0)

/-- `bind`, `unbind` and `scset` write their tables for every die and wait for them; no core keeps bytes of a range whose
binding changes. `launch` checks its record and puts it at the end of its queue (R330, R354, R364 to R366). -/
def Obligations.TablesAndLaunchQueues : Prop :=
  (∀ (x : PlainOp) (s : State) (e : Ex1) (c : Ctx), (Instr.bind x).wf = true → Issues (.bind x) s e →
    s.ctx? e.t.ctx = some c → AllPerformed s e →
    let u (o : Operand) : Nat := (readField e.t [] (immPlain x.imm) e.low o 0).toNat
    u x.d ≤ 255 → 0 < u x.b → u x.a + u x.b ≤ 2 ^ 32 → u x.c % 4 = 0 →
    Leads (.bind x) s fun s1 => AwaitsDies s1 e ∧ NotHeld s1 e.t.ctx (u x.a) (u x.b) ∧
      (∀ b, getBy Binding.index (u x.d) c.binds = some b → NotHeld s1 e.t.ctx b.base b.len) ∧
      ∃ c1, s1.ctx? e.t.ctx = some c1 ∧
        getBy Binding.index (u x.d) c1.binds = some ⟨u x.d, u x.a, u x.b, u x.c⟩ ∧
        ∀ k, k ≠ u x.d → getBy Binding.index k c1.binds = getBy Binding.index k c.binds) ∧
  (∀ (x : PlainOp) (s : State) (e : Ex1) (c : Ctx), (Instr.unbind x).wf = true → Issues (.unbind x) s e →
    s.ctx? e.t.ctx = some c → AllPerformed s e →
    let i := (readField e.t [] (immPlain x.imm) e.low x.d 0).toNat
    i ≤ 255 →
    match getBy Binding.index i c.binds with
    | none => exec (.unbind x) s = .next (s.setTeam (e.advance (metered s e)))
    | some b => Leads (.unbind x) s fun s1 => AwaitsDies s1 e ∧ NotHeld s1 e.t.ctx b.base b.len ∧
        ∃ c1, s1.ctx? e.t.ctx = some c1 ∧ getBy Binding.index i c1.binds = none ∧
          ∀ k, k ≠ i → getBy Binding.index k c1.binds = getBy Binding.index k c.binds) ∧
  (∀ (x : PlainOp) (s s2 : State) (e : Ex1) (t : Team) (bs : List Byte) (c : Ctx), (Instr.scset x).wf = true →
    Issues (.scset x) s e → s2.ctx? e.t.ctx = some c → AllPerformed s2 { e with t := t } →
    let i := (readField e.t [] (immPlain x.imm) e.low x.a 0).toNat
    6 ≤ i → i ≤ 31 → ReadsBytes s e (readField e.t [] (immPlain 0) e.low x.b 0).toNat 128 s2 t bs →
    Leads (.scset x) s fun s3 => AwaitsDies s3 e ∧ ∃ c1, s3.ctx? e.t.ctx = some c1 ∧
      getBy ScopeEntry.index i c1.scopes =
        some ⟨i, BitVec.ofNat 512 (leNat (bs.take 64)), BitVec.ofNat 512 (leNat (bs.drop 64))⟩ ∧
      ∀ k, k ≠ i → getBy ScopeEntry.index k c1.scopes = getBy ScopeEntry.index k c.scopes) ∧
  (∀ (x : PlainOp) (s s2 : State) (e : Ex1) (t : Team) (bs : List Byte) (r : LaunchRec), (Instr.launch x).wf = true →
    Issues (.launch x) s e → AllPerformed s2 { e with t := t } → (∀ r q, e.x.block ≠ .launching r q) →
    let q := readField e.t [] (immPlain x.imm) e.low x.b 0
    ReadsBytes s e (upair e x.a 0) 128 s2 t bs → s2.checkLaunch e.t.ctx e.t.pkg bs (upair e x.a 0) q = .inr r →
    Enqueues (.launch x) s s2 e { rec' := r, waits := r.wgate.isSome, page := none } q.toNat ∧
    ∀ h, r.wgate = some h → Leads (.launch x) s fun s3 => GateAttached s3 h) ∧
  (∀ (x : PlainOp) (s : State) (e : Ex1) (r : QRec) (q : Nat), (Instr.launch x).wf = true → Issues (.launch x) s e →
    AllPerformed s e → e.x.block = .launching r q → Enqueues (.launch x) s s e r q) ∧
  (∀ (s : State) (ctx pkg : Nat) (bs : List Byte) (a : Nat) (q : Word) (r : LaunchRec),
    s.checkLaunch ctx pkg bs a q = .inr r → q.toNat ≤ 3 ∧ r.addr = a ∧ r.entry.pc = BitVec.ofNat 57 (img bs 0 8) ∧
      r.entry.trap = labelFrom (img bs 8 8) ∧ 1 ≤ r.entry.vregs ∧ r.entry.vregs ≤ 256 ∧ 1 ≤ r.entry.lanes ∧
      r.entry.lanes ≤ 1024 ∧ 1 ≤ r.teams ∧ r.teams ≤ 16 ∧ r.prio ≤ 3 ∧ r.trign ≤ r.teams ∧
      r.counts = [BitVec.ofNat 64 (img bs 32 8), BitVec.ofNat 64 (img bs 40 8), BitVec.ofNat 64 (img bs 48 8)])

/-- Requests to other packages: they leave; at the home each is performed; its response brings the results. Where the home cannot
be reached, or its die is fenced, the lanes raise LINK_DOWN, behind the instruction, or DIE_LOST (R376, R380, R401 to R404). -/
def Sys2Proof.Claims.RequestsLeaveAndReturn : Prop :=
  (∀ (x : MemOp),
    let data (e : Ex1) (q : List (Nat × Word)) (o : Operand) (slot : Nat) : Nat := leNat (groupBytes x e.t q o slot)
    RequestsLeave (.rld x) x true false .read (.read (x.ro && x.order == .weak)) (fun _ _ _ => (0, 0)) ∧
    (∀ op ty, RequestsLeave (.ratom op ty x) x true (x.order == .ar) .write (.atom op ty) fun e p i => (0, data e p.c x.c i)) ∧
    RequestsLeave (.rcas x) x false (x.order == .ar) .write .cas fun e p i => (data e p.b x.b i, data e p.c x.c i)) ∧
  (∀ (s : State) (die : Nat) (r : Request) (s1 : State) (a : ReqLane), Crosses s die r s1 → r.lanes = [a] → r.kind ≠ .read true →
    a.c < 2 ^ (8 * r.width) → 0 < r.width → NoFence s1 → Canonical s1 → NothingWrong s1 → s1.poison = [] → s1.badReplies = [] →
    Leads (.packetArrival die r.id) s fun s2 => ∃ q, getBy Request.id r.id (s2.die die).requests = some q ∧ q.state = .performed ∧
      let old := leNat (s1.mem.read a.pa r.width)
      let new := leNat (s2.mem.read a.pa r.width)
      let w := 8 * r.width
      q.outs = [(a.slot, some (regWords (leBytes r.width old)))] ∧
      (∀ ro, r.kind = .read ro → s2.mem = s1.mem ∧ q.miss = false) ∧
      (∀ op ty, r.kind = .atom op ty → q.miss = false ∧ new = (combine op ty w (BitVec.ofNat w old) (BitVec.ofNat w a.c)).toNat) ∧
      (r.kind = .cas → new = (if old = a.b then a.c else old) ∧ q.miss = decide (old ≠ a.b))) ∧
  (∀ (s : State) (die : Nat) (r : Request) (s1 : State) (t : Team) (x : Split) (lanes : Option Mask) (slot : Nat)
    (ws : List Word), Returns s die r s1 → Awaits s1 die r t x lanes → r.outs = [(slot, some ws)] → r.miss = false →
    Leads (.packetAck die r.id) s fun s2 => (s2.die die).requestsOf r.team r.split = [] ∧
      (SplitIs s2 r.team r.split fun y => y.pc = pcNext x.pc ∧ y.wait = .ready) ∧
      ∃ u l, s2.team? r.team = some u ∧ u.landings = t.landings ++ [l] ∧ l.writes = destWrites r.reg slot ws) ∧
  (∀ (s : State) (die : Nat) (r : Request) (t : Team) (x : Split) (lanes : Option Mask) (label : Pc) (a : ReqLane)
    (fenced : Bool),
    getBy Request.id r.id (s.die die).requests = some r → (s.die die).packet? r.id = none → r.state = .sent →
    (s.die die).streamAhead r.lane r.id = false → (s.die die).fenced = false → r.lanes = [a] → Awaits s die r t x lanes →
    TakesTrap s t x label →
    (if fenced then
      ∃ s1, s.sendPacket (die / 4) (r.dst / 4) r.dst (requestStream r.core) (packetFlits r.bytesOut) = .ok s1 ∧
        (s1.die r.dst).fenced = true
    else s.reachable r.core r.dst = false ∧ r.dst / 4 ≠ die / 4 ∧ r.core / 512 = die / 4) →
    Leads (.packetArrival die r.id) s fun s2 => ∃ u y m, s2.team? r.team = some u ∧ u.split? r.split = some y ∧
      u.j[0] = BitVec.ofNat 32 (if fenced then codeDieLost else codeLinkDown) ∧ u.j[2] = BitVec.ofNat 32 a.va ∧
      u.j[3] = BitVec.ofNat 32 a.slot ∧ y.pc = label ∧ y.trap = some m ∧ m.faulting = lanes.getD (maskOf [a.slot]) ∧
      m.resume = if fenced then x.pc else pcNext x.pc)

/-- Remote memory instructions: `rst` and `rred` send elements; `rld`, `ratom` and `rcas` are performed at their homes, on
this package at once and on another by a request; `bflush` and `bstat` (R400 to R407). How requests are grouped is the
model's choice (notes/assumptions/20), and so is what an element is charged (38). -/
def Obligations.RemoteMemoryResults : Prop :=
  (∀ x : MemOp, SendsElements (.rst x) .store .add .u x) ∧
  (∀ op ty (x : MemOp), SendsElements (.rred op ty x) .reduction op ty x) ∧
  (∀ (x : MemOp) (s : State) (e : Ex1) (s1 : State) (accs : List Acc), (Instr.rld x).wf = true → Issues (.rld x) s e →
    e.x.src = [] → Served x true { bytes := x.width.bytes, kind := .read, aligned := true } s e s1 accs → Near e accs →
    ElementsDone s1 e accs →
    let acq := x.order == .sync
    let o := (byWord accs).foldl (loadPass x e { home := true } true .miss) { s := s1, t := e.t }
    exec (.rld x) s = .next (finished x e false o (acquired acq x e (accWords s1 e.t x.width.bytes accs) o.s))) ∧
  (∀ (x : MemOp),
    let data (e : Ex1) (q : List (Nat × Word)) (o : Operand) (slot : Nat) : Nat := leNat (groupBytes x e.t q o slot)
    (∀ op ty, RequestResult (.ratom op ty x) x true (x.order == .ar) (x.order != .weak) fun e p =>
      combineAll op ty x.width.bytes (data e p.c x.c)) ∧
    RequestResult (.rcas x) x false (x.order == .ar) (x.order != .weak) fun e p =>
      swapAll (data e p.b x.b) (data e p.c x.c)) ∧
  Sys2Proof.Claims.RequestsLeaveAndReturn ∧
  (∀ (h : Head) (s : State) (e : Ex1), (Instr.bflush h).wf = true → Issues (.bflush h) s e →
    Leads (.bflush h) s fun s1 =>
      (∀ b ∈ (s1.die e.t.dieNo).blotters, (∃ l ∈ b.elems, l.team = e.t.key) → b.push = true) ∧
      SplitIs s1 e.t.key e.x.id fun y => y.pc = pcNext e.pc ∧ y.wait = .ready) ∧
  (∀ (h : Head) (s : State) (e : Ex1), (Instr.bflushWait h).wf = true → Issues (.bflushWait h) s e →
    ((s.die e.t.dieNo).blotters.map BlotterSlot.slot).Nodup → Leads (.bflushWait h) s fun s1 =>
      let before : Prop := ∃ q ∈ s.outstanding e.t.key e.t.dieNo, q.1.byLane = true ∧ q.1.entered < e.x.issuedAt
      (e.x.accepted = 0 → ∀ b ∈ (s1.die e.t.dieNo).blotters, (∃ l ∈ b.elems, l.team = e.t.key) → b.push = true) ∧
      (¬before → SplitIs s1 e.t.key e.x.id fun y => y.pc = pcNext e.pc ∧ y.wait = .ready) ∧
      (before → SplitIs s1 e.t.key e.x.id fun y => y.pc = e.x.pc ∧ y.wait = .order)) ∧
  (∀ (x : PlainOp) (s : State) (e : Ex1) (c : Ctx), (Instr.bstat x).wf = true → Issues (.bstat x) s e →
    s.ctx? e.t.ctx = some c →
    let n := (readField e.t [] (immPlain x.imm) e.low x.a 0).toNat
    let d := s.die e.t.dieNo
    WritesValue (.bstat x) x.d s e ([BitVec.ofNat 32 (min (s.outstanding e.t.key e.t.dieNo).length (2 ^ 32 - 1)),
      BitVec.ofNat 32 d.blotters.length, BitVec.ofNat 32 e.t.elemFaults, BitVec.ofNat 32 c.ageNs,
      c.routeOverflow.extractLsb' 0 32, c.routeOverflow.extractLsb' 32 32,
      BitVec.ofNat 32 (d.routes.filter fun r => r.team == e.t.key).length].getD n 0))

/-- Blotter slots and packets: a pushed slot departs when its triple has nothing on its way; the age threshold pushes; at
the destination a store writes its enabled bytes, a reduction combines at the home, a post is inserted or refused; the
acknowledgement ends the packet and keeps what was refused (R391 to R396). The age in cycles and the flits of a packet are
the model's choice (notes/assumptions/22). -/
def Obligations.PacketsTravel : Prop :=
  (∀ (die slot : Nat) (s : State) (b : BlotterSlot),
    let d := s.die die
    getBy BlotterSlot.slot slot d.blotters = some b → d.fenced = false → b.push = true → d.packets.length < 1024 →
    (∀ p ∈ d.packets, p.ctx = b.ctx → p.dst ≠ b.dst) → (∀ r ∈ d.resend, r.ctx = b.ctx → r.dst ≠ b.dst) →
    (∀ p ∈ d.packets, p.slot = slot → p.dst = b.dst) → (∀ r ∈ d.resend, r.slot ≠ slot) →
    exec (.blotterDepart die slot) s = .next (s.setDie { d with
      blotters := d.blotters.filter fun c => c.slot != slot
      packets := d.packets ++
        [{ id := d.nextPacket, order := d.nextPacket, slot := slot, ctx := b.ctx, dst := b.dst, elems := b.elems }]
      nextPacket := d.nextPacket + 1 })) ∧
  (∀ (die slot : Nat) (s : State) (b : BlotterSlot),
    let d := s.die die
    d.resend.find? (fun r => r.slot == slot) = some b → d.fenced = false → d.packets.length < 1024 →
    (∀ p ∈ d.packets, p.ctx = b.ctx → p.dst ≠ b.dst) → Leads (.blotterDepart die slot) s fun s1 =>
      (∀ r ∈ (s1.die die).resend, r.ctx = b.ctx → r.dst ≠ b.dst) ∧ (s1.die die).packets = d.packets ++
        [{ id := d.nextPacket, order := b.order, slot := slot, ctx := b.ctx, dst := b.dst, elems := b.elems }]) ∧
  (∀ (die slot : Nat) (s : State) (b : BlotterSlot) (c : Ctx), getBy BlotterSlot.slot slot (s.die die).blotters = some b →
    (s.die die).fenced = false → s.ctx? b.ctx = some c → Leads (.blotterAgeExpiry die slot) s fun s1 =>
      s1.cycle (die / 4) = max (s.cycle (die / 4)) (b.since + (3 * c.ageNs / 2 + 1)) ∧
      ∀ r ∈ (s1.die die).blotters, r.slot = slot → r.push = true) ∧
  (∀ (die : Nat) (s : State) (p : Packet) (c : Ctx) (l : Element), Arriving s die p c → p.elems = [l] →
    (l.kind = .store → NoFence s → Canonical s → s.wrongWrites = [] → Leads (.packetArrival die p.id) s fun s1 => StatusIs s1 die p.id [0] ∧
      (∀ k < 8, s1.mem.get (l.addr + k) = if l.be.getLsbD k then l.data.extractLsb' (8 * k) 8 else s.mem.get (l.addr + k)) ∧
      ∀ a, a < l.addr ∨ l.addr + 8 ≤ a → s1.mem.get a = s.mem.get a) ∧
    (l.kind = .reduction → NoFence s → Canonical s → s.wrongWrites = [] →
      let n := if l.w64 then 8 else 4
      (∀ k < n, (l.addr + k) / 32 ∉ s.poison) → Leads (.packetArrival die p.id) s fun s1 => StatusIs s1 die p.id [0] ∧
        leNat (s1.mem.read l.addr n) = (combine l.op l.ty (8 * n) (BitVec.ofNat (8 * n) (leNat (s.mem.read l.addr n)))
          (l.data.setWidth (8 * n))).toNat) ∧
    (∀ r, l.kind = .post → l.rec' = some r → (c.handler? r.ev.handler).isSome = true →
      let d := s.ctxDie c.id p.dst
      if d.share + c.control.deepLim * 65536 < d.held + 65536 then
        Leads (.packetArrival die p.id) s fun s1 => StatusIs s1 die p.id [1]
      else Leads (.packetArrival die p.id) s fun s1 => StatusIs s1 die p.id [0] ∧
        (s1.ctxDie c.id p.dst).held = d.held + 1 ∧ ∃ q ∈ (s1.ctxDie c.id p.dst).pending, q.ev = r.ev)) ∧
  (∀ (die : Nat) (s : State) (p : Packet) (codes : List Nat), getBy Packet.id p.id (s.die die).packets = some p →
    p.status = some codes → p.needs = none → (s.die die).fenced = false → p.dst / 4 = die / 4 →
    p.id < (s.die die).nextPacket → codes.length = p.elems.length →
    (∀ q ∈ (s.die die).packets, q.dst = p.dst → q.slot = p.slot → q.status ≠ none → q.needs = none → p.ackAt ≤ q.ackAt) →
    Leads (.packetAck die p.id) s fun s1 => (∀ q ∈ (s1.die die).packets, q.id ≠ p.id) ∧
      ((∀ k ∈ codes, k = 1) → codes ≠ [] → ∃ b ∈ (s1.die die).resend, b.slot = p.slot ∧ b.ctx = p.ctx ∧ b.dst = p.dst ∧
        b.elems = p.elems ∧ b.order = p.order) ∧
      ∀ l t, p.elems = [l] → codes = [codePoison] → Working s l.team t →
        ∃ u, s1.team? l.team = some u ∧ u.elemFaults = t.elemFaults + 1)

namespace Sys2Proof.Claims
open Sys2Proof.Machine

/-! ### Routes, system registers, translation, dispatch -/

/-- What a lane asks the route engine for: row address, experts, weight and token id (R409). -/
def asked (e : Ex1) (x : PlainOp) : List RouteLane := e.slots.map fun i =>
  let w (k : Nat) : Word := e.t.regRead i x.a k
  { slot := i, row := (w 0).toNat, first := ((w 1).extractLsb' 0 8).toNat
    second := if (w 1).getLsbD 16 then some ((w 1).extractLsb' 8 8).toNat else none, weight := w 2, token := w 3 }

/-- The 16-byte tag of a token from the core's package and die (Table 21.9). -/
def tagOf (k : RouteToken) (core : Nat) : List (Byte × Bool) :=
  (leBytes 4 k.token.toNat ++ leBytes 2 (core / 512) ++ leBytes 1 k.choice ++ leBytes 1 (core / 128 % 4) ++
    leBytes 4 k.weight.toNat ++ leBytes 4 0).map fun b => (b, false)

/-- As `WritesValue`, for a team that the instruction has changed before. -/
def WritesFrom (i : Instr) (d : Operand) (s : State) (e : Ex1) (s1 : State) (t : Team) (w : Word) : Prop :=
  exec i s = .next (s1.setTeam (e.advance ((s1.charge t 4 (passes e.x.mask)).applyWrites
    ((execSlots d e.slots).flatMap fun i => destWrites d i [w]))))

/-- A lane names an expert as its first choice, or as its second (R409). -/
def Names (choice k : Nat) (l : RouteLane) : Prop := if choice = 0 then l.first = k else l.second = some k

/-- The addresses of the bytes of pieces. -/
def bytesOf (l : List (Nat × Nat)) : List Nat := l.flatMap fun p => (List.range p.2).map (p.1 + ·)

/-- A uniform write of bytes at `va`, which its page takes at once: the state after it, and the team (R178). -/
structure WritesBytes (s : State) (e : Ex1) (va : Nat) (bs : List Byte) (s2 : State) (t : Team) : Prop where
  fresh : FirstIssue e
  free : NothingEarlier e
  translated : s.pagesToWalk e.t e.x.walked { bytes := bs.length, kind := .write } [va] = []
  written : ∃ s1 l, s.locateGlb e.t.coreNo e.t.ctx va { bytes := bs.length, kind := .write } = (s1, .ok l) ∧
    l.unreached s1 e.t false true = false ∧ EntriesFor s1 e (l.lines s1 e.t { write := true } bs.length).length ∧
    let c := s1.chargePass (holding e.t e (l.lines s1 e.t { write := true } bs.length)) { write := true } [⟨e.low, va, l⟩]
    let w := c.1.writeLoc c.2 false bs l
    (s2, t) = w.1.coverPass w.2 (l.bytes bs.length) c.1.badWrites

/-- The bytes of an event record and of a fault record (Tables 7.4, 16.1, 16.2). -/
def eventBytes (v : EvRec) : List Byte :=
  leBytes 8 v.time.toNat ++ leBytes 4 v.entity.toNat ++
    leBytes 2 (v.handler.toNat + v.cls.toNat * 4096 + (if v.short then 16384 else 0) + if v.gated then 32768 else 0) ++
    leBytes 2 v.tie.toNat ++ (leBytes 4 v.payload[0].toNat ++ (leBytes 4 v.payload[1].toNat ++
    (leBytes 4 v.payload[2].toNat ++ leBytes 4 v.payload[3].toNat)))
def recordBytes (r : FaultRec) : List Byte :=
  leBytes 1 r.code ++ leBytes 1 r.level ++ leBytes 1 (r.ctx % 64) ++ leBytes 1 r.flags.toNat ++ leBytes 2 r.core ++
    leBytes 2 r.pkg ++ leBytes 4 r.team.toNat ++ leBytes 4 r.slots.toNat ++ leBytes 8 r.pc.toNat ++ leBytes 8 r.addr.toNat ++
    match r.event with
    | some v => eventBytes v
    | none => List.replicate 32 0

/-- A TLB entry for a page that [lo, hi] does not meet, or of another context. -/
def Outside (l : List TlbEntry) (ctx lo hi : Nat) : Prop :=
  ∀ e ∈ l, e.ctx = ctx → (e.page + 1) * (4096 * 512 ^ e.level) ≤ lo ∨ hi < e.page * (4096 * 512 ^ e.level)

/-- The split waits for the page of an address, with some of its lanes: each with its address and the one that waits. -/
def WaitsOn (x : Split) (va : Nat) (k : AccKind) (c : Cause) (lanes : List (Nat × Nat × Nat)) : Prop :=
  x.wait = .fault ∧ x.block = .page k c lanes ∧ ∃ l ∈ lanes, l.2.2 / 4096 = va / 4096

/-- A request of the batch has no walker. -/
def Unserved (b : WalkBatch) : Prop := ∃ p ∈ b.pages, p.2 = false

/-- The batch has waited more than 2^16 cycles. -/
def Aged (now : Nat) (b : WalkBatch) : Prop := b.since + 2 ^ 16 < now

/-- Records of one bin that may form a team: all eligible, with identities for all. -/
structure Ready (s : State) (c : Ctx) (die : Nat) (recs : List PRec) : Prop where
  runs : c.ended = .running ∧ (s.ctxPkg c.id (die / 4)).switchedOut = false ∧ (s.die die).fenced = false ∧ die ∈ c.dies
  found : s.ctx? c.id = some c
  free : s.heldEvids c.id die = [] ∧ recs.length ≤ 2 ^ 32 / c.dies.length
  eligible : ∀ r ∈ recs, eligibleBase c (s.ctxDie c.id die) r = true

/-- The lane of an event: payload in v0 to v3, the rest zero. -/
def EventLane (l : Lane) (f : FormedLane) : Prop :=
  l.event = some f.ev ∧ l.evid = f.evid ∧ l.time = f.ev.time ∧ l.entity = f.ev.entity ∧ l.tie = f.ev.tie ∧
    l.round = f.round ∧ l.live = true ∧ l.p = 0 ∧ ∀ n < 256, l.v[n]? = some (f.ev.payload.toList.getD n 0)

end Sys2Proof.Claims

/-- `route` forks a command whose allocation takes one expert's count word at a time, first choices before second ones, each
in increasing order; each lane gets its place; tokens go in packets of one expert and consecutive slots; the engine writes
rows and tags, then what has no length; its end adds to the completion word (R409 to R412, R414). The order of the counts
and the grouping of packets are the model's choice (notes/assumptions/29). -/
def Obligations.RoutesPlaceTokens : Prop :=
  (∀ (x : PlainOp) (s s1 : State) (e : Ex1) (c : Ctx), (Instr.route x).wf = true → Issues (.route x) s e →
    s.ctx? e.t.ctx = some c → (∀ id, e.x.block ≠ .routing id) →
    (∀ l ∈ asked e x, ∀ k ∈ l.experts, (c.expert? k).isSome = true) →
    (∀ kind ∈ [AccKind.read, .write], s.pagesToWalk e.t e.x.walked { bytes := 1, kind := kind }
      (((asked e x).flatMap (routeAddrs c)).filterMap fun q => if q.1 = kind then some q.2 else none) = []) →
    s.routeDenied e.t c (asked e x) = (s1, []) →
    let pages := s1.routePages e.t ((asked e x).flatMap (routeAddrs c))
    let word (o : Operand) : Word := readField e.t [] (immPlain x.imm) e.low o 0
    let compl : Option Nat := if x.c = .zero then none else some (word x.c).toNat
    (∀ l ∈ asked e x, ∀ k ∈ l.experts, wrongHome pages c k = false) →
    (∀ off, compl = some off → off % 4 = 0 ∧ off + 4 ≤ e.t.entry.scratch) →
    ¬EarlierOpen e → e.t.fenced e.x = false → (s1.die e.t.dieNo).routes.length < 64 →
    let d := (releasedAll s1 e.t).die e.t.dieNo
    let experts : List (Nat × RouteExpert) := (((asked e x).flatMap RouteLane.experts).eraseDups).filterMap fun i =>
      (c.expert? i).map fun f => (i, f)
    let a : RouteAlloc := { left := asked e x, experts := experts }
    let r : RouteCmd := { id := d.nextRoute, team := e.t.key, teamId := e.t.id, core := e.t.coreNo, ctx := c.id, pc := e.pc
                          gate := if x.b = .zero then none else some (word x.b), compl := compl, value := x.imm.toNat
                          alloc := some a, pages := pages }
    exec (.route x) s = .next (({ e with x := { e.x with holds := [] } }).routeStep x r a
      ((releasedAll s1 e.t).setDie { d with routes := d.routes ++ [r], nextRoute := d.nextRoute + 1 }))) ∧
  (∀ (x : PlainOp) (s : State) (e : Ex1) (r : RouteCmd) (a : RouteAlloc), (Instr.route x).wf = true →
    Issues (.route x) s e → e.x.block = .routing r.id →
    (s.die e.t.dieNo).routes.find? (fun q => q.id == r.id) = some r → r.alloc = some a →
    exec (.route x) s = .next (e.routeStep x r a s)) ∧
  (∀ (x : PlainOp) (s s1 : State) (e : Ex1) (r : RouteCmd) (a b c : RouteAlloc) (f : RouteExpert), a.due = some b →
    b.experts.find? (fun p => p.1 == b.next) = some (b.next, f) →
    s.allocExpert r b b.next f (b.naming b.next) = (s1, some c) →
    let s2 := s1.setRoute e.t.dieNo { r with alloc := some { c with next := c.next + 1 } }
    e.routeStep x r a s = s2.setTeam (e.t.setSplit { e.x with
      wait := .scoreboard, block := .routing r.id, since := s2.tick, again := true })) ∧
  (∀ (x : PlainOp) (s : State) (e : Ex1) (r : RouteCmd) (a : RouteAlloc) (c : Ctx), a.due = none → s.ctx? r.ctx = some c →
    let s1 := (s.setCtx { c with routeOverflow := c.routeOverflow + BitVec.ofNat 64 a.left.length }).setRoute e.t.dieNo
      { r with alloc := none, packets := routePackets [] (a.placed.foldl (fun l k => insertToken k l) []) }
    let place (i : Nat) : Word := match a.placed.find? fun p => p.lane == i with
      | some p => BitVec.ofNat 32 (p.expert * 2 ^ 16 + p.index)
      | none => 0xFFFFFFFF
    e.routeStep x r a s = s1.setTeam (e.advance ((metered s1 e).landAll.applyWrites
      (e.slots.flatMap fun i => destWrites x.d i [place i])))) ∧
  (∀ (a : RouteAlloc) (k : Nat) (l : RouteLane), l ∈ a.naming k ↔ l ∈ a.left ∧ Names a.choice k l) ∧
  (∀ a : RouteAlloc, a.choice ≤ 1 →
    (a.due = none ↔ ∀ n k, n ≤ 1 → k < 256 → a.choice < n ∨ (a.choice = n ∧ a.next ≤ k) → ∀ l ∈ a.left, ¬Names n k l) ∧
    ∀ b, a.due = some b →
      (∃ n k, b = { a with choice := n, next := k } ∧ n ≤ 1 ∧ k < 256 ∧ (a.choice < n ∨ (a.choice = n ∧ a.next ≤ k)) ∧
        ∃ l ∈ a.left, Names n k l) ∧
      ∀ n k, k < 256 → (a.choice < n ∨ (a.choice = n ∧ a.next ≤ k)) → (n < b.choice ∨ (n = b.choice ∧ k < b.next)) →
        ∀ l ∈ a.left, ¬Names n k l) ∧
  (∀ (s : State) (r : RouteCmd) (a : RouteAlloc) (k : Nat) (f : RouteExpert) (mine : List RouteLane), Canonical s →
    NothingWrong s → let pa := pageAddr r.pages f.count
    homeDie pa / 4 = r.core / 512 → s.fencedAt pa = false →
    let old := leNat ((s.l1Flush r.core pa 4).homeRead pa 4)
    let g := min mine.length (f.cap - old)
    ∃ s1 new, s.allocExpert r a k f mine = (s1, some { a with
        placed := a.placed ++ new, left := a.left.filter fun l => !(new.map RouteToken.lane).contains l.slot }) ∧
      s1.homeRead pa 4 = leBytes 4 (old + g) ∧ new.length = g ∧
      ∀ (i : Nat) (p : RouteToken) (l : RouteLane), new[i]? = some p → mine[i]? = some l →
        p = { lane := l.slot, row := l.row, expert := k, choice := a.choice, buf := f.buf, tags := f.tags, count := f.count
              rowb := f.rowb, dpkg := f.dpkg, index := old + i, token := l.token, weight := l.weight }) ∧
  (∀ (l : List RouteToken),
    let sent := l.foldl (fun l k => insertToken k l) []
    sent.Perm l ∧ sent.Pairwise fun a b => a.dpkg < b.dpkg ∨ (a.dpkg = b.dpkg ∧ a.lane ≤ b.lane)) ∧
  (∀ (l : List RouteToken),
    let ps := routePackets [] l
    (ps.map RoutePacket.tokens).flatten = l ∧
    (∀ p ∈ ps, p.tokens ≠ [] ∧ p.tokens.length ≤ 8 ∧ (∀ a ∈ p.tokens, ∀ b ∈ p.tokens, a.dpkg = b.dpkg) ∧
      ∀ i k, p.tokens[i]? = some k → k.expert = p.expert ∧ k.index = p.first + i) ∧
    ∀ i p q k, ps[i]? = some p → ps[i + 1]? = some q → q.tokens.head? = some k →
      p.tokens.length = 8 ∨ k.expert ≠ p.expert ∨ k.index ≠ p.first + p.tokens.length ∨ ∃ u ∈ p.tokens, u.dpkg ≠ k.dpkg) ∧
  (∀ (r : RouteCmd) (k : RouteToken) (slot : Nat) (s s1 s2 s3 : State) (pas : List Nat) (qs ws : List (Nat × Nat)),
    0 < k.rowb → s.farBytes r.asCmd .read k.row k.rowb = (s1, .ok pas) → s1.wrongReplies = [] →
    let row := s1.homeBytes pas
    row.1.farPieces r.asCmd .write (linePieces (k.rowb / 128 + 2) (k.buf + slot * k.rowb) k.rowb) = (s2, .ok qs) →
    (s2.putHome r.core ((bytesOf qs).zip row.2)).farPieces r.asCmd .write
      (linePieces 2 (k.tags + slot * 16) 16) = (s3, .ok ws) →
    row.2 = (pas.map fun pa => (s1.mem.get pa, s1.replyPoisoned pa 1)) ∧
    State.routeTokens r slot [k] s = (s3.putHome r.core ((bytesOf ws).zip (tagOf k r.core)), none)) ∧
  (∀ (r : RouteCmd) (k : RouteToken) (slot code va : Nat) (s s1 s3 : State) (ws : List (Nat × Nat)),
    s.farBytes r.asCmd .read k.row k.rowb = (s1, .error (.failed code va)) →
    ∃ home, ((s.recordFault (r.fault k code va home)).farPieces r.asCmd .write (linePieces 2 (k.tags + slot * 16) 16) =
        (s3, .ok ws) → State.routeTokens r slot [k] s = (s3.putHome r.core ((bytesOf ws).zip (tagOf k r.core)), none)) ∧
      (code < 256 → k.lane < 1024 → home < 64 → (r.fault k code va home).slots.toNat / 2 ^ 24 = code) ∧
      (r.fault k code va home).addr.toNat = va % 2 ^ 57) ∧
  (∀ (r : RouteCmd) (k : RouteToken) (ks : List RouteToken) (slot : Nat) (s s1 : State),
    State.routeTokens r slot [k] s = (s1, none) →
    State.routeTokens r slot (k :: ks) s = State.routeTokens r (slot + 1) ks s1) ∧
  (∀ (r : RouteCmd) (k : RouteToken) (s s1 : State) (l : List (Nat × Nat)),
    s.farPieces r.asCmd .write [(k.count, 0)] = (s1, .ok l) →
    State.routeEnds r [k] s = (s1.putHome r.core [], none) ∧ (s1.putHome r.core []).mem = s1.mem) ∧
  (∀ (r : RouteCmd) (p : RoutePacket) (ps : List RoutePacket) (s s1 s2 : State),
    State.routeTokens r p.first p.tokens s = (s1, none) →
    ((∃ q ∈ ps, q.pkg = p.pkg) → State.routeSend r (p :: ps) s = State.routeSend r ps s1) ∧
    ((∀ q ∈ ps, q.pkg ≠ p.pkg) → State.routeEnds r (r.ends p.pkg) s1 = (s2, none) →
      State.routeSend r (p :: ps) s = State.routeSend r ps s2)) ∧
  (∀ (r : RouteCmd) (pkg : Nat), let sent := r.packets.flatMap RoutePacket.tokens
    ((r.ends pkg).map RouteToken.expert).Nodup ∧ (∀ k ∈ r.ends pkg, k ∈ sent ∧ k.dpkg = pkg) ∧
    ∀ k ∈ sent, k.dpkg = pkg → k.expert ∈ (r.ends pkg).map RouteToken.expert) ∧
  (∀ (die : Nat) (s s1 : State) (r : RouteCmd) (t : Team), Canonical s1 →
    (s.die die).routes.find? (fun q => q.id == r.id) = some r → (s.die die).fenced = false → r.alloc = none →
    r.page = none → r.gate = none → r.orphan = none → (∀ b ∈ (s.die die).walks, b.owner ≠ .route r.id) →
    State.routeSend r r.packets s = (s1, none) →
    Working s1 r.team t → Leads (.routeCommandComplete die r.id) s fun s2 =>
      (∀ q ∈ (s2.die die).routes, q.id ≠ r.id) ∧ ∀ off, r.compl = some off → ∃ u, s2.team? r.team = some u ∧
        scratchWord u off = scratchWord t off + BitVec.ofNat 32 r.value)

/-- The system group: Tables 17.5 and 17.10, the clock's latch, and the fault queue (R340, R341, R344 to R346). That `fltrd`
checks its alignment also with an empty queue is the model's choice (notes/assumptions/19). -/
def Obligations.SystemRegistersAndFaultQueue : Prop :=
  (∀ (x : PlainOp) (s : State) (e : Ex1), (Instr.rdsr x).wf = true → Issues (.rdsr x) s e →
    let n := (readField e.t [] (immPlain x.imm) e.low x.a 0).toNat
    let g := e.t.gang.bind s.gang?
    (n = 0 → WritesFrom (.rdsr x) x.d s e s e.t.landAll (e.t.landAll.fstat.setWidth 32)) ∧
    (n ≠ 0 → WritesValue (.rdsr x) x.d s e ([0, BitVec.ofNat 32 e.t.entry.vregs, BitVec.ofNat 32 e.t.entry.scratch,
      BitVec.ofNat 32 e.t.entry.slice, BitVec.ofNat 32 e.t.entry.splitspill, BitVec.ofNat 32 e.t.entry.planes,
      BitVec.ofNat 32 e.t.prio, BitVec.ofNat 32 ((g.map Gang.log2bar).getD e.t.entry.log2bar),
      match g with
      | some g => BitVec.ofNat 32 (e.t.rank % 16 + (g.expected - 1) % 16 * 16)
      | none => 0x80000000].getD n 0))) ∧
  (∀ (x : PlainOp) (s : State) (e : Ex1), (Instr.wrsr x).wf = true → Issues (.wrsr x) s e →
    let n := readField e.t [] (immPlain x.imm) e.low x.a 0
    let t := (metered s e).landAll
    (n = 0 → exec (.wrsr x) s = .next (s.setTeam (e.advance { t with
      fstat := (readField t [] (immPlain x.imm) e.low x.b 0).setWidth 4 }))) ∧
    (n ≠ 0 → exec (.wrsr x) s = .next (s.raise e.t e.x
      (e.cause (if n.toNat ≤ 8 then codePermission else codeBounds) n e.low e.mask n.toNat)))) ∧
  (∀ (x : PlainOp) (s : State) (e : Ex1), (Instr.rdbudget x).wf = true → Issues (.rdbudget x) s e →
    let c := s.ctxPkg e.t.ctx e.t.pkg
    let b : BitVec 64 := BitVec.ofInt 64 c.budget
    WritesValue (.rdbudget x) x.d s e ([b.extractLsb' 0 32, b.extractLsb' 32 32, BitVec.ofNat 32 c.allowance,
      BitVec.ofNat 32 (1500000 - (s.cycle e.t.pkg - (s.pkg e.t.pkg).window)), BitVec.ofNat 32 (s.deferredTeams e.t.ctx e.t.dieNo),
      BitVec.ofNat 32 (min (e.t.metered / 1000) (2 ^ 32 - 1))].getD (readField e.t [] (immPlain x.imm) e.low x.a 0).toNat 0)) ∧
  (∀ (x : PlainOp) (s : State) (e : Ex1), (Instr.clock x).wf = true → Issues (.clock x) s e →
    let n := (readField e.t [] (immPlain x.imm) e.low x.a 0).toNat
    let now : DWord := BitVec.ofNat 64 (s.cycle e.t.pkg)
    (n = 0 → WritesFrom (.clock x) x.d s e s { e.t with clock := some now } (now.extractLsb' 0 32)) ∧
    (n = 1 → let held := e.t.clock.getD now
      WritesFrom (.clock x) x.d s e s { e.t with clock := some held } (held.extractLsb' 32 32)) ∧
    (n = 2 → WritesValue (.clock x) x.d s e
      (BitVec.ofNat 32 (min (e.t.resident + (s.cycle e.t.pkg - e.t.placedAt)) (2 ^ 32 - 1)))) ∧
    (2 < n → WritesValue (.clock x) x.d s e 0)) ∧
  (∀ (x : PlainOp) (s : State) (e : Ex1) (c : Ctx), (Instr.fltrd x).wf = true → Issues (.fltrd x) s e →
    s.ctx? e.t.ctx = some c →
    let a := upair e x.a 0
    let count : Word := BitVec.ofNat 32 (c.faultQ.length + if c.lost then 2 ^ 31 else 0)
    a % 64 = 0 →
    (c.faultQ = [] → let s1 := s.setCtx { c with lost := false }
      WritesFrom (.fltrd x) x.d s e s1 e.t count) ∧
    ∀ r rest s1 t c1, c.faultQ = r :: rest → WritesBytes s e a (recordBytes r) s1 t → s1.ctx? e.t.ctx = some c1 →
      WritesFrom (.fltrd x) x.d s e (s1.setCtx { c1 with faultQ := rest, lost := false }) t count)

/-- Walks, the queue that they wait in and their outcomes, what resolves or fails a replayable one, invalidations, held
traps (R90, R256 to R263). Model's choices: entries on a fenced die (notes/assumptions/35), a pointer at level 0 and what
acts on a page (17), the batches of the queue (38). -/
def Obligations.TranslationAndHeldTraps : Prop :=
  (∀ (s : State) (reach : Nat → Bool) (cache : Nat → Option DWord) (va level table : Nat) (kind : AccKind), s.wrongReplies = [] →
    let addr := table + 8 * (va / (4096 * 512 ^ level) % 512)
    let pte : DWord := (cache level).getD (BitVec.ofNat 64 (leNat (s.mem.read addr 8)))
    let base := (pte.extractLsb' 12 36).toNat * 4096
    let found := (walkFrom s reach cache va kind level table).result
    (cache level = none → s.fencedAt addr = true → found = .lost) ∧
    (cache level = none → s.fencedAt addr = false → reach (addr / 2 ^ 37) = false → found = .down) ∧
    (cache level ≠ none ∨ s.fencedAt addr = false ∧ reach (addr / 2 ^ 37) = true →
      ((pte.extractLsb' 7 5 ≠ 0 ∨ pte.extractLsb' 48 16 ≠ 0) → found = .fatal) ∧
      (pte.extractLsb' 7 5 = 0 → pte.extractLsb' 48 16 = 0 → pte.getLsbD 5 = false →
        (pte.getLsbD 0 = false → (pte.getLsbD 4 = true → level < 3 ∧ base % (4096 * 512 ^ level) = 0) →
          found = if pte.getLsbD 6 then .replay else .fatal) ∧
        (pte.getLsbD 0 = true → pte.getLsbD 4 = true → level < 3 → base % (4096 * 512 ^ level) = 0 →
          found =
            if pte.getLsbD (match kind with | .read => 1 | .write => 2 | .fetch => 3) then
              .ok (base + va % (4096 * 512 ^ level)) level pte
            else if pte.getLsbD 6 then .replay
            else if kind = .fetch then .fatal else .permission) ∧
        (∀ l, level = l + 1 → pte.getLsbD 0 = true → pte.getLsbD 4 = false →
          found = (walkFrom s reach cache va kind l base).result)))) ∧
  (∀ (x : MemOp) (i : Instr) (indexed : Bool) (need : Need) (s : State) (e : Ex1), (i, indexed, need) ∈ accessForms x →
    i.wf = true → Issues i s e → FirstIssue e → e.x.src = [] → x.space = .glb →
    let pages := s.pagesToWalk e.t e.x.walked need
      ((if memUniform x then [e.low] else e.slots).map (memAddr e.t x indexed))
    pages ≠ [] → (∀ k < 128, s.reservation (e.t.dieNo * 128 + k) = none) →
    let d := s.die e.t.dieNo
    if d.walkRequests + pages.length ≤ 2048 then
      Leads i s fun s1 => (s1.die e.t.dieNo).walks = d.walks ++ [
          { owner := .split e.t.key e.x.id, core := e.t.coreNo, ctx := e.t.ctx, kind := need.kind
            since := s.cycle e.t.pkg, pages := pages.map fun p => (p, false) }] ∧
        SplitIs s1 e.t.key e.x.id fun y => y.pc = e.x.pc ∧ y.wait = .scoreboard ∧ y.block = .walks
    else Leads i s fun s1 => (s1.die e.t.dieNo).walks = d.walks ∧
      SplitIs s1 e.t.key e.x.id fun y => y.pc = e.x.pc ∧ y.wait = .rejected ∧ y.needWalks = pages.length) ∧
  (∀ (now : Nat) (l : List WalkBatch) (b : WalkBatch), nextBatch now l = some b →
    ∃ i : Nat, l[i]? = some b ∧ Unserved b ∧ ∀ (j : Nat) (c : WalkBatch), l[j]? = some c → Unserved c →
      (Aged now b ∧ (j < i → ¬Aged now c)) ∨
      (¬Aged now b ∧ ¬Aged now c ∧ b.pages.length ≤ c.pages.length ∧ (j < i → b.pages.length < c.pages.length))) ∧
  (∀ (die pa level page team split : Nat) (pte : DWord) (b : WalkBatch) (s : State) (t : Team) (x : Split),
    (s.die die).fenced = false → b.core / 128 = die → (s.die die).walks = [b] → b.pages = [(page, false)] →
    (s.walk b.core b.ctx (4096 * page) b.kind).result = .ok pa level pte → b.owner = .split team split →
    (∀ e ∈ s.tlbs b.core, e.ctx ≠ b.ctx) → s.team? team = some t → t.split? split = some x → x.block = .walks →
    (t.splits.map Split.id).Nodup →
    Leads (.walkComplete b.core b.ctx (4096 * page) b.kind) s fun s1 =>
      let e : TlbEntry := ⟨b.ctx, 4096 * page / (4096 * 512 ^ level), level, pte⟩
      e ∈ (s1.core b.core).tlb ∧ e ∈ (s1.cluster (b.core / 4)).tlb ∧ e ∈ (s1.die die).tlb ∧ s1.mem = s.mem ∧
      (s1.die die).walks = [] ∧ SplitIs s1 team split fun y => y.wait = .ready ∧ y.pc = x.pc ∧ page ∈ y.walked) ∧
  (∀ (ctx va pa : Nat) (pte : DWord) (s : State) (t : Team) (x : Split) (k : AccKind) (c : Cause)
    (lanes : List (Nat × Nat × Nat)), NoFence s → Canonical s → s.wrongWrites = [] → (∀ u ∈ s.teams, u.constLoaded = true) →
    s.team? t.key = some t → t.split? x.id = some x → t.ctx = ctx → WaitsOn x va k c lanes →
    Leads (.resolveReplayableFault ctx va [(pa, pte)]) s fun s1 =>
      BitVec.ofNat 64 (leNat (s1.mem.read pa 8)) = pte ∧
      SplitIs s1 t.key x.id fun y => y = { x with wait := .ready, block := .none, again := decide (k ≠ .fetch), walked := [] }) ∧
  (∀ (ctx va : Nat) (s : State) (t : Team) (x : Split) (k : AccKind) (c : Cause) (lanes : List (Nat × Nat × Nat))
    (slot a w : Nat) (label : Pc), s.teams = [t] → t.ctx = ctx → t.constLoaded = true → Lone t x label →
    WaitsOn x va k c lanes → lanes.find? (fun l => l.2.2 / 4096 == va / 4096) = some (slot, a, w) →
    Leads (.markFaultFatal ctx va) s fun s1 => ∃ u y m, s1.team? t.key = some u ∧ u.split? x.id = some y ∧ y.pc = label ∧
      y.trap = some m ∧ m.resume = c.resume ∧
      if k = .fetch then u.j = #v[BitVec.ofNat 32 c.code, c.pc.setWidth 32, c.j2, c.j3] ∧ m.faulting = c.lanes
      else u.j = #v[BitVec.ofNat 32 c.code, c.pc.setWidth 32, BitVec.ofNat 32 a, BitVec.ofNat 32 slot] ∧
        m.faulting = maskOf ((lanes.filter fun l => l.2.2 / 4096 == va / 4096).map Prod.fst)) ∧
  (∀ (pkg ctx lo hi : Nat) (s : State), (∀ d < 4, s.spanElements (pkg * 4 + d) ctx lo hi = false) →
    Leads (.packageInvalidation pkg ctx lo hi) s fun s1 =>
      (∀ c ∈ s1.cores, c.id / 512 = pkg → Outside c.tlb ctx lo hi) ∧
      (∀ c ∈ s1.clusters, c.id / 128 = pkg → Outside c.tlb ctx lo hi) ∧
      (∀ d ∈ s1.dies, d.id / 4 = pkg → Outside d.tlb ctx lo hi ∧ ∀ e ∈ d.walkCache, e.ctx = ctx →
        (e.page + 1) * (4096 * 512 ^ e.level) ≤ lo ∨ hi < e.page * (4096 * 512 ^ e.level)) ∧
      ∀ core, core / 512 = pkg → ∀ ln ∈ (s1.core core).l1, ∀ m ∈ ln.maps, m.1 = ctx → ∀ o < 128, lo ≤ m.2 * 128 + o →
        m.2 * 128 + o ≤ hi → ln.dirty.getLsbD o = false ∧ ln.valid.getLsbD (o / 32) = false) ∧
  (∀ (s : State) (t : Team) (x : Split) (c : Cause) (label : Pc) (rest : List Nat), s.team? t.key = some t →
    t.inHandler = false → t.held = x.id :: rest → t.entry.trap = some label → t.split? x.id = some x →
    x.block = .held c [] → c.code ≠ codeWplaneLost →
    exec (.trapDelivery t.key) s = .next (s.setTeam { deliveredAt (t.landSplit x.id) x label c.code c.pc c.j2 c.j3 c.resume
      c.lanes with held := rest }))

/-- What the distributors do: reports and H, bins, teams and gangs placed, records stolen, launches dequeued (R301, R302,
R306, R307, R323 to R328). Model's choices: the numbers of teams (notes/assumptions/10), %evid and when bins fill (19),
%round (15), reports of a die whose minimum falls (42). -/
def Obligations.DistributorsDispatch : Prop :=
  (∀ (ctx p d : Nat) (s : State) (c : Ctx) (t : Nat) (ts : List Nat), s.ctx? ctx = some c → c.places = [(p, [d])] → d < 4 →
    s.localTimes ctx (p * 4 + d) = t :: ts → c.reports = [] → (∀ u ∈ t :: ts, u < 2 ^ 64) →
    (s.ctxDie ctx (p * 4 + d)).reported ≠ some (BitVec.ofNat 64 (ts.foldl min t)) →
    Leads (.dieReport ctx (p * 4 + d)) s fun s1 =>
      let h := max c.hRoot.toNat (min (2 ^ 64 - 1) (ts.foldl min t + c.control.lookahead.toNat))
      (s1.ctxDie ctx (p * 4 + d)).reported = some (BitVec.ofNat 64 (ts.foldl min t)) ∧
      (∃ c1, s1.ctx? ctx = some c1 ∧ c1.hRoot.toNat = h) ∧
      (c.hRoot.toNat < h → (s1.ctxDie ctx (p * 4 + d)).h.toNat = max (s.ctxDie ctx (p * 4 + d)).h.toNat h)) ∧
  (∀ (ctx die : Nat) (s : State) (c : Ctx) (b : Bin) (e : Entry), c.id = ctx → Ready s c die b.recs →
    c.handler? b.handler = some e → (s.ctxDie ctx die).bins = [b] → (s.ctxDie ctx die).pending = [] → b.recs ≠ [] →
    let Formed' (s1 : State) : Prop := (s1.ctxDie ctx die).bins = [] ∧
      ∃ f, (s1.die die).formed = (s.die die).formed ++ [f] ∧ f.ctx = ctx ∧ f.handler = b.handler ∧ f.entry = e ∧
        f.lanes.map FormedLane.ev = b.recs.map PRec.ev ∧ (f.lanes.map FormedLane.evid).Nodup
    Leads (.binLaunch ctx die b.handler.toNat) s Formed' ∧
    Leads (.binTimerExpiry ctx die b.handler.toNat) s fun s1 =>
      Formed' s1 ∧ s1.cycle (die / 4) = max (s.cycle (die / 4)) (b.opened + e.binTimer)) ∧
  (∀ (ctx die o : Nat) (s : State) (c : Ctx) (r : PRec) (e : Entry), c.id = ctx → Ready s c die [] → 0 < 2 ^ 32 / c.dies.length →
    (s.ctxDie ctx die).bins = [] → (s.ctxDie ctx die).pending = [] → s.coreCount (die * 128) < 32 →
    c.dies.filter (fun k => k != die && k / 4 == die / 4 && !(s.die k).fenced) = [o] → s.stealable c die o = [r] →
    c.handler? r.ev.handler = some e → 1 ≤ e.coalesce →
    Leads (.steal ctx die) s fun s1 =>
      (∃ f, (s1.die die).formed = (s.die die).formed ++ [f] ∧ f.lanes.map FormedLane.ev = [r.ev]) ∧
      (s1.ctxDie ctx o).pending.map (fun q => (q.key, q.ev)) =
        ((s.ctxDie ctx o).pending.filter fun q => q.key != r.key).map fun q => (q.key, q.ev)) ∧
  (∀ (die core : Nat) (s : State) (f : Formed), s.nextWork die = some (.event f core) → f.entry.constw = 0 →
    let next := (s.pkg (core / 512)).nextTeam
    let id : Word := if next = 0xFFFFFFFF then 0 else next
    let key := core / 512 * 2 ^ 32 + id.toNat
    s.team? key = none → Leads (.eventTeamPlace die) s fun s1 =>
      (∀ g ∈ (s1.die die).formed, g.order ≠ f.order) ∧
      (s1.pkg (core / 512)).nextTeam = id + 1 ∧
      (s1.ctxPkg f.ctx (core / 512)).budget = (s.ctxPkg f.ctx (core / 512)).budget - (f.entry.energy * f.lanes.length : Nat) ∧
      ∃ u, s1.team? key = some u ∧ u.core = core % 512 ∧ u.ctx = f.ctx ∧ u.entry = f.entry ∧ u.handler = some f.handler ∧
        u.prio = f.prio ∧ u.gang = none ∧ u.status = .resident ∧ u.lanes.length = f.lanes.length ∧
        u.splits = [{ mask := maskOf (List.range f.lanes.length), pc := f.entry.pc, check := some f.entry.pc, fresh := true }] ∧
        ∀ (i : Nat) (l : Lane) (q : FormedLane), u.lanes[i]? = some l → f.lanes[i]? = some q → EventLane l q) ∧
  (∀ (die index cluster : Nat) (cores : List Nat) (s : State) (l : Launch), s.nextWork die = some (.gang l index cluster cores) →
    l.rec'.entry.constw = 0 → (∀ c ∈ cores, c / 512 = die / 4) → cores.length ≤ 16 → l.rec'.teams = cores.length →
    let next := (s.pkg (die / 4)).nextTeam
    next.toNat + cores.length < 2 ^ 32 →
    (∀ j < cores.length, s.team? (die / 4 * 2 ^ 32 + (next + BitVec.ofNat 32 j).toNat) = none) →
    Leads (.gangPlace die) s fun s1 => ∃ g, s1.gangs = s.gangs ++ [g] ∧ g.launch = l.id ∧ g.index = index ∧
      g.cluster = cluster ∧ g.expected = cores.length ∧ g.barriers = [] ∧ g.pool.cells = [] ∧ g.poolSize = l.rec'.pool ∧
      g.triggers = ((getBy Prod.fst index l.triggers).map Prod.snd).getD 0 ∧
      (∀ h ∈ s.gangs, h.id ≠ g.id) ∧
      ∀ (j core : Nat), cores[j]? = some core →
        ∃ u, s1.team? (die / 4 * 2 ^ 32 + (next + BitVec.ofNat 32 j).toNat) = some u ∧ u.core = core % 512 ∧
          u.gang = some g.id ∧ u.rank = j ∧ u.launch = some l.id ∧ u.lanes.length = l.rec'.entry.lanes ∧
          ∀ i < l.rec'.entry.lanes, (u.lane i).evid =
            BitVec.ofNat 32 ((index * l.rec'.teams + j) * l.rec'.entry.lanes + i)) ∧
  (∀ (pkg q : Nat) (s : State) (c : Ctx) (r : QRec) (x y z : DWord), (s.pkg pkg).electing = false →
    s.nextQueue pkg = some (c, q, r) → r.rec'.counts = [x, y, z] →
    x.toNat < 2 ^ 32 → y.toNat < 2 ^ 32 → z.toNat < 2 ^ 32 → 0 < x.toNat * y.toNat * z.toNat →
    x.toNat * y.toNat * z.toNat * r.rec'.teams * r.rec'.entry.lanes ≤ 2 ^ 32 →
    Leads (.launchDequeue pkg) s fun s1 => queueOf s1 c.id pkg q = (queueOf s c.id pkg q).drop 1 ∧
      ∃ l, s1.launches = s.launches ++ [l] ∧ l.rec' = r.rec' ∧ l.ctx = c.id ∧ l.pkg = pkg ∧
        l.x = x.toNat ∧ l.y = y.toNat ∧ l.z = z.toNat ∧ l.counted = [] ∧
        (l.parts.map fun p => p.2.2 - p.2.1).sum = x.toNat * y.toNat * z.toNat)

namespace Sys2Proof.Claims
open Sys2Proof.Machine

/-! ### Pre-emption -/

/-- PREEMPT can be delivered now: no handler, no held trap, no instruction of the team under way (R334). -/
structure Deliverable (s : State) (t : Team) (p : PreemptState) (label : Pc) : Prop where
  asked : t.preempt = some p ∧ p.delivered = false ∧ t.entry.preempt = some label
  handlers : t.inHandler = false ∧ t.held = []
  between : ∀ x ∈ t.splits, x.wait = .value ∨ x.wait = .fault ∨ x.inFlight = none ∧ x.block ≠ .acks
  place : t.status = .resident ∧ t.constLoaded = true ∧ (s.die t.dieNo).fenced = false
  stays : ∀ r ∈ (s.core t.coreNo).regroups, r.participants.contains t.key = true → r.nmax = none

/-- The record is in the context's fault queue, or one was lost. -/
def Recorded (s : State) (ctx : Nat) (P : FaultRec → Prop) : Prop :=
  ∃ c, s.ctx? ctx = some c ∧ (c.lost = true ∨ ∃ r ∈ c.faultQ, P r)

/-- PC of the split with the lowest entry id. -/
def LowestPc (t : Team) (pc : Pc) : Prop :=
  ∃ x ∈ t.splits, x.record = false ∧ x.pc = pc ∧ ∀ y ∈ t.splits, y.record = false → x.id ≤ y.id

end Sys2Proof.Claims

/-- A request saves a team without a pre-emption label, which issues nothing more until what has to complete first has;
it starts the deadline of one with a label; PREEMPT makes one root
split at the label (R333, R334). -/
def Sys2Proof.Claims.preemptAsksAndDelivers : Prop :=
  (∀ (s : State) (t : Team) (c : Ctx), s.team? t.key = some t → s.ctx? t.ctx = some c → t.preempt = none →
    (t.status = .resident ∨ t.status = .held) →
    (t.entry.preempt.isSome = true → exec (.preemptRequest (.team t.key)) s = .next (s.setTeam { t with
      preempt := some { delivered := false, due := s.cycle t.pkg + c.deadline, cycles := c.deadline } })) ∧
    (t.entry.preempt = none → Savable s t → Leads (.preemptRequest (.team t.key)) s fun s1 =>
      ∃ u, s1.team? t.key = some u ∧ SavedFrom t u) ∧
    (t.entry.preempt = none → t.gang = none → s.quiet t = false → Leads (.preemptRequest (.team t.key)) s fun s1 =>
      s1.team? t.key = some { t with saving := true })) ∧
  (∀ (ctx : Nat) (s : State) (c : Ctx), s.ctx? ctx = some c → (s.teams.map Team.key).Nodup →
    (∀ t ∈ s.teams, t.ctx = ctx → t.status = .resident ∧ t.preempt = none ∧ t.entry.preempt.isSome = true) →
    Leads (.preemptRequest (.context ctx)) s fun s1 => ∀ t ∈ s.teams,
      s1.team? t.key = some (if t.ctx = ctx then { t with
        preempt := some { delivered := false, due := s.cycle t.pkg + c.deadline, cycles := c.deadline } } else t)) ∧
  (∀ (s : State) (t : Team) (p : PreemptState) (label pc : Pc), s.team? t.key = some t → Deliverable s t p label →
    LowestPc t pc → (t.splits.map Split.id).Nodup → Leads (.preemptDelivery t.key) s fun s1 => ∃ u, s1.team? t.key = some u ∧
      u.j = #v[BitVec.ofNat 32 codePreempt, pc.setWidth 32, BitVec.ofNat 32 (p.due - s.cycle t.pkg), 0] ∧
      u.preempt = some { p with delivered := true } ∧ u.landings = [] ∧ u.lanes = t.landAll.lanes ∧
      ∃ x m, u.splits = [x] ∧ x.pc = label ∧ x.wait = .ready ∧ x.creator = noEntry ∧ x.trap = some m ∧ m.resume = pc ∧
        m.preempt = true ∧ ∀ i < t.lanes.length, i < 1024 → (slotIn x.mask i = (t.landAll.lane i).live))

/-- Saves, whatever asks for them, keep all of a team; a restore brings it back (R335 to R337). -/
def Sys2Proof.Claims.savesAndRestores : Prop :=
  (∀ (s : State) (t : Team) (p : PreemptState), s.team? t.key = some t → t.preempt = some p → Savable s t →
    (∃ c, s.ctx? t.ctx = some c) → Leads (.deadline t.key) s fun s1 =>
      s1.cycle t.pkg = max (s.cycle t.pkg) p.due ∧ (∃ u, s1.team? t.key = some u ∧ SavedFrom t u) ∧
      Recorded s1 t.ctx fun r => r.code = codeDeadline ∧ r.level = 5 ∧ r.team = t.id ∧ r.addr = BitVec.ofNat 64 p.cycles) ∧
  (∀ (s : State) (t : Team), s.team? t.key = some t → Savable s t → Leads (.forcedSave t.key) s fun s1 =>
    ∃ u, s1.team? t.key = some u ∧ SavedFrom t u) ∧
  (∀ (core : Nat) (s : State) (t : Team) (c : Ctx), s.team? t.key = some t → s.ctx? t.ctx = some c → t.status = .saved →
    t.gang = none → t.constLoaded = true → core / 512 = t.pkg → c.dies.contains (core / 128) = true → c.ended = .running →
    (s.ctxPkg t.ctx t.pkg).switchedOut = false → (s.die (core / 128)).fenced = false →
    s.fitsCore core t.entry t.lanes.length t.keeps = true → (∀ x ∈ t.splits, x.wait ≠ .fault) →
    Leads (.restore t.key core) s fun s1 => ∃ u, s1.team? t.key = some u ∧
      u.status = (if t.wasHeld then .held else .resident) ∧ u.core = core % 512 ∧ u.lanes = t.lanes ∧ u.s = t.s ∧ u.k = t.k ∧
      u.j = t.j ∧ u.fstat = t.fstat ∧ u.scratch = t.scratch ∧ u.splits = t.splits ∧
      ∀ i, u.plane = some i → (((s1.core core).planes[i]?).getD {}).active = t.savedPlanes.active) ∧
  (∀ (ctx pkg : Nat) (s : State), (s.ctxPkg ctx pkg).switchedOut = true →
    exec (.contextSwitch ctx pkg) s = .next (s.setCtxPkg { s.ctxPkg ctx pkg with switchedOut := false })) ∧
  (∀ (ctx pkg : Nat) (s : State), (s.ctxPkg ctx pkg).switchedOut = false → (s.teams.map Team.key).Nodup →
    (∀ t ∈ s.teams, t.ctx = ctx → t.pkg = pkg → (t.status = .resident ∨ t.status = .held) → Savable s t ∧ t.saving = false ∧
      ∀ r ∈ (s.core t.coreNo).regroups, r.participants.contains t.key = false) →
    Leads (.contextSwitch ctx pkg) s fun s1 => (s1.ctxPkg ctx pkg).switchedOut = true ∧
      ∀ t ∈ s.teams, t.ctx = ctx → t.pkg = pkg → (t.status = .resident ∨ t.status = .held) →
        ∃ u, s1.team? t.key = some u ∧ SavedFrom t u) ∧
  (∀ (s : State) (t : Team), s.team? t.key = some t → t.status = .held →
    exec (.driverResumeHeldTeam t.key false) s = .next (s.setTeam { t with status := .resident }) ∧
    Leads (.driverResumeHeldTeam t.key true) s fun s1 => s1.team? t.key = none)

/-- Pre-emption, saves, restores and context switches (R154, R333 to R337). What a save waits for, and the layout of its
area, are the model's choice (notes/assumptions/18). -/
def Obligations.TeamsAreSavedAndRestored : Prop :=
  Sys2Proof.Claims.preemptAsksAndDelivers ∧ Sys2Proof.Claims.savesAndRestores

namespace Sys2Proof.Claims
open Sys2Proof.Machine

/-! ### Power, the driver, adapters -/

/-- Boot and power state of a package whose control die works. -/
def Alive (s : State) (pkg : Nat) (c : Control24) : Prop := (s.pkg pkg).ctl = c ∧ c.powered = true ∧ c.halted = none
def withCtl (s : State) (pkg : Nat) (c : Control24) : State := s.setPkg { s.pkg pkg with ctl := c }

/-- The first work of a die in order is placed at a rollover when its estimate exceeds its context's allowance (R339). -/
def largeFirst (s : State) (die : Nat) : State :=
  match firstWork (s.readyWork die) with
  | some w => if (s.ctxPkg w.ctx (die / 4)).allowance < w.estimate then s.placeWork die w else s
  | none => s

/-- A context number that is free on its packages, packages that have booted, dies of them, all in rising order, and on
each die room for the window, the share and the deep store (R9, R12, R252, R298, R352, R423). -/
structure MayCreate (s : State) (r : CreateReq) : Prop where
  number : ∀ c ∈ s.ctxs, c.id ≠ r.ctx ∧ (c.id % 64 = r.ctx % 64 → ∀ x ∈ c.places, ∀ y ∈ r.places, x.1 ≠ y.1)
  domain : r.oneDomain = true
  places : r.places ≠ [] ∧ (r.places.map Prod.fst).Pairwise (· < ·)
  dies : ∀ x ∈ r.places, x.1 < 512 ∧ x.2 ≠ [] ∧ x.2.Pairwise (· < ·) ∧ ∀ d ∈ x.2, d < 4
  booted : ∀ x ∈ r.places, ∃ c, Alive s x.1 c ∧ 2 ∈ c.passed
  times : 1500 ≤ r.deadline ∧ r.deadline ≤ 15000000 ∧ 256 ≤ r.ageNs ∧ r.ageNs ≤ 64000
  windows : ∀ x ∈ r.places, ∀ d ∈ x.2, ∀ b n, r.windows.find? (fun w => w.1 == x.1 * 4 + d) = some (x.1 * 4 + d, b, n) →
    b + n ≤ 32 ∧ ∀ y ∈ s.ctxDies, y.die = x.1 * 4 + d → n = 0 ∨ y.winSize = 0 ∨ (b + n) * 1048576 ≤ y.winBase ∨
      y.winBase + y.winSize ≤ b * 1048576
  room : ∀ x ∈ r.places, ∀ d ∈ x.2,
    ((s.ctxDies.filter fun y => y.die == x.1 * 4 + d).map CtxDie.share).sum + r.share ≤ 262144 ∧
    ((s.ctxDies.filter fun y => y.die == x.1 * 4 + d).map CtxDie.deep).sum + 2097152 * ({} : Control).deepLim ≤ 2 ^ 37

/-- A context that is in the machine under its own number. -/
def Here (s : State) (c : Ctx) : Prop := s.ctx? c.id = some c

/-- The context has ended for a reason. -/
def EndedFor (s : State) (ctx : Nat) (why : EndReason) : Prop := ∃ c, s.ctx? ctx = some c ∧ c.ended = why

end Sys2Proof.Claims

/-- The energy window, its limits and what changes them (R338, R339, R431, R432). The power of 3/4 for each thermal step,
and its rounding, are the model's choice (notes/assumptions/25). -/
def Obligations.EnergyWindowsAndLimits : Prop :=
  (∀ (pkg celsius : Nat) (s : State),
    let due := (s.pkg pkg).window + 1500000
    let p := s.pkg pkg
    let limit := p.ctl.newLimit.getD p.ctl.limit
    let cuts := if 95 ≤ celsius then p.ctl.cuts + 1 else if celsius < 90 then p.ctl.cuts - 1 else p.ctl.cuts
    let most := limit * 3 ^ cuts / 4 ^ cuts
    let want (c : CtxPkg) : Nat := c.newAllowance.getD c.allowance
    let sum := ((s.ctxPkgs.filter fun c => c.pkg == pkg).map want).sum
    let a (c : CtxPkg) : Nat := if most < sum then want c * most / sum else want c
    let s1 : State := { s.clockTo pkg due with }
    let s2 := s1.setPkg { s1.pkg pkg with
      window := due, ctl := { p.ctl with celsius := celsius, limit := limit, newLimit := none, cuts := cuts } }
    let s3 : State := { s2 with ctxPkgs := s.ctxPkgs.map fun c =>
      if c.pkg = pkg then { c with allowance := a c, newAllowance := none, budget := a c + min c.budget 0 } else c }
    p.ctl.halted = none → exec (.windowRollover pkg celsius) s =
      .next (largeFirst (largeFirst (largeFirst (largeFirst s3 (pkg * 4)) (pkg * 4 + 1)) (pkg * 4 + 2)) (pkg * 4 + 3)) ∧
    s1.cycle pkg = max (s.cycle pkg) due) ∧
  (∀ (pkg ctx nj : Nat) (s : State) (c : Ctx), s.ctx? ctx = some c → (∃ x ∈ c.places, x.1 = pkg) →
    (s.pkg pkg).ctl.halted = none → exec (.setAllowance pkg ctx nj) s = .next (s.setCtxPkg { s.ctxPkg ctx pkg with newAllowance := some nj })) ∧
  (∀ (pkg limit : Nat) (s : State) (c : Control24), Alive s pkg c →
    exec (.setPowerLimit pkg limit) s =
      .next (if limit ≤ 2400000000 then withCtl s pkg { c with newLimit := some limit } else s)) ∧
  (∀ (pkg : Nat) (s : State), (∃ d < 4, (s.die (pkg * 4 + d)).fenced = false) → (s.ctxs.map Ctx.id).Nodup →
    Leads (.thermalShutdown pkg) s fun s1 => (∀ d < 4, (s1.die (pkg * 4 + d)).fenced = true) ∧
      MgmtEvent.thermal ∈ (s1.pkg pkg).ctl.log ∧
      ∀ c ∈ s.ctxs, c.ended = .running → (∃ x ∈ c.places, x.1 = pkg) →
        EndedFor s1 c.id .thermal ∧ ∀ t ∈ s1.teams, t.ctx ≠ c.id)

/-- Creating and ending a context (R423, R425, Table 24.1). Until the next rollover a new context has at most what is left
of the package's power limit, the model's choice (R338, R431; notes/assumptions/10). What a request must meet is
notes/assumptions/24. -/
def Obligations.ContextsAreCreatedAndEnded : Prop :=
  (∀ (r : CreateReq) (s : State), MayCreate s r → Canonical s → Leads (.contextCreate r) s fun s1 =>
    (∃ c, s1.ctxs = s.ctxs ++ [c] ∧ c.id = r.ctx ∧ c.places = r.places ∧ c.ptRoot = r.ptRoot.toNat ∧ c.diag = r.diag ∧
      c.saveArea = r.saveArea ∧ c.classTable = r.classTable ∧ c.ageNs = r.ageNs ∧ c.deadline = r.deadline ∧
      c.handlers = [] ∧ c.routes = [] ∧ c.binds = [] ∧ c.scopes = [] ∧ c.faultQ = [] ∧ c.control.hold = true ∧
      c.control.stop = 0xFFFFFFFFFFFFFFFF ∧ c.control.lookahead = 1 ∧ c.hRoot = 0 ∧ c.ended = .running) ∧
    ∀ x ∈ r.places,
      (let c := (s.pkg x.1).ctl
        let left := c.limit * 3 ^ c.cuts / 4 ^ c.cuts - ((s.ctxPkgs.filter fun y => y.pkg == x.1).map CtxPkg.allowance).sum
        (s1.ctxPkg r.ctx x.1).allowance = min r.allowance left ∧
        (s1.ctxPkg r.ctx x.1).newAllowance = if r.allowance ≤ left then none else some r.allowance) ∧
      (s1.ctxPkg r.ctx x.1).queues = [] ∧
      ∀ d ∈ x.2, (s1.ctxDie r.ctx (x.1 * 4 + d)).share = r.share ∧ (s1.ctxDie r.ctx (x.1 * 4 + d)).pending = [] ∧
        (s1.ctxDie r.ctx (x.1 * 4 + d)).deep = 2097152 * ({} : Control).deepLim ∧
        (s1.ctxDie r.ctx (x.1 * 4 + d)).h = 0 ∧
        ∀ b n, r.windows.find? (fun w => w.1 == x.1 * 4 + d) = some (x.1 * 4 + d, b, n) →
          (s1.ctxDie r.ctx (x.1 * 4 + d)).winBase = b * 1048576 ∧ (s1.ctxDie r.ctx (x.1 * 4 + d)).winSize = n * 1048576 ∧
          ∀ a, b * 1048576 ≤ a → a < b * 1048576 + n * 1048576 → (s1.die (x.1 * 4 + d)).ram.cells.get a = 0) ∧
  (∀ (ctx : Nat) (s : State) (c : Ctx), s.ctx? ctx = some c → c.ended = .running →
    (s.engineBusy ctx = false → Leads (.contextEnd ctx) s fun s1 => s1.ctx? ctx = none ∧ (∀ t ∈ s1.teams, t.ctx ≠ ctx) ∧
      (∀ d ∈ s1.dies, ∀ g ∈ d.gates, g.ctx ≠ ctx) ∧ (∀ x ∈ s1.ctxDies, x.ctx ≠ ctx) ∧ ∀ x ∈ s1.ctxPkgs, x.ctx ≠ ctx) ∧
    ((∃ n, let d := s.die n
        (∃ x ∈ d.cmds, x.ctx = ctx) ∨ (∃ x ∈ d.routes, x.ctx = ctx ∧ x.alloc = none) ∨
        (∃ b ∈ d.blotters ++ d.resend, b.ctx = ctx) ∨ ∃ p ∈ d.packets, p.ctx = ctx) →
      Leads (.contextEnd ctx) s fun s1 => EndedFor s1 ctx .driver ∧ ∀ t ∈ s1.teams, t.ctx ≠ ctx))

/-- What the driver and the adapters do in a context's memory (R330, R341, R388, R408, R424). That an adapter's access is
whole or not at all, and where a launch that waits stands, is the model's choice (notes/assumptions/24). -/
def Obligations.DriverAndAdapterAccesses : Prop :=
  (∀ (ctx pkg queue record : Nat) (s : State) (c : Ctx), s.ctx? ctx = some c → c.ended = .running →
    (∃ x ∈ c.places, x.1 = pkg) → (s.pkg pkg).ctl.halted = none → (s.ctxPkg ctx pkg).hostLaunches = [] → queue < 2 ^ 32 →
    let Fails (code : Nat) (j2 : Word) : Prop := Leads (.hostLaunch ctx pkg queue record) s fun s1 =>
      (∃ c1, s1.ctx? ctx = some c1 ∧ c1.hostAnswer = some (code, j2)) ∧ (s1.ctxPkg ctx pkg).hostLaunches = [] ∧
        ∀ q, queueOf s1 ctx pkg q = queueOf s ctx pkg q
    (record % 128 ≠ 0 → Fails codeMisaligned (BitVec.ofNat 32 record)) ∧
    (record % 128 = 0 →
      (∀ code, s.hostRead ctx record 128 = .error (.fault code) → Fails code (BitVec.ofNat 32 record)) ∧
      (∀ va, s.hostRead ctx record 128 = .error (.replay va) → Leads (.hostLaunch ctx pkg queue record) s fun s1 =>
        (s1.ctxPkg ctx pkg).hostLaunches = [{ queue := queue, record := record }]) ∧
      ∀ bs, s.hostRead ctx record 128 = .ok bs →
        (∀ j2, s.checkLaunch ctx pkg bs record (BitVec.ofNat 32 queue) = .inl j2 → Fails codeBounds j2) ∧
        ∀ r, s.checkLaunch ctx pkg bs record (BitVec.ofNat 32 queue) = .inr r →
          let old := queueOf s ctx pkg (r.prio * 4 + queue)
          Leads (.hostLaunch ctx pkg queue record) s fun s1 => (∀ h, r.wgate = some h → GateAttached s1 h) ∧
            if old.length < 64 then queueOf s1 ctx pkg (r.prio * 4 + queue) = old ++ [{ rec' := r, waits := r.wgate.isSome }]
            else queueOf s1 ctx pkg (r.prio * 4 + queue) = old ∧
              (s1.ctxPkg ctx pkg).hostLaunches.map HostLaunch.rec' = [some { rec' := r, waits := r.wgate.isSome }])) ∧
  (∀ (ctx first count image : Nat) (s : State) (c : Ctx) (bs : List Byte), s.ctx? ctx = some c →
    s.hostRead ctx image (32 * count) = .ok bs → first + count ≤ 256 →
    (∀ i < count, RouteImage c ((bs.drop (32 * i)).take 32)) →
    Leads (.driverRouteTableWrite ctx first count image) s fun s1 => ∃ c1, s1.ctx? ctx = some c1 ∧
      (∀ i < count, getBy RouteEntry.index (first + i) c1.routes =
        if img bs (32 * i + 30) 1 = 1 then some ⟨first + i, (bs.drop (32 * i)).take 32⟩ else none) ∧
      ∀ k, k < first ∨ first + count ≤ k → getBy RouteEntry.index k c1.routes = getBy RouteEntry.index k c.routes) ∧
  (∀ (ctx : Nat) (s : State) (c : Ctx), s.ctx? ctx = some c → exec (.driverFaultQueueRead ctx) s =
    .next (s.setCtx { c with faultQ := c.faultQ.drop 1, lost := false })) ∧
  (∀ (req : AdapterReq) (pa : Nat) (s : State), NoFence s → Canonical s → s.wrongWrites = [] → req.data ≠ [] →
    s.hostAccess req.ctx req.va req.data.length .write = .ok [(req.va, pa, req.data.length)] →
    Leads (.adapterAccess req) s fun s1 => s1.mem.read pa req.data.length = req.data ∧
      (∀ a, a < pa ∨ pa + req.data.length ≤ a → s1.mem.get a = s.mem.get a) ∧ s1.teams = s.teams ∧ s1.cores = s.cores) ∧
  (∀ (req : AdapterReq) (s : State), req.data = [] → exec (.adapterAccess req) s = .next s) ∧
  (∀ (s : State) (ctx va n : Nat) (pa lv : Nat) (pte : DWord) (c : Ctx), 0 < n → va % 128 + n ≤ 128 → va + n ≤ 2 ^ 57 →
    s.ctx? ctx = some c → (walkFrom s (fun _ => true) (fun _ => none) va .read 4 c.ptRoot).result = .ok pa lv pte → (s.die (pa / 2 ^ 37)).fenced = false →
    (∀ k < n, (pa + k) / 32 ∉ s.poison) → s.hostRead ctx va n = .ok (s.mem.read pa n))

namespace Sys2Proof.Claims
open Sys2Proof.Machine

/-! ### Links -/

/-- Replaces a port's state. -/
def withPort (s : State) (pkg : Nat) (q : Port) : State :=
  s.setPkg { s.pkg pkg with ports := putBy Port.no q (s.pkg pkg).ports }

/-- An event is recorded for management. -/
def logged (s : State) (pkg : Nat) (e : MgmtEvent) : State :=
  s.setPkg { s.pkg pkg with ctl := { (s.pkg pkg).ctl with log := (s.pkg pkg).ctl.log ++ [e] } }

/-- A flit whose header is good arrives at a port that is up and has no key to announce; it does not ask for a resend. -/
structure Receives (s : State) (pkg port : Nat) (h : FlitHeader) (kind : BitVec 2) : Prop where
  up : (s.port pkg port).up = true
  kind : h.kind = kind
  good : h.crcOk = true ∧ h.cls ≠ 3 ∧ h.rsv28 = 0
  asks : h.nak = false
  told : (s.port pkg port).sendStaged = none

/-- The port once ACK has freed what it covers. -/
def afterAck (h : FlitHeader) (now : Nat) (q : Port) : Port :=
  let n := (h.ack - q.ackSeq).toNat
  if 0 < n ∧ n ≤ (q.sentSeq - q.ackSeq).toNat then { q with ackSeq := h.ack, resends := 0, ackAt := now } else q

/-! ### Critical messages -/

/-- The CSEQ accepted last by the receiver of a message from its sender. -/
def lastSeen (s : State) (m : CritMsg) : Word := ((getBy Prod.fst m.src (s.pkg m.dst).seenSeq).map Prod.snd).getD 0
/-- 32-bit serial-number order. -/
def later (a b : Word) : Prop := a ≠ b ∧ (a - b).toNat < 2 ^ 31

/-- A copy of a message is on its way, the copies have different numbers, and no earlier copy of its stream is left: it
crosses, which leaves `s1`. Between packages it takes one flit of stream 0 of its die. -/
structure OnItsWay (s : State) (m : CritMsg) (kind : CritKind) (s1 : State) : Prop where
  here : m ∈ s.crit
  kind : m.kind = kind
  unique : ∀ n ∈ s.crit, n.id = m.id → n = m
  first : ∀ n ∈ s.crit, n.src = m.src → n.dst = m.dst → n.via = m.via → m.id ≤ n.id
  crosses : (m.src = m.dst ∧ s1 = s) ∨ (m.src ≠ m.dst ∧ s.sendPacket m.src m.dst m.via 0 1 = .ok s1)

/-- A message was sent twice. -/
def SentTwice (s : State) (P : CritMsg → Prop) : Prop := ∃ a ∈ s.crit, ∃ b ∈ s.crit, a.id ≠ b.id ∧ P a ∧ P b

/-! ### Boot and management -/

/-- The conditions of R427 that an image does not meet, in the order of the rule. -/
def failures (pkg : Nat) (i : Image) : List BootFailure :=
  [ (Config.ed25519 i.edKey i.bytes i.edSig, BootFailure.edSignature)
  , (Config.mlDsa i.mlKey i.bytes i.mlSig, .mlSignature)
  , (decide (Config.sha384 i.edKey = Config.fusedEd pkg), .edKey)
  , (decide (Config.sha384 i.mlKey = Config.fusedMl pkg), .mlKey)
  , (decide ((Config.rollback pkg).toNat ≤ i.version), .rollback) ].filterMap fun x => if x.1 then none else some x.2

/-- The stage that checks a stage has passed (Table 24.2). -/
def Checkable (c : Control24) (stage : Nat) : Prop :=
  stage ∉ c.passed ∧ (stage = 1 ∨ (stage = 2 ∧ 1 ∈ c.passed) ∨ ((stage = 3 ∨ stage = 4) ∧ 2 ∈ c.passed))

/-- A digest as 48 bytes, the most significant first. -/
def digest (d : BitVec 384) : List Byte := (List.range 48).map fun i => d.extractLsb' (8 * (47 - i)) 8

/-- A measurement register as it becomes: SHA-384 of it and the digest of what extends it (R428). -/
def extended (c : Control24) (i : Nat) (bytes : List Byte) : BitVec 384 :=
  Config.sha384 (digest ((c.measures[i]?).getD 0) ++ digest (Config.sha384 bytes))

def answered (c : Control24) (tag : Word) (code : Nat) : Control24 := { c with answer := some (.status tag code) }
def closed (c : Control24) (tag : Word) : Control24 := { answered c tag 2 with connected := false, presented := none }
/-- The image is the one stored for this boot, where one was (R434). -/
def Runs (c : Control24) (image : Image) : Prop := ∀ p, getBy Prod.fst image.stage c.boot = some p → p.2 = image
def staged (c : Control24) (stage : Nat) : Mem := ((getBy Prod.fst stage c.staging).map Prod.snd).getD []

end Sys2Proof.Claims

/-- What arrives at a port, its timers and its keys (R377 to R382, R433). How keys are installed and what a flit's error
does to others are the model's choice where Table 20.2 is silent (notes/assumptions/23). -/
def Obligations.LinksCarryFlits : Prop :=
  (∀ (pkg port : Nat) (h : FlitHeader) (s : State),
    let q := afterAck h (s.cycle pkg) (s.port pkg port)
    (Receives s pkg port h 0 →
      (∀ tagOk, h.seq = q.goodSeq + 1 → (h.eop = true → tagOk = true ∧ 16 ≤ h.valid.toNat ∧ h.valid.toNat ≤ 56) →
        q.recvStaged = none → exec (.flitData pkg port h tagOk) s = .next (withPort s pkg { q with
          goodSeq := h.seq, nak := false, received := q.received + 1, tagFailed := if h.eop then false else q.tagFailed
          packetSeq := if h.sop then q.goodSeq else q.packetSeq
          packetCount := if h.sop then q.received else q.packetCount })) ∧
      (∀ tagOk, h.seq ≠ q.goodSeq + 1 →
        exec (.flitData pkg port h tagOk) s = .next (withPort s pkg { q with nak := true })) ∧
      (∀ tagOk, h.seq = q.goodSeq + 1 → h.eop = true → (tagOk = false ∨ h.valid.toNat < 16 ∨ 56 < h.valid.toNat) →
        let seq := if h.sop then q.goodSeq else q.packetSeq
        let count := if h.sop then q.received else q.packetCount
        (q.tagFailed = false → exec (.flitData pkg port h tagOk) s = .next (withPort s pkg { q with
          goodSeq := seq, received := count, packetSeq := seq, packetCount := count, tagFailed := true, nak := true })) ∧
        (q.tagFailed = true → Leads (.flitData pkg port h tagOk) s fun s1 =>
          (s1.port pkg port).up = false ∧ MgmtEvent.tagFailure port ∈ (s1.pkg pkg).ctl.log))) ∧
    (Receives s pkg port h 1 → exec (.flitIdle pkg port h) s =
      .next (withPort s pkg (if h.seq = q.goodSeq then q else { q with nak := true }))) ∧
    (Receives s pkg port h 2 → exec (.flitLinkControl pkg port h) s =
      .next (withPort s pkg (if h.seq = q.goodSeq + 1 then { q with goodSeq := h.seq, nak := false } else { q with nak := true }))) ∧
    (∀ key, Receives s pkg port h 3 → exec (.flitKeyExchange pkg port h key) s =
      .next (withPort s pkg
        (if h.seq = q.goodSeq + 1 then
          match q.recvStaged with
          | none => { q with goodSeq := h.seq, nak := false }
          | some k =>
            let k : LinkKey := { k with start := key.start }
            if key.start.toNat ≤ q.received.toNat then
              { q with goodSeq := h.seq, nak := false, recvKey := some k, recvStaged := none, recvArmed := false, received := 0
                       recvLow := false }
            else { q with goodSeq := h.seq, nak := false, recvStaged := some k, recvArmed := true }
        else { q with nak := true }))) ∧
    (∀ key tagOk, (s.port pkg port).up = true → h.crcOk = false ∨ h.cls = 3 ∨ h.rsv28 ≠ 0 →
      ∀ i, (h.kind = 0 ∧ i = .flitData pkg port h tagOk) ∨ (h.kind = 1 ∧ i = .flitIdle pkg port h) ∨
          (h.kind = 2 ∧ i = .flitLinkControl pkg port h) ∨ (h.kind = 3 ∧ i = .flitKeyExchange pkg port h key) →
        exec i s = .next (withPort s pkg { s.port pkg port with nak := true })) ∧
    (∀ h1 : FlitHeader, Receives s pkg port h 1 → h1 = { h with nak := true } → h.seq = q.goodSeq → q.sentSeq ≠ q.ackSeq →
      (q.resends < 15 → exec (.flitIdle pkg port h1) s =
        .next (withPort s pkg { q with resends := q.resends + 1, ackAt := s.cycle pkg })) ∧
      (15 ≤ q.resends → Leads (.flitIdle pkg port h1) s fun s1 => (s1.port pkg port).up = false))) ∧
  (∀ (s : State) (src dst die k flits n : Nat), src ≠ dst → s.streamPort src dst die k = some n →
    let q := s.port src n
    let held := (q.sentSeq - q.ackSeq).toNat
    let c := Config.controlFlits s.tick % 2
    let sent (m : Nat) : Port := { q with
      sentSeq := q.sentSeq + BitVec.ofNat 16 (c + m), sent := q.sent + BitVec.ofNat 64 m
      ackAt := if held = 0 ∧ 0 < c + m then s.cycle src else q.ackAt }
    q.sendStaged = none → q.begun = 0 →
    (512 < held + c + flits → s.sendPacket src dst die k flits = .full) ∧
    (held + c + flits ≤ 512 → q.sent.toNat + flits ≤ 2 ^ 64 - 2 →
      s.sendPacket src dst die k flits = .ok (withPort s src (sent flits))) ∧
    (held + c + flits ≤ 512 → 2 ^ 64 - 2 < q.sent.toNat + flits → 0 < flits → let m := 2 ^ 64 - 2 - q.sent.toNat
      s.sendPacket src dst die k flits = .cut (withPort s src { sent m with begun := m }))) ∧
  (∀ (s : State) (src dst die k flits : Nat),
    s.sendPacket src src die k flits = .ok s ∧
    (src ≠ dst → s.streamPort src dst die k = none → s.sendPacket src dst die k flits = .lost) ∧
    (∀ n, s.streamPort src dst die k = some n ↔ ∃ i < 8, n = die % 4 * 8 + (k + i) % 8 ∧
      s.portUp src n = true ∧ s.portUp dst n = true ∧
      ∀ j < i, ¬(s.portUp src (die % 4 * 8 + (k + j) % 8) = true ∧ s.portUp dst (die % 4 * 8 + (k + j) % 8) = true)) ∧
    (s.streamPort src dst die k = none ↔
      ∀ j < 8, ¬(s.portUp src (die % 4 * 8 + j) = true ∧ s.portUp dst (die % 4 * 8 + j) = true))) ∧
  (∀ (pkg port : Nat) (s : State),
    let q := s.port pkg port
    (q.up = true → q.sentSeq ≠ q.ackSeq →
      (q.resends < 15 → Leads (.retryTimeout pkg port) s fun s1 =>
        s1.cycle pkg = max (s.cycle pkg) (q.ackAt + 3000) ∧
        s1.port pkg port = { q with resends := q.resends + 1, ackAt := s1.cycle pkg }) ∧
      (15 ≤ q.resends → Leads (.retryTimeout pkg port) s fun s1 => (s1.port pkg port).up = false)) ∧
    Leads (.linkSignalLoss pkg port) s (fun s1 => (s1.port pkg port).up = false ∧
      (q.up = true → ∀ (d : Die) (p : Packet), getBy Die.id d.id s.dies = some d → p ∈ d.packets →
        (∀ x ∈ d.packets, x.id < d.nextPacket) → s.onPort d.id p pkg port = true →
        ∀ x ∈ (s1.die d.id).packets, x.id ≠ p.id) ∧
      (q.up = true → ∀ (d : Die) (r : Request), getBy Die.id d.id s.dies = some d → r ∈ d.requests →
        s.requestOn d.id r pkg port = true → ∀ x ∈ (s1.die d.id).requests, x.id = r.id → x.state = .failed codeLinkDown)) ∧
    (2 ^ 63 ≤ q.sent.toNat → q.sendLow = false →
      exec (.keyLow pkg port) s = .next (logged (withPort s pkg { q with sendLow := true }) pkg (.keyLow port))) ∧
    (q.sent.toNat < 2 ^ 63 ∨ q.sendLow = true → 2 ^ 63 ≤ q.received.toNat → q.recvLow = false →
      exec (.keyLow pkg port) s = .next (logged (withPort s pkg { q with recvLow := true }) pkg (.keyLow port))) ∧
    (q.up = true → 2 ^ 64 - 2 ≤ q.sent.toNat → q.exhausted = none → exec (.keyExhausted pkg port) s =
      .next (logged (withPort s pkg { q with exhausted := some (s.cycle pkg) }) pkg (.keyExhausted port))) ∧
    (∀ n, q.exhausted = some n → Leads (.keyTimeout pkg port) s fun s1 =>
      (s1.port pkg port).up = false ∧ n + (s.pkg pkg).ctl.keyTimeout ≤ s1.cycle pkg) ∧
    ∀ c, Alive s pkg c → port < 32 →
      (2 ∈ c.passed → q.up = false → q.enabled = true → (s.die (pkg * 4 + port / 8)).fenced = false →
        exec (.linkTraining pkg port) s = .next (withPort s pkg { q with
          up := true, sentSeq := if q.sendStaged.isSome then 1 else 0, goodSeq := 0, ackSeq := 0, nak := false, resends := 0
          ackAt := s.cycle pkg, exhausted := none, tagFailed := false, packetSeq := 0, packetCount := q.received
          sendArmed := q.sendStaged.isSome, recvArmed := false })) ∧
      (2 ∉ c.passed → exec (.linkTraining pkg port) s = .next s) ∧
      exec (.portEnable pkg port) s = .next (withPort s pkg { q with enabled := true }) ∧
      Leads (.portDisable pkg port) s fun s1 => (s1.port pkg port).up = false ∧ (s1.port pkg port).enabled = false)

/-- Critical messages between packages (R301, R302, R383 to R386) and the fencing of a die (R367 to R370). What else is gone
with a die, elections and lost roots are the model's choice where these are silent (notes/assumptions/28), and so is the way
of a message's copies (23). -/
def Obligations.MessagesAndFencing : Prop :=
  (∀ (s s0 : State) (m : CritMsg) (kind : CritKind) (i : Instr), OnItsWay s m kind s0 → ¬later m.cseq (lastSeen s m) →
    (kind = .report ∧ i = .critReport m.id) ∨ (kind = .reportAck ∧ i = .reportAck m.id) ∨
      (kind = .horizon ∧ i = .horizon m.id) ∨ (kind = .elect ∧ i = .elect m.id) →
    exec i s = .next { s0 with crit := s.crit.filter fun n => n.id != m.id }) ∧
  (∀ (s s0 : State) (m : CritMsg) (c : Ctx), OnItsWay s m .report s0 → later m.cseq (lastSeen s m) → m.id < s.nextCrit →
    s.ctx? m.ctx = some c → Leads (.critReport m.id) s fun s1 =>
      (∀ n ∈ s1.crit, n.id ≠ m.id) ∧ lastSeen s1 m = m.cseq ∧
      SentTwice s1 (fun a => a.kind = .reportAck ∧ a.src = m.dst ∧ a.dst = m.src ∧ a.ctx = m.ctx ∧
        a.value = some (m.cseq.setWidth 64)) ∧
      ∃ c1, s1.ctx? m.ctx = some c1 ∧ getBy Prod.fst m.src c1.reports = some (m.src, m.value) ∧
        let times := c1.reports.filterMap fun r => r.2.map BitVec.toNat
        (times = [] → c1.hRoot = c.hRoot) ∧
        ∀ t ∈ times, (∀ u ∈ times, t ≤ u) →
          c1.hRoot.toNat = max c.hRoot.toNat (min (2 ^ 64 - 1) (t + c.control.lookahead.toNat))) ∧
  (∀ (s s0 : State) (m : CritMsg), OnItsWay s m .reportAck s0 → later m.cseq (lastSeen s m) →
    let x := s.ctxPkg m.ctx m.dst
    let q : Word := (m.value.getD 0).setWidth 32
    Leads (.reportAck m.id) s fun s1 =>
      (∀ u, u ∈ (s1.ctxPkg m.ctx m.dst).unacked ↔ u ∈ x.unacked ∧ later u.1 q) ∧
      (s1.ctxPkg m.ctx m.dst).openSince = s.cycle m.dst ∧ (s1.ctxPkg m.ctx m.dst).ackedAt = s.cycle m.dst ∧
      ∀ v, x.unacked.find? (fun u => u.1 == q) = some (q, some v) → ∀ d ∈ s1.dies, ∀ p ∈ d.packets, p.ctx = m.ctx →
        p.dst / 4 = m.dst → ∀ t, p.needs = some t → t.toNat < v.toNat) ∧
  (∀ (s s0 : State) (m : CritMsg) (c : Ctx) (ds : List Nat), OnItsWay s m .horizon s0 → later m.cseq (lastSeen s m) →
    s.ctx? m.ctx = some c → getBy Prod.fst m.dst c.places = some (m.dst, ds) → Leads (.horizon m.id) s fun s1 =>
      ∀ d ∈ ds, (s1.ctxDie m.ctx (m.dst * 4 + d)).h.toNat =
        max (s.ctxDie m.ctx (m.dst * 4 + d)).h.toNat (m.value.getD 0).toNat) ∧
  (∀ (s s0 : State) (m : CritMsg), OnItsWay s m .elect s0 → later m.cseq (lastSeen s m) →
    let d := (m.value.getD 0).toNat % 4
    (s.pkg m.dst).electing = true → (s.die (m.dst * 4 + d)).fenced = false → Leads (.elect m.id) s fun s1 =>
      (s1.pkg m.dst).master = d ∧ (s1.pkg m.dst).electing = false) ∧
  (∀ (pkg ctx : Nat) (s : State) (c : Ctx), s.ctx? ctx = some c → pkg ≠ c.root →
    let x := s.ctxPkg ctx pkg
    x.unacked ≠ [] → Leads (.reportResend pkg ctx) s fun s1 =>
      (∃ q, (s1.ctxPkg ctx pkg).unacked = x.unacked ++ [(q, s.packageMin c pkg)] ∧
        SentTwice s1 fun a => a.kind = .report ∧ a.src = pkg ∧ a.dst = c.root ∧ a.ctx = ctx ∧ a.cseq = q ∧
          a.value = s.packageMin c pkg) ∧
      s1.cycle pkg = max (s.cycle pkg) (x.sentAt + 30000)) ∧
  (∀ (pkg root : Nat) (s : State), pkg ≠ root → (s.ctxs.map Ctx.id).Nodup →
    (∃ c ∈ s.ctxs, c.ended = .running ∧ c.root = root ∧ (s.ctxPkg c.id pkg).unacked ≠ []) → Leads (.rootLost pkg root) s fun s1 =>
      ∀ c ∈ s.ctxs, c.ended = .running → c.root = root → (s.ctxPkg c.id pkg).ackedAt + 1500000 ≤ s1.cycle pkg ∧
        EndedFor s1 c.id .contextLost ∧ ∀ t ∈ s1.teams, t.ctx ≠ c.id) ∧
  (∀ (die : Nat) (s : State), (s.die die).fenced = false →
    exec (.heartbeat die) s = .next (s.setDie { s.die die with beat := s.cycle (die / 4) }) ∧
    Leads (.dieWriteback die) s fun s1 =>
      (∃ mem, s1 = { s.setDie { s.die die with l2 := (s.die die).l2.map fun x => { x with dirty := 0 } } with hbmPoison := mem }) ∧
      ∀ sec, sec ∈ s1.hbmPoison ↔
        if ∃ x ∈ (s.die die).l2, x.line = sec / 4 ∧ x.dirty.getLsbD (sec % 4) = true then sec ∈ s.poison else sec ∈ s.hbmPoison) ∧
  (∀ (die : Nat) (i : Instr) (s : State), i = .heartbeatTimeout die ∨ i = .dieFatalError die → (s.die die).fenced = false →
    (s.ctxs.map Ctx.id).Nodup → Leads i s fun s1 =>
      (s1.die die).fenced = true ∧ (s1.die die).gates = [] ∧ (s1.die die).cmds = [] ∧ (s1.die die).routes = [] ∧
      (s1.die die).walks = [] ∧ (∀ k ∈ s1.cores, k.id / 128 = die → k.l1 = []) ∧
      MgmtEvent.dieFenced die ∈ (s1.pkg (die / 4)).ctl.log ∧ (∀ k < 8, (s1.port (die / 4) (die % 4 * 8 + k)).up = false) ∧
      (∀ t ∈ s1.teams, ¬(t.placed = true ∧ t.dieNo = die)) ∧
      (i = .heartbeatTimeout die → (s.die die).beat + 150000 ≤ s1.cycle (die / 4)) ∧
      ∀ c ∈ s.ctxs, c.ended = .running →
        let row1 : Prop := c.control.written = true ∧ die ∈ c.dies
        let row2 : Prop := (∃ g ∈ (s.die die).gates, g.ctx = c.id ∧ g.published = false) ∨
          ∃ l ∈ s.launches, l.ctx = c.id ∧ l.pkg = die / 4 ∧ ∀ d ∈ c.dies, d / 4 = die / 4 → d = die ∨ (s.die d).fenced = true
        let row3 : Prop := ∃ l ∈ s.launches, l.ctx = c.id ∧ l.rec'.reissue = false ∧ s.launchOn l die = true
        (row1 → EndedFor s1 c.id .contextLost) ∧ (¬row1 → row2 ∨ row3 → EndedFor s1 c.id .dieLost) ∧
          (¬row1 → ¬row2 → ¬row3 → EndedFor s1 c.id .running))

/-- Power-on, boot and the requests of the management paths (R426 to R437). The other standards' functions, bad requests and
the power cycle are the model's choice (notes/assumptions/26), values before power-on too (9), and how keys are staged (23).
-/
def Obligations.BootAndManagement : Prop :=
  (∀ (pkg : Nat) (s : State),
    let started : Control24 := { (s.pkg pkg).ctl with
      powered := true, passed := [], halted := none, measures := Vector.replicate 8 0, boot := (s.pkg pkg).ctl.stored
      staging := [], connected := false, presented := none, answer := none }
    let master := ((List.range 4).find? fun d => Config.diePasses (pkg * 4 + d)).getD 0
    ((s.pkg pkg).ctl.powered = false → exec (.packagePowerOn pkg) s =
      .next (s.setPkg { s.pkg pkg with master := master, ctl := started })) ∧
    ((s.pkg pkg).ctl.powered = true → (s.ctxs.map Ctx.id).Nodup → s.badWrites = [] → s.badReplies = [] → Leads (.packagePowerOn pkg) s fun s1 =>
      (s1.pkg pkg).ctl = started ∧ (s1.pkg pkg).master = master ∧ (∀ d ∈ s1.dies, d.id / 4 ≠ pkg) ∧
      (∀ x ∈ s1.mem, x.1 / 2 ^ 37 / 4 ≠ pkg) ∧ ∀ c ∈ s.ctxs, c.ended = .running → (∃ x ∈ c.places, x.1 = pkg) →
        EndedFor s1 c.id .dieLost ∧ ∀ t ∈ s1.teams, t.ctx ≠ c.id)) ∧
  (∀ (pkg : Nat) (image : Image) (s : State) (c : Control24), Alive s pkg c →
    (Checkable c image.stage → Runs c image → exec (.bootStage pkg image) s =
      .next (match (failures pkg image).head? with
        | some f => withCtl (if 2 < image.stage then s.stopPackage pkg else s) pkg { c with halted := some (image.stage, f) }
        | none => withCtl s pkg { c with
            passed := c.passed ++ [image.stage]
            measures := Vector.ofFn fun i : Fin 8 =>
              if i.val + 1 = image.stage then extended c i.val image.bytes
              else if image.stage = 2 ∧ 4 ≤ i.val then extended c i.val (Config.bootConfig pkg i.val)
              else c.measures[i.val] })) ∧
    (¬(Checkable c image.stage ∧ Runs c image) → exec (.bootStage pkg image) s = .next s)) ∧
  (∀ (pkg : Nat) (s : State), ∀ d < 4, ((s.stopPackage pkg).die (pkg * 4 + d)).fenced = true ∧
    ((s.stopPackage pkg).die (pkg * 4 + d)).cmds = [] ∧ ∀ t ∈ (s.stopPackage pkg).teams, ¬(t.placed = true ∧ t.dieNo = pkg * 4 + d)) ∧
  (∀ (pkg : Nat) (s : State) (c : Control24), Alive s pkg c →
    (∀ a b, exec (.setMgmtAddress pkg a b) s = .next (withCtl s pkg { c with ipv6 := a, ipv4 := b })) ∧
    (∀ l, exec (.setTrustList pkg l) s = .next (if l.length ≤ 8 then withCtl s pkg { c with trust := l } else s)) ∧
    (∀ a : TlsAttempt,
      let ok : Prop := a.port = 4810 ∧ a.fullDuplex1000 = true ∧ a.tls13 = true ∧ a.suiteOk = true ∧ a.clientDigest ∈ c.trust
      (ok → exec (.tlsConnect pkg a) s =
        .next (withCtl s pkg { c with connected := true, presented := some (Config.identityKey pkg) })) ∧
        (¬ok → exec (.tlsConnect pkg a) s = .next s)) ∧
    (∀ a, c.answersFor (.inl a) = true ↔ a = c.ipv6) ∧ (∀ a, c.answersFor (.inr a) = true ↔ a = c.ipv4) ∧
    let b := s.boardView pkg
    b.celsius = c.celsius ∧ b.passed = c.passed ∧ b.halted = none ∧
      b.corrected = [0, 1, 2, 3].map fun d => (s.die (pkg * 4 + d)).corrected) ∧
  (∀ (pkg : Nat) (tag : Word) (s : State) (c : Control24), Alive s pkg c → c.connected = true →
    (∀ nonce : BitVec 256, Leads (.attest pkg tag nonce) s fun s1 => ∃ bs : List Byte,
      s1 = withCtl s pkg { c with answer := some (.report tag bs) } ∧ bs.length = 3888 ∧
      img bs 0 4 = 1 ∧ img bs 4 4 = 1 ∧ img bs 8 8 = (Config.serial pkg).toNat ∧ img bs 16 32 = nonce.toNat ∧
      (∀ i < 8, (bs.drop (48 + 48 * i)).take 48 = digest ((c.measures[i]?).getD 0)) ∧
      img bs 432 4 = (Config.rollback pkg).toNat ∧ img bs 436 4 = (if Config.debugOff pkg then 1 else 0) ∧ img bs 440 72 = 0 ∧
      (∀ k < 64, bs[512 + k]? = some (((Config.attestEd pkg (bs.take 512))[k]?).getD 0)) ∧
      (∀ k < 3309, bs[576 + k]? = some (((Config.attestMl pkg (bs.take 512))[k]?).getD 0)) ∧ img bs 3885 3 = 0) ∧
    (∀ stage offset bytes, exec (.fwchunk pkg tag stage offset bytes) s =
      .next (withCtl s pkg (if 0 < bytes.length ∧ bytes.length ≤ 65536 ∧ 1 ≤ stage ∧ stage ≤ 4 then
        answered { c with staging := putBy Prod.fst (stage, (staged c stage).write offset bytes) c.staging } tag 0
      else closed c tag))) ∧
    (∀ stage total (image : Image),
      let i := { image with stage := stage, bytes := (staged c stage).read 0 total }
      exec (.fwcommit pkg tag stage total image) s = .next (withCtl s pkg
        (if 1 ≤ stage ∧ stage ≤ 4 then
          if failures pkg i = [] then answered { c with stored := putBy Prod.fst (stage, i) c.stored } tag 0
          else answered c tag 1
        else closed c tag))) ∧
    (∀ port key,
      let q := s.port pkg port
      (32 ≤ port → exec (.linkkey pkg tag port key) s = .next (withCtl s pkg (closed c tag))) ∧
      (port < 32 → q.sendStaged.isSome = true ∨ q.recvStaged.isSome = true →
        exec (.linkkey pkg tag port key) s = .next (withCtl s pkg (answered c tag 3))) ∧
      (port < 32 → q.sendStaged = none → q.recvStaged = none → Leads (.linkkey pkg tag port key) s fun s1 =>
        (s1.pkg pkg).ctl = answered c tag 0 ∧
        let r := s1.port pkg port
        let told := q.up = true ∧ (q.sentSeq - q.ackSeq).toNat < 512
        r.recvStaged = some key ∧ r.recvArmed = false ∧ r.recvKey = q.recvKey ∧ r.received = q.received ∧
        (told → r.sentSeq = q.sentSeq + 1) ∧ (¬told → r.sentSeq = q.sentSeq ∧ r.sendArmed = false) ∧
        (told → key.start.toNat ≤ q.sent.toNat → r.sendKey = some key ∧ r.sendStaged = none ∧ r.sent = 0 ∧ r.sendArmed = false) ∧
        (told → q.sent.toNat < key.start.toNat → r.sendArmed = true) ∧
        (¬(told ∧ key.start.toNat ≤ q.sent.toNat) → r.sendKey = q.sendKey ∧ r.sendStaged = some key ∧ r.sent = q.sent))) ∧
    ∀ h : MgmtHeader, h.tag = tag →
      let good : Prop := h.magic = 0x54474D56 ∧ h.rsv = 0 ∧ h.bodyZero = true ∧ ((h.type = 1 ∧ h.length = 32) ∨
        (h.type = 3 ∧ 17 ≤ h.length.toNat ∧ h.length.toNat ≤ 65552) ∨ (h.type = 4 ∧ h.length = 16) ∨ (h.type = 5 ∧ h.length = 48))
      (good → exec (.badRequest pkg h) s = .next s) ∧
      (¬good → exec (.badRequest pkg h) s = .next (withCtl s pkg (closed c tag)))) ∧
  (∀ (tag : Word) (code : Nat) (bs : List Byte), code < 2 ^ 32 → bs.length = 3888 →
    let m := answerMessage (.status tag code)
    let n := answerMessage (.report tag bs)
    m.length = 20 ∧ img m 0 4 = 0x54474D56 ∧ img m 4 2 = 6 ∧ img m 6 2 = 0 ∧ img m 8 4 = 4 ∧ img m 12 4 = tag.toNat ∧
      img m 16 4 = code ∧
    img n 0 4 = 0x54474D56 ∧ img n 4 2 = 2 ∧ img n 6 2 = 0 ∧ img n 8 4 = 3888 ∧ img n 12 4 = tag.toNat ∧ n.drop 16 = bs) ∧
  (∀ (pkg : Nat) (s : State) (i : Instr) (c : Control24), (s.pkg pkg).ctl = c →
    ((c.powered = false ∨ c.halted ≠ none) →
      ((∃ x, i = .bootStage pkg x) ∨ (∃ n, i = .setPowerLimit pkg n) ∨ (∃ n, i = .portEnable pkg n) ∨
        (∃ n, i = .portDisable pkg n) ∨ (∃ a b, i = .setMgmtAddress pkg a b) ∨ (∃ l, i = .setTrustList pkg l) ∨
        (∃ a, i = .tlsConnect pkg a)) → exec i s = .next s) ∧
    ((c.powered = false ∨ c.halted ≠ none ∨ c.connected = false) →
      ((∃ t n, i = .attest pkg t n) ∨ (∃ t a b l, i = .fwchunk pkg t a b l) ∨ (∃ t a b x, i = .fwcommit pkg t a b x) ∨
        (∃ t p k, i = .linkkey pkg t p k) ∨ ∃ h, i = .badRequest pkg h) → exec i s = .next s) ∧
    (c.halted ≠ none → ((∃ n, i = .windowRollover pkg n) ∨ (∃ x n, i = .setAllowance pkg x n) ∨
      ∃ x q r, i = .hostLaunch x pkg q r) → exec i s = .next s))

/-- Integer arithmetic, moves, logic, shifts and bit counts of every width (R52, R116 to R118, Table 6.2). -/
def Obligations.IntegerResults : Prop :=
  Sys2Proof.Claims.IntegerArithmeticByElements ∧ Sys2Proof.Claims.BitwiseResultsByElements

/-- Rounding keeps what a format represents, directed rounding errs on its own side, the nearest number is taken with ties to
the even code, overflow and underflow give the values and flags of Table 4.3, and LG6 codes stand for their numbers (R53, R55,
R58, R59, R63, R67, R68). -/
def Obligations.RoundingRules : Prop :=
  Sys2Proof.Claims.RoundingKeepsRepresentable ∧ Sys2Proof.Claims.DirectedRoundingBounds ∧
  Sys2Proof.Claims.NearestIsNearest ∧ Sys2Proof.Claims.OverflowAndUnderflow ∧ Sys2Proof.Claims.Lg6Conversions

/-- A step with a device step due runs that (notes/assumptions/3); otherwise a core runs the instruction that the bytes at the
chosen split's PC decode to, with what a step does around it (R103, R108, R165). -/
def Obligations.StepRunsTheDecodedInstruction : Prop :=
  Sys2Proof.Claims.CoreStepRunsItsWord ∧ Sys2Proof.Claims.RetriesRunTheirWord ∧ Sys2Proof.Claims.StepTakesTheInboxFirst

/-- No contributing lane, no effect; the decode checks trap before any effect; refused words trap (R40). -/
def Obligations.DecodeChecks : Prop :=
  Sys2Proof.Claims.NoLaneNoEffect ∧ Sys2Proof.Claims.DecodeChecksTrapBeforeAnyEffect ∧ Sys2Proof.Claims.RefusedWordsTrap

/-- The state after reset, and the forms of its memories (R346, notes/assumptions/5, 6, 7, 10). -/
def Obligations.StateAndFormsAfterReset : Prop :=
  Sys2Proof.Claims.StateAfterReset ∧ Sys2Proof.Claims.MemoryFormsAfterReset

/-- What decodes is well-formed, and reserved words are refused (R40, R41). -/
def Obligations.DecoderAcceptsOnlyTheSet : Prop :=
  Sys2Proof.Claims.DecodedIsWellFormed ∧ Sys2Proof.Claims.ReservedWordsAreRefused

/-- Branches and the frames that divergent ones make (R95, R96, R101). -/
def Obligations.BranchesDivideSplits : Prop :=
  Sys2Proof.Claims.BranchDividesLanes ∧ Sys2Proof.Claims.DivergentBranchMakesAFrame

/-- Calls, returns and indirect branches, and where the link stack ends (R143, R144, R146, R147). -/
def Obligations.CallsAndReturns : Prop :=
  Sys2Proof.Claims.CallsReturnsAndIndirectBranches ∧ Sys2Proof.Claims.LinkStackBounds

/-- `rdsplit`, `nap` and the first fetch of a target (R25, R145, R150, R151). -/
def Obligations.SplitReadsNapsAndTargets : Prop :=
  Sys2Proof.Claims.SplitTableReadsAndNaps ∧ Sys2Proof.Claims.TargetCheckAsksForTgt

/-- `trap`, `brk` and `tret` (R143, R152 to R155, R441). Model's choices: j2 of a `tret` without a mark
(notes/assumptions/15), faults due together (40). -/
def Obligations.TrapInstructions : Prop :=
  Sys2Proof.Claims.SoftwareTrapAndBreakpoint ∧ Sys2Proof.Claims.ReturnFromTrap

/-- Atomic updates and `wait` (R104, R172 to R174, R186). Model's choices: lanes of an atomic that read poison write nothing
(notes/assumptions/17), an unsatisfied `wait` has no access open (40). -/
def Obligations.AtomicsAndWaits : Prop := Sys2Proof.Claims.AtomicUpdates ∧ Sys2Proof.Claims.WaitReadsUntilMet

/-- Results that land, entries that free, and starvation (R30, R63, R106, R165, R182, R183). -/
def Obligations.ResultsAndRetries : Prop := Sys2Proof.Claims.ResultsLand ∧ Sys2Proof.Claims.RetryAndStarvation

/-- A core reads back what it wrote, and a store changes its own bytes and no others (R169, R185, R187). -/
def Obligations.StoredBytesAreReadBack : Prop :=
  Sys2Proof.Claims.L1ReadAfterWrite ∧ Sys2Proof.Claims.L1WriteFrame ∧ Sys2Proof.Claims.LocalStoreFrame

/-- Every lane is checked before any access, lanes with a replayable outcome wait apart; bounds and alignment of the local
spaces (R146, R163, R168, R177, R178, R222, R252). The faulting lanes of an access performed once are the model's choice
(notes/assumptions/15), and which of two pages counts first (17). -/
def Obligations.AccessChecks : Prop :=
  Sys2Proof.Claims.FailingLanesFaultFirst ∧ Sys2Proof.Claims.ReplayableLanesWait ∧ Sys2Proof.Claims.BoundsAndAlignment

/-- `tdset`, `wload`, `wswap` and `wdrop` (R205, R206, R211 to R214). -/
def Obligations.DescriptorsAndPlanes : Prop :=
  Sys2Proof.Claims.DescriptorsAreSet ∧ Sys2Proof.Claims.PlanesAreLoadedAndExchanged

/-- Streams, pops and run-ahead loads (R38, R189 to R195). j2 of a broken stream form, and when a run-ahead load reads, are
the model's choice (notes/assumptions/29). -/
def Obligations.FeederStreams : Prop :=
  Sys2Proof.Claims.StreamsStartAndStop ∧ Sys2Proof.Claims.QueueOperandsPop ∧ Sys2Proof.Claims.FeederRunsAhead

/-- `gbar` and `tsync` (R226 to R229, R232). -/
def Obligations.BarriersOfGangsAndTeams : Prop := Sys2Proof.Claims.GangBarriers ∧ Sys2Proof.Claims.TeamBarrier

/-- The arrival and the commit of a regroup (R197 to R202). Which `regroup` a mixed team goes on behind is the model's
choice (notes/assumptions/18). -/
def Obligations.RegroupsArriveAndCommit : Prop := Sys2Proof.Claims.RegroupArrives ∧ Sys2Proof.Claims.RegroupCommits

/-- `trig`, `yield` and `yield.done` (R109, R331, R332). -/
def Obligations.TriggersAndSafePoints : Prop := Sys2Proof.Claims.TriggersCount ∧ Sys2Proof.Claims.SafePoints
end

