-- ==== Sys2Proof/Laws/Encoding.lean ====
section
/-! SUPPORT. Fields, operands and codes: what was encoded is read back. -/
namespace Sys2Proof

/-- The fields of a word that was put together from fields. -/
theorem Raw.ofInsn_toInsn (r : Raw) : Raw.ofInsn r.toInsn = r := by
  obtain ⟨ver, look, opc, mod, pred, d, a, b, c, imm, mod2, low⟩ := r
  have skip {v w : Nat} {x : BitVec v} {y : BitVec w} {i n : Nat} (h : w ≤ i) :
      (x ++ y).extractLsb' i n = x.extractLsb' (i - w) n := BitVec.extractLsb'_append_eq_of_le h
  have take {v w : Nat} {x : BitVec v} {y : BitVec w} : (x ++ y).extractLsb' 0 w = y := by
    rw [BitVec.extractLsb'_append_eq_of_add_le (by omega)]; simp
  simp only [Raw.ofInsn, Raw.toInsn, Raw.mk.injEq]
  and_intros <;>
    (repeat rw [skip (by omega)]) <;> first | exact take | exact BitVec.extractLsb'_eq_self

/-- An operand is read back from its field. -/
theorem Operand.ofField_toField (o : Operand) : Operand.ofField o.toField = some o := by
  cases o with
  | v i => revert i; decide
  | s i => revert i; decide
  | k i => revert i; decide
  | imm => decide
  | f i => revert i; decide
  | h i => revert i; decide
  | j i => revert i; decide
  | p i => revert i; decide
  | sp r => cases r <;> decide
  | w i => revert i; decide
  | td i => revert i; decide
  | zero => decide

@[simp] theorem IWidth.ofCode_code (w : IWidth) : IWidth.ofCode w.code = w := by cases w <;> decide
@[simp] theorem Cond.ofCode_code (c : Cond) : Cond.ofCode c.code = some c := by cases c <;> decide
@[simp] theorem FCond.ofCode_code (c : FCond) : FCond.ofCode c.code = some c := by cases c <;> decide
@[simp] theorem Rnd.ofCode_code (r : Rnd) : Rnd.ofCode r.code = r := by cases r <;> decide
@[simp] theorem CType.ofCode_code (t : CType) : CType.ofCode t.code = some t := by cases t <;> decide
@[simp] theorem Space.ofCode_code (x : Space) : Space.ofCode x.code = some x := by cases x <;> decide
@[simp] theorem MWidth.ofCode_code (w : MWidth) : MWidth.ofCode w.code = some w := by cases w <;> decide
@[simp] theorem MOrder.ofCode_code (o : MOrder) : MOrder.ofCode o.code = some o := by cases o <;> decide
@[simp] theorem AOp.ofCode_code (o : AOp) : AOp.ofCode o.code = some o := by cases o <;> decide
@[simp] theorem AType.ofCode_code (t : AType) : AType.ofCode t.code = some t := by cases t <;> decide
@[simp] theorem PickMode.ofCode_code (m : PickMode) : PickMode.ofCode m.code = some m := by cases m <;> decide
@[simp] theorem VoteMode.ofCode_code (m : VoteMode) : VoteMode.ofCode m.code = some m := by cases m <;> decide
@[simp] theorem ROp.ofCode_code (o : ROp) : ROp.ofCode o.code = some o := by cases o <;> decide

/-- A type that the layout names is read back (`FType.ok`: `other` holds only other codes). -/
theorem FType.ofCode_code {t : FType} (h : t.ok = true) : FType.ofCode t.code = t := by
  cases t with
  | other c => revert c; decide
  | _ => decide

/-- PRED is read back. -/
theorem Guard.ofBits (g : Guard) : (⟨g.bits.getLsbD 3, g.bits.truncate 3⟩ : Guard) = g := by
  obtain ⟨n, p⟩ := g
  revert p
  cases n <;> decide

/-- VER, LOOK and PRED are read back. -/
theorem Raw.head_eq {h : Head} {r : Raw} (hv : r.ver = h.verBits) (hl : r.look = h.look) (hp : r.pred = h.guard.bits) :
    r.head = h := by
  obtain ⟨v, l, g⟩ := h
  simp only [Raw.head, Raw.guard, hv, hl, hp, Guard.ofBits]
  cases v <;> rfl

/-- VER as encoded passes check 3. -/
theorem Head.verBits_lt (h : Head) : ¬ 2 ≤ h.verBits.toNat := by
  obtain ⟨v, _, _⟩ := h
  cases v <;> simp [Head.verBits]

/-- A field that check 6 accepts is read back, used or not. -/
theorem pickField_toField {f : Option Field} {o : Operand} {b : Bool} (h : fieldOk f o b = true) :
    pickField f o.toField = o := by
  cases f with
  | none => simp [fieldOk] at h; simp [pickField, h]
  | some f => simp [pickField, Operand.ofField_toField]

theorem badField_toField (f : Option Field) (o : Operand) : badField f o.toField = false := by
  simp [badField, Operand.ofField_toField]

/-- A well-formed instruction meets checks 5 and 6. -/
theorem Instr.checks_of_wf {i : Instr} (h : i.wf = true) (hu : i ≠ .udf) :
    i.encodingOk = true ∧ i.operandsOk = true := by
  unfold Instr.wf at h
  split at h
  · simp at hu
  · simp_all

/-- The operand stage of the decoder gives the instruction whose operand fields were encoded. -/
theorem Raw.finish_toField {r : Raw} {bits : Bool} {mk : Ops → Instr} {o : Ops} {i : Instr} {hd : Head}
    (hr : r.d = o.d.toField ∧ r.a = o.a.toField ∧ r.b = o.b.toField ∧ r.c = o.c.toField ∧ r.imm = o.imm ∧ r.low = 0)
    (hb : bits = true) (hi : mk o = i) (hs : (mk {}).shape.d = i.shape.d)
    (hs' : (mk { d := o.d }).shape = i.shape) (hf : i.fields = some (hd, o))
    (hw : i.encodingOk = true ∧ i.operandsOk = true) : r.finish bits mk = .ok i := by
  obtain ⟨h1, h2, h3, h4, h5, h6⟩ := hr
  have ho := hw.2
  simp only [Instr.operandsOk, hf, Bool.and_eq_true] at ho
  obtain ⟨⟨⟨⟨d, a⟩, b⟩, c⟩, _⟩ := ho
  simp only [Raw.finish, hs, hs', h1, h2, h3, h4, h5, h6, pickField_toField d, pickField_toField a, pickField_toField b,
    pickField_toField c, badField_toField, hb]
  have : (⟨o.d, o.a, o.b, o.c, o.imm⟩ : Ops) = o := rfl
  rw [this, hi]
  simp [hw.1, hw.2]

end Sys2Proof
end

