-- ==== Sys2Proof/Laws/State.lean ====
section
/-! SUPPORT. One lemma per field and update of the state, and per field and update of a team: what it reads after. -/
namespace Sys2Proof.Machine

/-! ### `State.setTeam` -/

@[simp] theorem State.setTeam_cur (s : State) (t : Team) : (s.setTeam t).cur = s.cur := rfl
@[simp] theorem State.setTeam_inbox (s : State) (t : Team) : (s.setTeam t).inbox = s.inbox := rfl
@[simp] theorem State.setTeam_turns (s : State) (t : Team) : (s.setTeam t).turns = s.turns := rfl
@[simp] theorem State.setTeam_tick (s : State) (t : Team) : (s.setTeam t).tick = s.tick := rfl
@[simp] theorem State.setTeam_mem (s : State) (t : Team) : (s.setTeam t).mem = s.mem := rfl
@[simp] theorem State.setTeam_poison (s : State) (t : Team) : (s.setTeam t).poison = s.poison := rfl
@[simp] theorem State.setTeam_hbmPoison (s : State) (t : Team) : (s.setTeam t).hbmPoison = s.hbmPoison := rfl
@[simp] theorem State.setTeam_badReplies (s : State) (t : Team) : (s.setTeam t).badReplies = s.badReplies := rfl
@[simp] theorem State.setTeam_badWrites (s : State) (t : Team) : (s.setTeam t).badWrites = s.badWrites := rfl
@[simp] theorem State.setTeam_errors (s : State) (t : Team) : (s.setTeam t).errors = s.errors := rfl
@[simp] theorem State.setTeam_pkgs (s : State) (t : Team) : (s.setTeam t).pkgs = s.pkgs := rfl
@[simp] theorem State.setTeam_dies (s : State) (t : Team) : (s.setTeam t).dies = s.dies := rfl
@[simp] theorem State.setTeam_clusters (s : State) (t : Team) : (s.setTeam t).clusters = s.clusters := rfl
@[simp] theorem State.setTeam_cores (s : State) (t : Team) : (s.setTeam t).cores = s.cores := rfl
@[simp] theorem State.setTeam_ctxs (s : State) (t : Team) : (s.setTeam t).ctxs = s.ctxs := rfl
@[simp] theorem State.setTeam_ctxPkgs (s : State) (t : Team) : (s.setTeam t).ctxPkgs = s.ctxPkgs := rfl
@[simp] theorem State.setTeam_ctxDies (s : State) (t : Team) : (s.setTeam t).ctxDies = s.ctxDies := rfl
@[simp] theorem State.setTeam_teams (s : State) (t : Team) : (s.setTeam t).teams = setBy Team.key t s.teams := rfl
@[simp] theorem State.setTeam_gangs (s : State) (t : Team) : (s.setTeam t).gangs = s.gangs := rfl
@[simp] theorem State.setTeam_launches (s : State) (t : Team) : (s.setTeam t).launches = s.launches := rfl
@[simp] theorem State.setTeam_crit (s : State) (t : Team) : (s.setTeam t).crit = s.crit := rfl
@[simp] theorem State.setTeam_nextCrit (s : State) (t : Team) : (s.setTeam t).nextCrit = s.nextCrit := rfl

/-! ### `State.setCore` -/

@[simp] theorem State.setCore_cur (s : State) (c : Core) : (s.setCore c).cur = s.cur := rfl
@[simp] theorem State.setCore_inbox (s : State) (c : Core) : (s.setCore c).inbox = s.inbox := rfl
@[simp] theorem State.setCore_turns (s : State) (c : Core) : (s.setCore c).turns = s.turns := rfl
@[simp] theorem State.setCore_tick (s : State) (c : Core) : (s.setCore c).tick = s.tick := rfl
@[simp] theorem State.setCore_mem (s : State) (c : Core) : (s.setCore c).mem = s.mem := rfl
@[simp] theorem State.setCore_poison (s : State) (c : Core) : (s.setCore c).poison = s.poison := rfl
@[simp] theorem State.setCore_hbmPoison (s : State) (c : Core) : (s.setCore c).hbmPoison = s.hbmPoison := rfl
@[simp] theorem State.setCore_badReplies (s : State) (c : Core) : (s.setCore c).badReplies = s.badReplies := rfl
@[simp] theorem State.setCore_badWrites (s : State) (c : Core) : (s.setCore c).badWrites = s.badWrites := rfl
@[simp] theorem State.setCore_errors (s : State) (c : Core) : (s.setCore c).errors = s.errors := rfl
@[simp] theorem State.setCore_pkgs (s : State) (c : Core) : (s.setCore c).pkgs = s.pkgs := rfl
@[simp] theorem State.setCore_dies (s : State) (c : Core) : (s.setCore c).dies = s.dies := rfl
@[simp] theorem State.setCore_clusters (s : State) (c : Core) : (s.setCore c).clusters = s.clusters := rfl
@[simp] theorem State.setCore_cores (s : State) (c : Core) : (s.setCore c).cores = putBy Core.id c s.cores := rfl
@[simp] theorem State.setCore_ctxs (s : State) (c : Core) : (s.setCore c).ctxs = s.ctxs := rfl
@[simp] theorem State.setCore_ctxPkgs (s : State) (c : Core) : (s.setCore c).ctxPkgs = s.ctxPkgs := rfl
@[simp] theorem State.setCore_ctxDies (s : State) (c : Core) : (s.setCore c).ctxDies = s.ctxDies := rfl
@[simp] theorem State.setCore_teams (s : State) (c : Core) : (s.setCore c).teams = s.teams := rfl
@[simp] theorem State.setCore_gangs (s : State) (c : Core) : (s.setCore c).gangs = s.gangs := rfl
@[simp] theorem State.setCore_launches (s : State) (c : Core) : (s.setCore c).launches = s.launches := rfl
@[simp] theorem State.setCore_crit (s : State) (c : Core) : (s.setCore c).crit = s.crit := rfl
@[simp] theorem State.setCore_nextCrit (s : State) (c : Core) : (s.setCore c).nextCrit = s.nextCrit := rfl

/-! ### `State.setCluster` -/

@[simp] theorem State.setCluster_cur (s : State) (c : Cluster) : (s.setCluster c).cur = s.cur := rfl
@[simp] theorem State.setCluster_inbox (s : State) (c : Cluster) : (s.setCluster c).inbox = s.inbox := rfl
@[simp] theorem State.setCluster_turns (s : State) (c : Cluster) : (s.setCluster c).turns = s.turns := rfl
@[simp] theorem State.setCluster_tick (s : State) (c : Cluster) : (s.setCluster c).tick = s.tick := rfl
@[simp] theorem State.setCluster_mem (s : State) (c : Cluster) : (s.setCluster c).mem = s.mem := rfl
@[simp] theorem State.setCluster_poison (s : State) (c : Cluster) : (s.setCluster c).poison = s.poison := rfl
@[simp] theorem State.setCluster_hbmPoison (s : State) (c : Cluster) : (s.setCluster c).hbmPoison = s.hbmPoison := rfl
@[simp] theorem State.setCluster_badReplies (s : State) (c : Cluster) : (s.setCluster c).badReplies = s.badReplies := rfl
@[simp] theorem State.setCluster_badWrites (s : State) (c : Cluster) : (s.setCluster c).badWrites = s.badWrites := rfl
@[simp] theorem State.setCluster_errors (s : State) (c : Cluster) : (s.setCluster c).errors = s.errors := rfl
@[simp] theorem State.setCluster_pkgs (s : State) (c : Cluster) : (s.setCluster c).pkgs = s.pkgs := rfl
@[simp] theorem State.setCluster_dies (s : State) (c : Cluster) : (s.setCluster c).dies = s.dies := rfl
@[simp] theorem State.setCluster_clusters (s : State) (c : Cluster) : (s.setCluster c).clusters = putBy Cluster.id c s.clusters := rfl
@[simp] theorem State.setCluster_cores (s : State) (c : Cluster) : (s.setCluster c).cores = s.cores := rfl
@[simp] theorem State.setCluster_ctxs (s : State) (c : Cluster) : (s.setCluster c).ctxs = s.ctxs := rfl
@[simp] theorem State.setCluster_ctxPkgs (s : State) (c : Cluster) : (s.setCluster c).ctxPkgs = s.ctxPkgs := rfl
@[simp] theorem State.setCluster_ctxDies (s : State) (c : Cluster) : (s.setCluster c).ctxDies = s.ctxDies := rfl
@[simp] theorem State.setCluster_teams (s : State) (c : Cluster) : (s.setCluster c).teams = s.teams := rfl
@[simp] theorem State.setCluster_gangs (s : State) (c : Cluster) : (s.setCluster c).gangs = s.gangs := rfl
@[simp] theorem State.setCluster_launches (s : State) (c : Cluster) : (s.setCluster c).launches = s.launches := rfl
@[simp] theorem State.setCluster_crit (s : State) (c : Cluster) : (s.setCluster c).crit = s.crit := rfl
@[simp] theorem State.setCluster_nextCrit (s : State) (c : Cluster) : (s.setCluster c).nextCrit = s.nextCrit := rfl

/-! ### `State.setDie` -/

@[simp] theorem State.setDie_cur (s : State) (d : Die) : (s.setDie d).cur = s.cur := rfl
@[simp] theorem State.setDie_inbox (s : State) (d : Die) : (s.setDie d).inbox = s.inbox := rfl
@[simp] theorem State.setDie_turns (s : State) (d : Die) : (s.setDie d).turns = s.turns := rfl
@[simp] theorem State.setDie_tick (s : State) (d : Die) : (s.setDie d).tick = s.tick := rfl
@[simp] theorem State.setDie_mem (s : State) (d : Die) : (s.setDie d).mem = s.mem := rfl
@[simp] theorem State.setDie_poison (s : State) (d : Die) : (s.setDie d).poison = s.poison := rfl
@[simp] theorem State.setDie_hbmPoison (s : State) (d : Die) : (s.setDie d).hbmPoison = s.hbmPoison := rfl
@[simp] theorem State.setDie_badReplies (s : State) (d : Die) : (s.setDie d).badReplies = s.badReplies := rfl
@[simp] theorem State.setDie_badWrites (s : State) (d : Die) : (s.setDie d).badWrites = s.badWrites := rfl
@[simp] theorem State.setDie_errors (s : State) (d : Die) : (s.setDie d).errors = s.errors := rfl
@[simp] theorem State.setDie_pkgs (s : State) (d : Die) : (s.setDie d).pkgs = s.pkgs := rfl
@[simp] theorem State.setDie_dies (s : State) (d : Die) : (s.setDie d).dies = putBy Die.id d s.dies := rfl
@[simp] theorem State.setDie_clusters (s : State) (d : Die) : (s.setDie d).clusters = s.clusters := rfl
@[simp] theorem State.setDie_cores (s : State) (d : Die) : (s.setDie d).cores = s.cores := rfl
@[simp] theorem State.setDie_ctxs (s : State) (d : Die) : (s.setDie d).ctxs = s.ctxs := rfl
@[simp] theorem State.setDie_ctxPkgs (s : State) (d : Die) : (s.setDie d).ctxPkgs = s.ctxPkgs := rfl
@[simp] theorem State.setDie_ctxDies (s : State) (d : Die) : (s.setDie d).ctxDies = s.ctxDies := rfl
@[simp] theorem State.setDie_teams (s : State) (d : Die) : (s.setDie d).teams = s.teams := rfl
@[simp] theorem State.setDie_gangs (s : State) (d : Die) : (s.setDie d).gangs = s.gangs := rfl
@[simp] theorem State.setDie_launches (s : State) (d : Die) : (s.setDie d).launches = s.launches := rfl
@[simp] theorem State.setDie_crit (s : State) (d : Die) : (s.setDie d).crit = s.crit := rfl
@[simp] theorem State.setDie_nextCrit (s : State) (d : Die) : (s.setDie d).nextCrit = s.nextCrit := rfl

/-! ### `State.setPkg` -/

@[simp] theorem State.setPkg_cur (s : State) (p : Pkg) : (s.setPkg p).cur = s.cur := rfl
@[simp] theorem State.setPkg_inbox (s : State) (p : Pkg) : (s.setPkg p).inbox = s.inbox := rfl
@[simp] theorem State.setPkg_turns (s : State) (p : Pkg) : (s.setPkg p).turns = s.turns := rfl
@[simp] theorem State.setPkg_tick (s : State) (p : Pkg) : (s.setPkg p).tick = s.tick := rfl
@[simp] theorem State.setPkg_mem (s : State) (p : Pkg) : (s.setPkg p).mem = s.mem := rfl
@[simp] theorem State.setPkg_poison (s : State) (p : Pkg) : (s.setPkg p).poison = s.poison := rfl
@[simp] theorem State.setPkg_hbmPoison (s : State) (p : Pkg) : (s.setPkg p).hbmPoison = s.hbmPoison := rfl
@[simp] theorem State.setPkg_badReplies (s : State) (p : Pkg) : (s.setPkg p).badReplies = s.badReplies := rfl
@[simp] theorem State.setPkg_badWrites (s : State) (p : Pkg) : (s.setPkg p).badWrites = s.badWrites := rfl
@[simp] theorem State.setPkg_errors (s : State) (p : Pkg) : (s.setPkg p).errors = s.errors := rfl
@[simp] theorem State.setPkg_pkgs (s : State) (p : Pkg) : (s.setPkg p).pkgs = putBy Pkg.id p s.pkgs := rfl
@[simp] theorem State.setPkg_dies (s : State) (p : Pkg) : (s.setPkg p).dies = s.dies := rfl
@[simp] theorem State.setPkg_clusters (s : State) (p : Pkg) : (s.setPkg p).clusters = s.clusters := rfl
@[simp] theorem State.setPkg_cores (s : State) (p : Pkg) : (s.setPkg p).cores = s.cores := rfl
@[simp] theorem State.setPkg_ctxs (s : State) (p : Pkg) : (s.setPkg p).ctxs = s.ctxs := rfl
@[simp] theorem State.setPkg_ctxPkgs (s : State) (p : Pkg) : (s.setPkg p).ctxPkgs = s.ctxPkgs := rfl
@[simp] theorem State.setPkg_ctxDies (s : State) (p : Pkg) : (s.setPkg p).ctxDies = s.ctxDies := rfl
@[simp] theorem State.setPkg_teams (s : State) (p : Pkg) : (s.setPkg p).teams = s.teams := rfl
@[simp] theorem State.setPkg_gangs (s : State) (p : Pkg) : (s.setPkg p).gangs = s.gangs := rfl
@[simp] theorem State.setPkg_launches (s : State) (p : Pkg) : (s.setPkg p).launches = s.launches := rfl
@[simp] theorem State.setPkg_crit (s : State) (p : Pkg) : (s.setPkg p).crit = s.crit := rfl
@[simp] theorem State.setPkg_nextCrit (s : State) (p : Pkg) : (s.setPkg p).nextCrit = s.nextCrit := rfl

/-! ### `State.setCtx` -/

@[simp] theorem State.setCtx_cur (s : State) (c : Ctx) : (s.setCtx c).cur = s.cur := rfl
@[simp] theorem State.setCtx_inbox (s : State) (c : Ctx) : (s.setCtx c).inbox = s.inbox := rfl
@[simp] theorem State.setCtx_turns (s : State) (c : Ctx) : (s.setCtx c).turns = s.turns := rfl
@[simp] theorem State.setCtx_tick (s : State) (c : Ctx) : (s.setCtx c).tick = s.tick := rfl
@[simp] theorem State.setCtx_mem (s : State) (c : Ctx) : (s.setCtx c).mem = s.mem := rfl
@[simp] theorem State.setCtx_poison (s : State) (c : Ctx) : (s.setCtx c).poison = s.poison := rfl
@[simp] theorem State.setCtx_hbmPoison (s : State) (c : Ctx) : (s.setCtx c).hbmPoison = s.hbmPoison := rfl
@[simp] theorem State.setCtx_badReplies (s : State) (c : Ctx) : (s.setCtx c).badReplies = s.badReplies := rfl
@[simp] theorem State.setCtx_badWrites (s : State) (c : Ctx) : (s.setCtx c).badWrites = s.badWrites := rfl
@[simp] theorem State.setCtx_errors (s : State) (c : Ctx) : (s.setCtx c).errors = s.errors := rfl
@[simp] theorem State.setCtx_pkgs (s : State) (c : Ctx) : (s.setCtx c).pkgs = s.pkgs := rfl
@[simp] theorem State.setCtx_dies (s : State) (c : Ctx) : (s.setCtx c).dies = s.dies := rfl
@[simp] theorem State.setCtx_clusters (s : State) (c : Ctx) : (s.setCtx c).clusters = s.clusters := rfl
@[simp] theorem State.setCtx_cores (s : State) (c : Ctx) : (s.setCtx c).cores = s.cores := rfl
@[simp] theorem State.setCtx_ctxs (s : State) (c : Ctx) : (s.setCtx c).ctxs = setBy Ctx.id c s.ctxs := rfl
@[simp] theorem State.setCtx_ctxPkgs (s : State) (c : Ctx) : (s.setCtx c).ctxPkgs = s.ctxPkgs := rfl
@[simp] theorem State.setCtx_ctxDies (s : State) (c : Ctx) : (s.setCtx c).ctxDies = s.ctxDies := rfl
@[simp] theorem State.setCtx_teams (s : State) (c : Ctx) : (s.setCtx c).teams = s.teams := rfl
@[simp] theorem State.setCtx_gangs (s : State) (c : Ctx) : (s.setCtx c).gangs = s.gangs := rfl
@[simp] theorem State.setCtx_launches (s : State) (c : Ctx) : (s.setCtx c).launches = s.launches := rfl
@[simp] theorem State.setCtx_crit (s : State) (c : Ctx) : (s.setCtx c).crit = s.crit := rfl
@[simp] theorem State.setCtx_nextCrit (s : State) (c : Ctx) : (s.setCtx c).nextCrit = s.nextCrit := rfl

/-! ### `State.setCtxPkg` -/

@[simp] theorem State.setCtxPkg_cur (s : State) (c : CtxPkg) : (s.setCtxPkg c).cur = s.cur := rfl
@[simp] theorem State.setCtxPkg_inbox (s : State) (c : CtxPkg) : (s.setCtxPkg c).inbox = s.inbox := rfl
@[simp] theorem State.setCtxPkg_turns (s : State) (c : CtxPkg) : (s.setCtxPkg c).turns = s.turns := rfl
@[simp] theorem State.setCtxPkg_tick (s : State) (c : CtxPkg) : (s.setCtxPkg c).tick = s.tick := rfl
@[simp] theorem State.setCtxPkg_mem (s : State) (c : CtxPkg) : (s.setCtxPkg c).mem = s.mem := rfl
@[simp] theorem State.setCtxPkg_poison (s : State) (c : CtxPkg) : (s.setCtxPkg c).poison = s.poison := rfl
@[simp] theorem State.setCtxPkg_hbmPoison (s : State) (c : CtxPkg) : (s.setCtxPkg c).hbmPoison = s.hbmPoison := rfl
@[simp] theorem State.setCtxPkg_badReplies (s : State) (c : CtxPkg) : (s.setCtxPkg c).badReplies = s.badReplies := rfl
@[simp] theorem State.setCtxPkg_badWrites (s : State) (c : CtxPkg) : (s.setCtxPkg c).badWrites = s.badWrites := rfl
@[simp] theorem State.setCtxPkg_errors (s : State) (c : CtxPkg) : (s.setCtxPkg c).errors = s.errors := rfl
@[simp] theorem State.setCtxPkg_pkgs (s : State) (c : CtxPkg) : (s.setCtxPkg c).pkgs = s.pkgs := rfl
@[simp] theorem State.setCtxPkg_dies (s : State) (c : CtxPkg) : (s.setCtxPkg c).dies = s.dies := rfl
@[simp] theorem State.setCtxPkg_clusters (s : State) (c : CtxPkg) : (s.setCtxPkg c).clusters = s.clusters := rfl
@[simp] theorem State.setCtxPkg_cores (s : State) (c : CtxPkg) : (s.setCtxPkg c).cores = s.cores := rfl
@[simp] theorem State.setCtxPkg_ctxs (s : State) (c : CtxPkg) : (s.setCtxPkg c).ctxs = s.ctxs := rfl
@[simp] theorem State.setCtxPkg_ctxPkgs (s : State) (c : CtxPkg) : (s.setCtxPkg c).ctxPkgs = putBy CtxPkg.key c s.ctxPkgs := rfl
@[simp] theorem State.setCtxPkg_ctxDies (s : State) (c : CtxPkg) : (s.setCtxPkg c).ctxDies = s.ctxDies := rfl
@[simp] theorem State.setCtxPkg_teams (s : State) (c : CtxPkg) : (s.setCtxPkg c).teams = s.teams := rfl
@[simp] theorem State.setCtxPkg_gangs (s : State) (c : CtxPkg) : (s.setCtxPkg c).gangs = s.gangs := rfl
@[simp] theorem State.setCtxPkg_launches (s : State) (c : CtxPkg) : (s.setCtxPkg c).launches = s.launches := rfl
@[simp] theorem State.setCtxPkg_crit (s : State) (c : CtxPkg) : (s.setCtxPkg c).crit = s.crit := rfl
@[simp] theorem State.setCtxPkg_nextCrit (s : State) (c : CtxPkg) : (s.setCtxPkg c).nextCrit = s.nextCrit := rfl

/-! ### `State.setCtxDie` -/

@[simp] theorem State.setCtxDie_cur (s : State) (c : CtxDie) : (s.setCtxDie c).cur = s.cur := rfl
@[simp] theorem State.setCtxDie_inbox (s : State) (c : CtxDie) : (s.setCtxDie c).inbox = s.inbox := rfl
@[simp] theorem State.setCtxDie_turns (s : State) (c : CtxDie) : (s.setCtxDie c).turns = s.turns := rfl
@[simp] theorem State.setCtxDie_tick (s : State) (c : CtxDie) : (s.setCtxDie c).tick = s.tick := rfl
@[simp] theorem State.setCtxDie_mem (s : State) (c : CtxDie) : (s.setCtxDie c).mem = s.mem := rfl
@[simp] theorem State.setCtxDie_poison (s : State) (c : CtxDie) : (s.setCtxDie c).poison = s.poison := rfl
@[simp] theorem State.setCtxDie_hbmPoison (s : State) (c : CtxDie) : (s.setCtxDie c).hbmPoison = s.hbmPoison := rfl
@[simp] theorem State.setCtxDie_badReplies (s : State) (c : CtxDie) : (s.setCtxDie c).badReplies = s.badReplies := rfl
@[simp] theorem State.setCtxDie_badWrites (s : State) (c : CtxDie) : (s.setCtxDie c).badWrites = s.badWrites := rfl
@[simp] theorem State.setCtxDie_errors (s : State) (c : CtxDie) : (s.setCtxDie c).errors = s.errors := rfl
@[simp] theorem State.setCtxDie_pkgs (s : State) (c : CtxDie) : (s.setCtxDie c).pkgs = s.pkgs := rfl
@[simp] theorem State.setCtxDie_dies (s : State) (c : CtxDie) : (s.setCtxDie c).dies = s.dies := rfl
@[simp] theorem State.setCtxDie_clusters (s : State) (c : CtxDie) : (s.setCtxDie c).clusters = s.clusters := rfl
@[simp] theorem State.setCtxDie_cores (s : State) (c : CtxDie) : (s.setCtxDie c).cores = s.cores := rfl
@[simp] theorem State.setCtxDie_ctxs (s : State) (c : CtxDie) : (s.setCtxDie c).ctxs = s.ctxs := rfl
@[simp] theorem State.setCtxDie_ctxPkgs (s : State) (c : CtxDie) : (s.setCtxDie c).ctxPkgs = s.ctxPkgs := rfl
@[simp] theorem State.setCtxDie_ctxDies (s : State) (c : CtxDie) : (s.setCtxDie c).ctxDies = putBy CtxDie.key c s.ctxDies := rfl
@[simp] theorem State.setCtxDie_teams (s : State) (c : CtxDie) : (s.setCtxDie c).teams = s.teams := rfl
@[simp] theorem State.setCtxDie_gangs (s : State) (c : CtxDie) : (s.setCtxDie c).gangs = s.gangs := rfl
@[simp] theorem State.setCtxDie_launches (s : State) (c : CtxDie) : (s.setCtxDie c).launches = s.launches := rfl
@[simp] theorem State.setCtxDie_crit (s : State) (c : CtxDie) : (s.setCtxDie c).crit = s.crit := rfl
@[simp] theorem State.setCtxDie_nextCrit (s : State) (c : CtxDie) : (s.setCtxDie c).nextCrit = s.nextCrit := rfl

/-! ### `State.setGang` -/

@[simp] theorem State.setGang_cur (s : State) (g : Gang) : (s.setGang g).cur = s.cur := rfl
@[simp] theorem State.setGang_inbox (s : State) (g : Gang) : (s.setGang g).inbox = s.inbox := rfl
@[simp] theorem State.setGang_turns (s : State) (g : Gang) : (s.setGang g).turns = s.turns := rfl
@[simp] theorem State.setGang_tick (s : State) (g : Gang) : (s.setGang g).tick = s.tick := rfl
@[simp] theorem State.setGang_mem (s : State) (g : Gang) : (s.setGang g).mem = s.mem := rfl
@[simp] theorem State.setGang_poison (s : State) (g : Gang) : (s.setGang g).poison = s.poison := rfl
@[simp] theorem State.setGang_hbmPoison (s : State) (g : Gang) : (s.setGang g).hbmPoison = s.hbmPoison := rfl
@[simp] theorem State.setGang_badReplies (s : State) (g : Gang) : (s.setGang g).badReplies = s.badReplies := rfl
@[simp] theorem State.setGang_badWrites (s : State) (g : Gang) : (s.setGang g).badWrites = s.badWrites := rfl
@[simp] theorem State.setGang_errors (s : State) (g : Gang) : (s.setGang g).errors = s.errors := rfl
@[simp] theorem State.setGang_pkgs (s : State) (g : Gang) : (s.setGang g).pkgs = s.pkgs := rfl
@[simp] theorem State.setGang_dies (s : State) (g : Gang) : (s.setGang g).dies = s.dies := rfl
@[simp] theorem State.setGang_clusters (s : State) (g : Gang) : (s.setGang g).clusters = s.clusters := rfl
@[simp] theorem State.setGang_cores (s : State) (g : Gang) : (s.setGang g).cores = s.cores := rfl
@[simp] theorem State.setGang_ctxs (s : State) (g : Gang) : (s.setGang g).ctxs = s.ctxs := rfl
@[simp] theorem State.setGang_ctxPkgs (s : State) (g : Gang) : (s.setGang g).ctxPkgs = s.ctxPkgs := rfl
@[simp] theorem State.setGang_ctxDies (s : State) (g : Gang) : (s.setGang g).ctxDies = s.ctxDies := rfl
@[simp] theorem State.setGang_teams (s : State) (g : Gang) : (s.setGang g).teams = s.teams := rfl
@[simp] theorem State.setGang_gangs (s : State) (g : Gang) : (s.setGang g).gangs = setBy Gang.id g s.gangs := rfl
@[simp] theorem State.setGang_launches (s : State) (g : Gang) : (s.setGang g).launches = s.launches := rfl
@[simp] theorem State.setGang_crit (s : State) (g : Gang) : (s.setGang g).crit = s.crit := rfl
@[simp] theorem State.setGang_nextCrit (s : State) (g : Gang) : (s.setGang g).nextCrit = s.nextCrit := rfl

/-! ### `State.setLaunch` -/

@[simp] theorem State.setLaunch_cur (s : State) (l : Launch) : (s.setLaunch l).cur = s.cur := rfl
@[simp] theorem State.setLaunch_inbox (s : State) (l : Launch) : (s.setLaunch l).inbox = s.inbox := rfl
@[simp] theorem State.setLaunch_turns (s : State) (l : Launch) : (s.setLaunch l).turns = s.turns := rfl
@[simp] theorem State.setLaunch_tick (s : State) (l : Launch) : (s.setLaunch l).tick = s.tick := rfl
@[simp] theorem State.setLaunch_mem (s : State) (l : Launch) : (s.setLaunch l).mem = s.mem := rfl
@[simp] theorem State.setLaunch_poison (s : State) (l : Launch) : (s.setLaunch l).poison = s.poison := rfl
@[simp] theorem State.setLaunch_hbmPoison (s : State) (l : Launch) : (s.setLaunch l).hbmPoison = s.hbmPoison := rfl
@[simp] theorem State.setLaunch_badReplies (s : State) (l : Launch) : (s.setLaunch l).badReplies = s.badReplies := rfl
@[simp] theorem State.setLaunch_badWrites (s : State) (l : Launch) : (s.setLaunch l).badWrites = s.badWrites := rfl
@[simp] theorem State.setLaunch_errors (s : State) (l : Launch) : (s.setLaunch l).errors = s.errors := rfl
@[simp] theorem State.setLaunch_pkgs (s : State) (l : Launch) : (s.setLaunch l).pkgs = s.pkgs := rfl
@[simp] theorem State.setLaunch_dies (s : State) (l : Launch) : (s.setLaunch l).dies = s.dies := rfl
@[simp] theorem State.setLaunch_clusters (s : State) (l : Launch) : (s.setLaunch l).clusters = s.clusters := rfl
@[simp] theorem State.setLaunch_cores (s : State) (l : Launch) : (s.setLaunch l).cores = s.cores := rfl
@[simp] theorem State.setLaunch_ctxs (s : State) (l : Launch) : (s.setLaunch l).ctxs = s.ctxs := rfl
@[simp] theorem State.setLaunch_ctxPkgs (s : State) (l : Launch) : (s.setLaunch l).ctxPkgs = s.ctxPkgs := rfl
@[simp] theorem State.setLaunch_ctxDies (s : State) (l : Launch) : (s.setLaunch l).ctxDies = s.ctxDies := rfl
@[simp] theorem State.setLaunch_teams (s : State) (l : Launch) : (s.setLaunch l).teams = s.teams := rfl
@[simp] theorem State.setLaunch_gangs (s : State) (l : Launch) : (s.setLaunch l).gangs = s.gangs := rfl
@[simp] theorem State.setLaunch_launches (s : State) (l : Launch) : (s.setLaunch l).launches = setBy Launch.id l s.launches := rfl
@[simp] theorem State.setLaunch_crit (s : State) (l : Launch) : (s.setLaunch l).crit = s.crit := rfl
@[simp] theorem State.setLaunch_nextCrit (s : State) (l : Launch) : (s.setLaunch l).nextCrit = s.nextCrit := rfl

/-! ### `State.bump` -/

@[simp] theorem State.bump_cur (s : State) : s.bump.cur = s.cur := rfl
@[simp] theorem State.bump_inbox (s : State) : s.bump.inbox = s.inbox := rfl
@[simp] theorem State.bump_turns (s : State) : s.bump.turns = s.turns := rfl
@[simp] theorem State.bump_tick (s : State) : s.bump.tick = s.tick + 1 := rfl
@[simp] theorem State.bump_mem (s : State) : s.bump.mem = s.mem := rfl
@[simp] theorem State.bump_poison (s : State) : s.bump.poison = s.poison := rfl
@[simp] theorem State.bump_hbmPoison (s : State) : s.bump.hbmPoison = s.hbmPoison := rfl
@[simp] theorem State.bump_badReplies (s : State) : s.bump.badReplies = s.badReplies := rfl
@[simp] theorem State.bump_badWrites (s : State) : s.bump.badWrites = s.badWrites := rfl
@[simp] theorem State.bump_errors (s : State) : s.bump.errors = s.errors := rfl
@[simp] theorem State.bump_pkgs (s : State) : s.bump.pkgs = s.pkgs := rfl
@[simp] theorem State.bump_dies (s : State) : s.bump.dies = s.dies := rfl
@[simp] theorem State.bump_clusters (s : State) : s.bump.clusters = s.clusters := rfl
@[simp] theorem State.bump_cores (s : State) : s.bump.cores = s.cores := rfl
@[simp] theorem State.bump_ctxs (s : State) : s.bump.ctxs = s.ctxs := rfl
@[simp] theorem State.bump_ctxPkgs (s : State) : s.bump.ctxPkgs = s.ctxPkgs := rfl
@[simp] theorem State.bump_ctxDies (s : State) : s.bump.ctxDies = s.ctxDies := rfl
@[simp] theorem State.bump_teams (s : State) : s.bump.teams = s.teams := rfl
@[simp] theorem State.bump_gangs (s : State) : s.bump.gangs = s.gangs := rfl
@[simp] theorem State.bump_launches (s : State) : s.bump.launches = s.launches := rfl
@[simp] theorem State.bump_crit (s : State) : s.bump.crit = s.crit := rfl
@[simp] theorem State.bump_nextCrit (s : State) : s.bump.nextCrit = s.nextCrit := rfl

/-! ### Updates of a team -/

@[simp] theorem Team.setLane_id (t : Team) (i : Nat) (l : Lane) : (t.setLane i l).id = t.id := rfl
@[simp] theorem Team.setLane_pkg (t : Team) (i : Nat) (l : Lane) : (t.setLane i l).pkg = t.pkg := rfl
@[simp] theorem Team.setLane_core (t : Team) (i : Nat) (l : Lane) : (t.setLane i l).core = t.core := rfl
@[simp] theorem Team.setLane_ctx (t : Team) (i : Nat) (l : Lane) : (t.setLane i l).ctx = t.ctx := rfl
@[simp] theorem Team.setLane_entry (t : Team) (i : Nat) (l : Lane) : (t.setLane i l).entry = t.entry := rfl
@[simp] theorem Team.setLane_handler (t : Team) (i : Nat) (l : Lane) : (t.setLane i l).handler = t.handler := rfl
@[simp] theorem Team.setLane_launch (t : Team) (i : Nat) (l : Lane) : (t.setLane i l).launch = t.launch := rfl
@[simp] theorem Team.setLane_gang (t : Team) (i : Nat) (l : Lane) : (t.setLane i l).gang = t.gang := rfl
@[simp] theorem Team.setLane_rank (t : Team) (i : Nat) (l : Lane) : (t.setLane i l).rank = t.rank := rfl
@[simp] theorem Team.setLane_lanes (t : Team) (i : Nat) (l : Lane) : (t.setLane i l).lanes = t.lanes.set i l := rfl
@[simp] theorem Team.setLane_s (t : Team) (i : Nat) (l : Lane) : (t.setLane i l).s = t.s := rfl
@[simp] theorem Team.setLane_k (t : Team) (i : Nat) (l : Lane) : (t.setLane i l).k = t.k := rfl
@[simp] theorem Team.setLane_j (t : Team) (i : Nat) (l : Lane) : (t.setLane i l).j = t.j := rfl
@[simp] theorem Team.setLane_fstat (t : Team) (i : Nat) (l : Lane) : (t.setLane i l).fstat = t.fstat := rfl
@[simp] theorem Team.setLane_splits (t : Team) (i : Nat) (l : Lane) : (t.setLane i l).splits = t.splits := rfl
@[simp] theorem Team.setLane_held (t : Team) (i : Nat) (l : Lane) : (t.setLane i l).held = t.held := rfl
@[simp] theorem Team.setLane_landings (t : Team) (i : Nat) (l : Lane) : (t.setLane i l).landings = t.landings := rfl
@[simp] theorem Team.setLane_nextLanding (t : Team) (i : Nat) (l : Lane) : (t.setLane i l).nextLanding = t.nextLanding := rfl
@[simp] theorem Team.setLane_badRegs (t : Team) (i : Nat) (l : Lane) : (t.setLane i l).badRegs = t.badRegs := rfl
@[simp] theorem Team.setLane_f (t : Team) (i : Nat) (l : Lane) : (t.setLane i l).f = t.f := rfl
@[simp] theorem Team.setLane_scratch (t : Team) (i : Nat) (l : Lane) : (t.setLane i l).scratch = t.scratch := rfl
@[simp] theorem Team.setLane_plane (t : Team) (i : Nat) (l : Lane) : (t.setLane i l).plane = t.plane := rfl
@[simp] theorem Team.setLane_savedPlanes (t : Team) (i : Nat) (l : Lane) : (t.setLane i l).savedPlanes = t.savedPlanes := rfl
@[simp] theorem Team.setLane_constLoaded (t : Team) (i : Nat) (l : Lane) : (t.setLane i l).constLoaded = t.constLoaded := rfl
@[simp] theorem Team.setLane_prio (t : Team) (i : Nat) (l : Lane) : (t.setLane i l).prio = t.prio := rfl
@[simp] theorem Team.setLane_age (t : Team) (i : Nat) (l : Lane) : (t.setLane i l).age = t.age := rfl
@[simp] theorem Team.setLane_waiting (t : Team) (i : Nat) (l : Lane) : (t.setLane i l).waiting = t.waiting := rfl
@[simp] theorem Team.setLane_rejections (t : Team) (i : Nat) (l : Lane) : (t.setLane i l).rejections = t.rejections := rfl
@[simp] theorem Team.setLane_reserved (t : Team) (i : Nat) (l : Lane) : (t.setLane i l).reserved = t.reserved := rfl
@[simp] theorem Team.setLane_clock (t : Team) (i : Nat) (l : Lane) : (t.setLane i l).clock = t.clock := rfl
@[simp] theorem Team.setLane_placedAt (t : Team) (i : Nat) (l : Lane) : (t.setLane i l).placedAt = t.placedAt := rfl
@[simp] theorem Team.setLane_resident (t : Team) (i : Nat) (l : Lane) : (t.setLane i l).resident = t.resident := rfl
@[simp] theorem Team.setLane_metered (t : Team) (i : Nat) (l : Lane) : (t.setLane i l).metered = t.metered := rfl
@[simp] theorem Team.setLane_triggered (t : Team) (i : Nat) (l : Lane) : (t.setLane i l).triggered = t.triggered := rfl
@[simp] theorem Team.setLane_scribeFaults (t : Team) (i : Nat) (l : Lane) : (t.setLane i l).scribeFaults = t.scribeFaults := rfl
@[simp] theorem Team.setLane_elemFaults (t : Team) (i : Nat) (l : Lane) : (t.setLane i l).elemFaults = t.elemFaults := rfl
@[simp] theorem Team.setLane_preempt (t : Team) (i : Nat) (l : Lane) : (t.setLane i l).preempt = t.preempt := rfl
@[simp] theorem Team.setLane_saving (t : Team) (i : Nat) (l : Lane) : (t.setLane i l).saving = t.saving := rfl
@[simp] theorem Team.setLane_status (t : Team) (i : Nat) (l : Lane) : (t.setLane i l).status = t.status := rfl
@[simp] theorem Team.setLane_wasHeld (t : Team) (i : Nat) (l : Lane) : (t.setLane i l).wasHeld = t.wasHeld := rfl
@[simp] theorem Team.setLane_resumeAt (t : Team) (i : Nat) (l : Lane) : (t.setLane i l).resumeAt = t.resumeAt := rfl
@[simp] theorem Team.setLane_timer (t : Team) (i : Nat) (l : Lane) : (t.setLane i l).timer = t.timer := rfl

@[simp] theorem Team.setSplit_id (t : Team) (x : Split) : (t.setSplit x).id = t.id := rfl
@[simp] theorem Team.setSplit_pkg (t : Team) (x : Split) : (t.setSplit x).pkg = t.pkg := rfl
@[simp] theorem Team.setSplit_core (t : Team) (x : Split) : (t.setSplit x).core = t.core := rfl
@[simp] theorem Team.setSplit_ctx (t : Team) (x : Split) : (t.setSplit x).ctx = t.ctx := rfl
@[simp] theorem Team.setSplit_entry (t : Team) (x : Split) : (t.setSplit x).entry = t.entry := rfl
@[simp] theorem Team.setSplit_handler (t : Team) (x : Split) : (t.setSplit x).handler = t.handler := rfl
@[simp] theorem Team.setSplit_launch (t : Team) (x : Split) : (t.setSplit x).launch = t.launch := rfl
@[simp] theorem Team.setSplit_gang (t : Team) (x : Split) : (t.setSplit x).gang = t.gang := rfl
@[simp] theorem Team.setSplit_rank (t : Team) (x : Split) : (t.setSplit x).rank = t.rank := rfl
@[simp] theorem Team.setSplit_lanes (t : Team) (x : Split) : (t.setSplit x).lanes = t.lanes := rfl
@[simp] theorem Team.setSplit_s (t : Team) (x : Split) : (t.setSplit x).s = t.s := rfl
@[simp] theorem Team.setSplit_k (t : Team) (x : Split) : (t.setSplit x).k = t.k := rfl
@[simp] theorem Team.setSplit_j (t : Team) (x : Split) : (t.setSplit x).j = t.j := rfl
@[simp] theorem Team.setSplit_fstat (t : Team) (x : Split) : (t.setSplit x).fstat = t.fstat := rfl
@[simp] theorem Team.setSplit_splits (t : Team) (x : Split) : (t.setSplit x).splits = setBy Split.id x t.splits := rfl
@[simp] theorem Team.setSplit_held (t : Team) (x : Split) : (t.setSplit x).held = t.held := rfl
@[simp] theorem Team.setSplit_landings (t : Team) (x : Split) : (t.setSplit x).landings = t.landings := rfl
@[simp] theorem Team.setSplit_nextLanding (t : Team) (x : Split) : (t.setSplit x).nextLanding = t.nextLanding := rfl
@[simp] theorem Team.setSplit_badRegs (t : Team) (x : Split) : (t.setSplit x).badRegs = t.badRegs := rfl
@[simp] theorem Team.setSplit_f (t : Team) (x : Split) : (t.setSplit x).f = t.f := rfl
@[simp] theorem Team.setSplit_scratch (t : Team) (x : Split) : (t.setSplit x).scratch = t.scratch := rfl
@[simp] theorem Team.setSplit_plane (t : Team) (x : Split) : (t.setSplit x).plane = t.plane := rfl
@[simp] theorem Team.setSplit_savedPlanes (t : Team) (x : Split) : (t.setSplit x).savedPlanes = t.savedPlanes := rfl
@[simp] theorem Team.setSplit_constLoaded (t : Team) (x : Split) : (t.setSplit x).constLoaded = t.constLoaded := rfl
@[simp] theorem Team.setSplit_prio (t : Team) (x : Split) : (t.setSplit x).prio = t.prio := rfl
@[simp] theorem Team.setSplit_age (t : Team) (x : Split) : (t.setSplit x).age = t.age := rfl
@[simp] theorem Team.setSplit_waiting (t : Team) (x : Split) : (t.setSplit x).waiting = t.waiting := rfl
@[simp] theorem Team.setSplit_rejections (t : Team) (x : Split) : (t.setSplit x).rejections = t.rejections := rfl
@[simp] theorem Team.setSplit_reserved (t : Team) (x : Split) : (t.setSplit x).reserved = t.reserved := rfl
@[simp] theorem Team.setSplit_clock (t : Team) (x : Split) : (t.setSplit x).clock = t.clock := rfl
@[simp] theorem Team.setSplit_placedAt (t : Team) (x : Split) : (t.setSplit x).placedAt = t.placedAt := rfl
@[simp] theorem Team.setSplit_resident (t : Team) (x : Split) : (t.setSplit x).resident = t.resident := rfl
@[simp] theorem Team.setSplit_metered (t : Team) (x : Split) : (t.setSplit x).metered = t.metered := rfl
@[simp] theorem Team.setSplit_triggered (t : Team) (x : Split) : (t.setSplit x).triggered = t.triggered := rfl
@[simp] theorem Team.setSplit_scribeFaults (t : Team) (x : Split) : (t.setSplit x).scribeFaults = t.scribeFaults := rfl
@[simp] theorem Team.setSplit_elemFaults (t : Team) (x : Split) : (t.setSplit x).elemFaults = t.elemFaults := rfl
@[simp] theorem Team.setSplit_preempt (t : Team) (x : Split) : (t.setSplit x).preempt = t.preempt := rfl
@[simp] theorem Team.setSplit_saving (t : Team) (x : Split) : (t.setSplit x).saving = t.saving := rfl
@[simp] theorem Team.setSplit_status (t : Team) (x : Split) : (t.setSplit x).status = t.status := rfl
@[simp] theorem Team.setSplit_wasHeld (t : Team) (x : Split) : (t.setSplit x).wasHeld = t.wasHeld := rfl
@[simp] theorem Team.setSplit_resumeAt (t : Team) (x : Split) : (t.setSplit x).resumeAt = t.resumeAt := rfl
@[simp] theorem Team.setSplit_timer (t : Team) (x : Split) : (t.setSplit x).timer = t.timer := rfl

@[simp] theorem Team.delSplit_id (t : Team) (i : Nat) : (t.delSplit i).id = t.id := rfl
@[simp] theorem Team.delSplit_pkg (t : Team) (i : Nat) : (t.delSplit i).pkg = t.pkg := rfl
@[simp] theorem Team.delSplit_core (t : Team) (i : Nat) : (t.delSplit i).core = t.core := rfl
@[simp] theorem Team.delSplit_ctx (t : Team) (i : Nat) : (t.delSplit i).ctx = t.ctx := rfl
@[simp] theorem Team.delSplit_entry (t : Team) (i : Nat) : (t.delSplit i).entry = t.entry := rfl
@[simp] theorem Team.delSplit_handler (t : Team) (i : Nat) : (t.delSplit i).handler = t.handler := rfl
@[simp] theorem Team.delSplit_launch (t : Team) (i : Nat) : (t.delSplit i).launch = t.launch := rfl
@[simp] theorem Team.delSplit_gang (t : Team) (i : Nat) : (t.delSplit i).gang = t.gang := rfl
@[simp] theorem Team.delSplit_rank (t : Team) (i : Nat) : (t.delSplit i).rank = t.rank := rfl
@[simp] theorem Team.delSplit_lanes (t : Team) (i : Nat) : (t.delSplit i).lanes = t.lanes := rfl
@[simp] theorem Team.delSplit_s (t : Team) (i : Nat) : (t.delSplit i).s = t.s := rfl
@[simp] theorem Team.delSplit_k (t : Team) (i : Nat) : (t.delSplit i).k = t.k := rfl
@[simp] theorem Team.delSplit_j (t : Team) (i : Nat) : (t.delSplit i).j = t.j := rfl
@[simp] theorem Team.delSplit_fstat (t : Team) (i : Nat) : (t.delSplit i).fstat = t.fstat := rfl
@[simp] theorem Team.delSplit_splits (t : Team) (i : Nat) : (t.delSplit i).splits = delBy Split.id i t.splits := rfl
@[simp] theorem Team.delSplit_held (t : Team) (i : Nat) : (t.delSplit i).held = t.held := rfl
@[simp] theorem Team.delSplit_landings (t : Team) (i : Nat) : (t.delSplit i).landings = t.landings := rfl
@[simp] theorem Team.delSplit_nextLanding (t : Team) (i : Nat) : (t.delSplit i).nextLanding = t.nextLanding := rfl
@[simp] theorem Team.delSplit_badRegs (t : Team) (i : Nat) : (t.delSplit i).badRegs = t.badRegs := rfl
@[simp] theorem Team.delSplit_f (t : Team) (i : Nat) : (t.delSplit i).f = t.f := rfl
@[simp] theorem Team.delSplit_scratch (t : Team) (i : Nat) : (t.delSplit i).scratch = t.scratch := rfl
@[simp] theorem Team.delSplit_plane (t : Team) (i : Nat) : (t.delSplit i).plane = t.plane := rfl
@[simp] theorem Team.delSplit_savedPlanes (t : Team) (i : Nat) : (t.delSplit i).savedPlanes = t.savedPlanes := rfl
@[simp] theorem Team.delSplit_constLoaded (t : Team) (i : Nat) : (t.delSplit i).constLoaded = t.constLoaded := rfl
@[simp] theorem Team.delSplit_prio (t : Team) (i : Nat) : (t.delSplit i).prio = t.prio := rfl
@[simp] theorem Team.delSplit_age (t : Team) (i : Nat) : (t.delSplit i).age = t.age := rfl
@[simp] theorem Team.delSplit_waiting (t : Team) (i : Nat) : (t.delSplit i).waiting = t.waiting := rfl
@[simp] theorem Team.delSplit_rejections (t : Team) (i : Nat) : (t.delSplit i).rejections = t.rejections := rfl
@[simp] theorem Team.delSplit_reserved (t : Team) (i : Nat) : (t.delSplit i).reserved = t.reserved := rfl
@[simp] theorem Team.delSplit_clock (t : Team) (i : Nat) : (t.delSplit i).clock = t.clock := rfl
@[simp] theorem Team.delSplit_placedAt (t : Team) (i : Nat) : (t.delSplit i).placedAt = t.placedAt := rfl
@[simp] theorem Team.delSplit_resident (t : Team) (i : Nat) : (t.delSplit i).resident = t.resident := rfl
@[simp] theorem Team.delSplit_metered (t : Team) (i : Nat) : (t.delSplit i).metered = t.metered := rfl
@[simp] theorem Team.delSplit_triggered (t : Team) (i : Nat) : (t.delSplit i).triggered = t.triggered := rfl
@[simp] theorem Team.delSplit_scribeFaults (t : Team) (i : Nat) : (t.delSplit i).scribeFaults = t.scribeFaults := rfl
@[simp] theorem Team.delSplit_elemFaults (t : Team) (i : Nat) : (t.delSplit i).elemFaults = t.elemFaults := rfl
@[simp] theorem Team.delSplit_preempt (t : Team) (i : Nat) : (t.delSplit i).preempt = t.preempt := rfl
@[simp] theorem Team.delSplit_saving (t : Team) (i : Nat) : (t.delSplit i).saving = t.saving := rfl
@[simp] theorem Team.delSplit_status (t : Team) (i : Nat) : (t.delSplit i).status = t.status := rfl
@[simp] theorem Team.delSplit_wasHeld (t : Team) (i : Nat) : (t.delSplit i).wasHeld = t.wasHeld := rfl
@[simp] theorem Team.delSplit_resumeAt (t : Team) (i : Nat) : (t.delSplit i).resumeAt = t.resumeAt := rfl
@[simp] theorem Team.delSplit_timer (t : Team) (i : Nat) : (t.delSplit i).timer = t.timer := rfl

end Sys2Proof.Machine
end

