-- ==== Sys2Proof/Laws/Tables.lean ====
section
/-! SUPPORT. Tables keyed by a number: what is found after an entry was put, replaced or deleted. -/
namespace Sys2Proof.Machine

variable {α : Type} {key : α → Nat}

theorem getBy_key {l : List α} {k : Nat} {x : α} (h : getBy key k l = some x) : key x = k := by
  induction l with
  | nil => simp [getBy] at h
  | cons y l ih =>
    simp only [getBy] at h
    split at h
    · next hy => cases h; exact hy
    · exact ih h

theorem getBy_mem {l : List α} {k : Nat} {x : α} (h : getBy key k l = some x) : x ∈ l := by
  induction l with
  | nil => simp [getBy] at h
  | cons y l ih =>
    simp only [getBy] at h
    split at h
    · cases h; simp
    · exact List.mem_cons_of_mem _ (ih h)

/-- In a table without double keys every entry is found under its key. -/
theorem getBy_of_mem {l : List α} {x : α} (h : (l.map key).Nodup) (hx : x ∈ l) : getBy key (key x) l = some x := by
  induction l with
  | nil => cases hx
  | cons y l ih =>
    simp only [List.map_cons, List.nodup_cons] at h
    simp only [getBy]
    split
    · next hy =>
      rcases List.mem_cons.mp hx with rfl | hx
      · rfl
      · exact absurd (hy ▸ List.mem_map_of_mem hx) h.1
    · next hy =>
      rcases List.mem_cons.mp hx with rfl | hx
      · exact absurd rfl hy
      · exact ih h.2 hx

/-- After putting an entry it is found under its key, and every other key as before. -/
theorem getBy_putBy (x : α) (k : Nat) (l : List α) :
    getBy key k (putBy key x l) = if key x = k then some x else getBy key k l := by
  induction l with
  | nil => simp [putBy, getBy]
  | cons y l ih =>
    simp only [putBy]
    split
    · next hy => simp only [getBy, hy]; split <;> rfl
    · next hy =>
      simp only [getBy, ih]
      split
      · next hk => simp [show key x ≠ k by omega]
      · rfl

@[simp] theorem getBy_putBy_self (x : α) (l : List α) : getBy key (key x) (putBy key x l) = some x := by
  simp [getBy_putBy]

theorem getBy_putBy_ne {x : α} {k : Nat} (h : key x ≠ k) (l : List α) :
    getBy key k (putBy key x l) = getBy key k l := by simp [getBy_putBy, h]

/-- Replacing changes what is found only under the key of an entry that exists. -/
theorem getBy_setBy (x : α) (k : Nat) (l : List α) :
    getBy key k (setBy key x l) = if key x = k then (getBy key k l).map fun _ => x else getBy key k l := by
  induction l with
  | nil => simp [setBy, getBy]
  | cons y l ih =>
    simp only [setBy]
    split
    · next hy =>
      simp only [getBy, hy]
      split <;> simp
    · next hy =>
      simp only [getBy, ih]
      split
      · next hk => simp [show key x ≠ k by omega]
      · rfl

theorem getBy_setBy_self {x y : α} {l : List α} (h : getBy key (key x) l = some y) :
    getBy key (key x) (setBy key x l) = some x := by simp [getBy_setBy, h]

theorem getBy_setBy_ne {x : α} {k : Nat} (h : key x ≠ k) (l : List α) :
    getBy key k (setBy key x l) = getBy key k l := by simp [getBy_setBy, h]

/-- A second replacement under the same key overrides the first. -/
@[simp] theorem setBy_setBy {x y : α} (h : key x = key y) (l : List α) :
    setBy key x (setBy key y l) = setBy key x l := by
  induction l with
  | nil => rfl
  | cons z l ih =>
    by_cases hz : key z = key y
    · simp [setBy, hz, h]
    · have hz' : key z ≠ key x := by omega
      simp [setBy, hz, hz', ih]

theorem getBy_delBy (k j : Nat) (l : List α) :
    getBy key k (delBy key j l) = if k = j then none else getBy key k l := by
  induction l with
  | nil => simp [delBy, getBy]
  | cons y l ih =>
    by_cases hy : key y = j
    · have h1 : delBy key j (y :: l) = delBy key j l := by simp [delBy, hy]
      rw [h1, ih, getBy]
      split
      · rfl
      · next hk => simp [hy, Ne.symm hk]
    · have h1 : delBy key j (y :: l) = y :: delBy key j l := by simp [delBy, hy]
      rw [h1, getBy, ih, getBy]
      by_cases hk : key y = k
      · have : k ≠ j := by omega
        simp [hk, this]
      · simp [hk]

/-! ### The tables of the state -/

theorem State.team?_setTeam {s : State} {t u : Team} (h : s.team? t.key = some u) :
    (s.setTeam t).team? t.key = some t := getBy_setBy_self h

theorem State.team?_setTeam_ne {s : State} {t : Team} {k : Nat} (h : t.key ≠ k) :
    (s.setTeam t).team? k = s.team? k := getBy_setBy_ne h s.teams

theorem Team.split?_setSplit {t : Team} {x y : Split} (h : t.split? x.id = some y) :
    (t.setSplit x).split? x.id = some x := getBy_setBy_self h

theorem Team.split?_setSplit_ne {t : Team} {x : Split} {i : Nat} (h : x.id ≠ i) :
    (t.setSplit x).split? i = t.split? i := getBy_setBy_ne h t.splits

@[simp] theorem State.core_setCore (s : State) (c : Core) : (s.setCore c).core c.id = c := by
  simp [State.core, State.setCore]

theorem State.core_setCore_ne {s : State} {c : Core} {k : Nat} (h : c.id ≠ k) : (s.setCore c).core k = s.core k := by
  simp [State.core, State.setCore, getBy_putBy_ne h]

@[simp] theorem State.die_setDie (s : State) (d : Die) : (s.setDie d).die d.id = d := by
  simp [State.die, State.setDie]

theorem State.die_setDie_ne {s : State} {d : Die} {k : Nat} (h : d.id ≠ k) : (s.setDie d).die k = s.die k := by
  simp [State.die, State.setDie, getBy_putBy_ne h]

@[simp] theorem State.pkg_setPkg (s : State) (p : Pkg) : (s.setPkg p).pkg p.id = p := by
  simp [State.pkg, State.setPkg]

theorem State.pkg_setPkg_ne {s : State} {p : Pkg} {k : Nat} (h : p.id ≠ k) : (s.setPkg p).pkg k = s.pkg k := by
  simp [State.pkg, State.setPkg, getBy_putBy_ne h]

/-- A unit that no list holds has the values that its structure states. -/
theorem State.core_id (s : State) (c : Nat) : (s.core c).id = c := by
  unfold State.core
  cases h : getBy Core.id c s.cores with
  | none => rfl
  | some x => exact getBy_key h

theorem State.die_id (s : State) (d : Nat) : (s.die d).id = d := by
  unfold State.die
  cases h : getBy Die.id d s.dies with
  | none => rfl
  | some x => exact getBy_key h

theorem State.pkg_id (s : State) (p : Nat) : (s.pkg p).id = p := by
  unfold State.pkg
  cases h : getBy Pkg.id p s.pkgs with
  | none => rfl
  | some x => exact getBy_key h

theorem State.ctx?_setCtx {s : State} {c d : Ctx} (h : s.ctx? c.id = some d) : (s.setCtx c).ctx? c.id = some c :=
  getBy_setBy_self h

theorem State.gang?_setGang {s : State} {g h : Gang} (hg : s.gang? g.id = some h) : (s.setGang g).gang? g.id = some g :=
  getBy_setBy_self hg

theorem State.ctxPkg_key (s : State) (c p : Nat) : (s.ctxPkg c p).key = c * 512 + p := by
  unfold State.ctxPkg
  cases h : getBy CtxPkg.key (c * 512 + p) s.ctxPkgs with
  | none => rfl
  | some x => exact getBy_key h

theorem State.ctxDie_key (s : State) (c d : Nat) : (s.ctxDie c d).key = c * 2048 + d := by
  unfold State.ctxDie
  cases h : getBy CtxDie.key (c * 2048 + d) s.ctxDies with
  | none => rfl
  | some x => exact getBy_key h

end Sys2Proof.Machine
end

