-- ==== Sys2Proof/Laws/Frame.lean ====
section
/-! SUPPORT. What the frame of an instruction can do: an issue with no lane, with a check that fails, with its effect;
popping; the writes of lane instructions. -/
namespace Sys2Proof.Machine

/-! ### Issuing (R40) -/

/-- An issue never faults. -/
theorem issue_not_fault (i : Instr) (s : State) (body : Ex1 → State → State) (f : Fault) :
    issue i s body ≠ .fault f := by
  unfold issue
  split
  · simp
  · split <;> simp

/-- With no contributing lane an instruction only goes on. -/
theorem issue_idle {i : Instr} {s : State} {e : Ex1} {h : Head} (hf : i.fields.map Prod.fst = some h)
    (hc : s.current h.guard = some e) (hn : e.slots = []) (body : Ex1 → State → State) :
    issue i s body = .next (s.setTeam (e.advance e.t)) := by
  obtain ⟨p, hp⟩ : ∃ p, i.fields = some (h, p) := by
    cases hi : i.fields with
    | none => simp [hi] at hf
    | some q => obtain ⟨a, b⟩ := q; simp [hi] at hf; exact ⟨b, by rw [hf]⟩
  simp [issue, hp, hc, hn]

/-- With checks 6 and 7 met, an instruction has its effect. -/
theorem issue_next {i : Instr} {s : State} {e : Ex1} {h : Head} (hf : i.fields.map Prod.fst = some h)
    (hc : s.current h.guard = some e) (hn : e.slots ≠ []) (ho : operandsAllowed i e.t e.x.trap.isSome = true)
    (ht : fpTypeOk i = true) (body : Ex1 → State → State) : issue i s body = .next (body e s) := by
  obtain ⟨p, hp⟩ : ∃ p, i.fields = some (h, p) := by
    cases hi : i.fields with
    | none => simp [hi] at hf
    | some q => obtain ⟨a, b⟩ := q; simp [hi] at hf; exact ⟨b, by rw [hf]⟩
  simp [issue, hp, hc, hn, ho, ht]

/-- Check 6. -/
theorem issue_operand {i : Instr} {s : State} {e : Ex1} {h : Head} (hf : i.fields.map Prod.fst = some h)
    (hc : s.current h.guard = some e) (hn : e.slots ≠ []) (ho : operandsAllowed i e.t e.x.trap.isSome = false)
    (body : Ex1 → State → State) : issue i s body = .next (e.decodeFault s codeIllegalOperand) := by
  obtain ⟨p, hp⟩ : ∃ p, i.fields = some (h, p) := by
    cases hi : i.fields with
    | none => simp [hi] at hf
    | some q => obtain ⟨a, b⟩ := q; simp [hi] at hf; exact ⟨b, by rw [hf]⟩
  simp [issue, hp, hc, hn, ho]

/-- The executing split, its team, and the lanes that contribute. -/
theorem State.current_eq {s : State} {g : Guard} {t : Team} {x : Split} (ht : s.team? s.cur.team = some t)
    (hx : t.split? s.cur.split = some x) :
    s.current g = some
      { t := t, x := x, pc := s.cur.pc, word := s.cur.word
        slots := (maskSlots x.mask).filter fun i => guardHolds (t.lane i) g && !slotIn s.cur.except i } := by
  simp [State.current, ht, hx]

/-! ### Popping -/

/-- No source field is a queue. -/
def noQueue (o : Ops) : Prop := (∀ q, o.a ≠ .f q) ∧ (∀ q, o.b ≠ .f q) ∧ ∀ q, o.c ≠ .f q

theorem popsField_none {i : Instr} {p : Operand} (h : ∀ q, p ≠ .f q) : popsField i p = none := by
  unfold popsField
  split <;> simp_all

/-- Without a queue nothing is popped. -/
theorem popFields_none {o : Ops} (h : noQueue o) (slots : List Nat) (i : Instr) (t : Team) :
    popFields slots i o t = .ok (t, {}) := by
  obtain ⟨ha, hb, hc⟩ := h
  simp [popFields, popField, popsField_none ha, popsField_none hb, popsField_none hc]

theorem withPopsOn_ok {slots : List Nat} {i : Instr} {o : Ops} {e : Ex1} {s : State} {t : Team} {p : Pops}
    (h : popFields slots i o e.t = .ok (t, p)) (k : Ex1 → Pops → State → State) :
    withPopsOn slots i o e s k = k { e with t := t } p s := by simp [withPopsOn, h]

/-! ### Going on -/

theorem Ex1.advance_found {e : Ex1} {t : Team} {x : Split} (h : t.split? e.x.id = some x) :
    e.advance t = t.setSplit
      { x.clear with pc := pcNext e.pc, wait := .ready, block := .none } := by
  simp [Ex1.advance, h]

/-- Going on changes nothing of a team but its split table. -/
theorem Ex1.advance_frame (e : Ex1) (t : Team) : ∃ l, e.advance t = { t with splits := l } := by
  unfold Ex1.advance
  split
  · exact ⟨_, rfl⟩
  · exact ⟨t.splits, rfl⟩

@[simp] theorem Ex1.advance_key (e : Ex1) (t : Team) : (e.advance t).key = t.key := by
  obtain ⟨l, h⟩ := e.advance_frame t
  rw [h]; rfl

/-- Energy changes only what is metered. -/
theorem State.charge_frame (s : State) (t : Team) (c u : Nat) : ∃ m, s.charge t c u = { t with metered := m } := ⟨_, rfl⟩

@[simp] theorem State.charge_key (s : State) (t : Team) (c u : Nat) : (s.charge t c u).key = t.key := rfl

/-! ### Lane instructions -/

/-- The writes of all lanes in slot order, and their flags together. -/
theorem laneResults_eq (t : Team) (o : Ops) (p : Pops) (imm : Nat → Word) (slots : List Nat)
    (f : Src → List RegWrite × Flags) :
    laneResults t o p imm slots f =
      (slots.flatMap fun i => (f (sources t o p imm i)).1,
        slots.foldl (fun g i => g ||| (f (sources t o p imm i)).2) 0) := by
  have h (ws : List RegWrite) (fl : Flags) :
      slots.foldl (fun (x : List RegWrite × Flags) slot =>
        (x.1 ++ (f (sources t o p imm slot)).1, x.2 ||| (f (sources t o p imm slot)).2)) (ws, fl) =
      (ws ++ slots.flatMap fun i => (f (sources t o p imm i)).1,
        slots.foldl (fun g i => g ||| (f (sources t o p imm i)).2) fl) := by
    induction slots generalizing ws fl with
    | nil => simp
    | cons a l ih => simp [ih]
  exact (h [] 0).trans (by simp)

/-- Writing registers keeps the flags, the splits, the held traps, the entry state and the results in flight. -/
theorem Team.applyWrites_keeps (t : Team) (ws : List RegWrite) : (t.applyWrites ws).fstat = t.fstat ∧
    (t.applyWrites ws).splits = t.splits ∧ (t.applyWrites ws).held = t.held ∧ (t.applyWrites ws).entry = t.entry ∧
    (t.applyWrites ws).landings = t.landings := by
  induction ws generalizing t with
  | nil => exact ⟨rfl, rfl, rfl, rfl, rfl⟩
  | cons w ws ih =>
    have := ih (w.apply t)
    simp only [Team.applyWrites, List.foldl_cons] at this ⊢
    simp only [this]
    unfold RegWrite.apply Team.regWrite
    split <;> exact ⟨rfl, rfl, rfl, rfl, rfl⟩

/-- A lane instruction whose queues deliver: the writes of its lanes, its flags, and the next instruction. -/
theorem execLaneWrites_next {i : Instr} {o : Ops} {imm : Nat → Word} {cls : Nat} {s : State} {e : Ex1} {h : Head}
    {f : Src → List RegWrite × Flags} (hf : i.fields.map Prod.fst = some h) (hc : s.current h.guard = some e)
    (hn : e.slots ≠ []) (ho : operandsAllowed i e.t e.x.trap.isSome = true) (ht : fpTypeOk i = true)
    {t : Team} {p : Pops} (hp : popFields (execSlots o.d e.slots) i o e.t = .ok (t, p)) :
    execLaneWrites i o imm cls s f = .next (s.setTeam ({ e with t := t }.advance (s.charge
      { t.applyWrites (laneResults t o p imm (execSlots o.d e.slots) f).1 with
        fstat := t.fstat ||| (laneResults t o p imm (execSlots o.d e.slots) f).2 } cls (passes e.x.mask)))) := by
  unfold execLaneWrites
  rw [issue_next hf hc hn ho ht, withPops, withPopsOn_ok hp]
  simp only [Team.applyWrites_keeps]

end Sys2Proof.Machine
end

