-- ==== Sys2Proof/Laws/Memory.lean ====
section
/-! SUPPORT. Byte memories: read after write, and that every operation on them keeps the canonical form. -/
namespace Sys2Proof.Machine

/-! ### The form -/

/-- A memory whose keys lie above `lo` reads 0 at and below it. -/
theorem Mem.get_below {m : Mem} {lo a : Nat} (h : Mem.wfFrom (some lo) m = true) (ha : a ≤ lo) : m.get a = 0 := by
  cases m with
  | nil => rfl
  | cons p m =>
    obtain ⟨k, b⟩ := p
    simp only [Mem.wfFrom, Bool.and_eq_true, decide_eq_true_eq] at h
    have hk : lo < k := h.1.1
    simp only [Mem.get]
    rw [if_neg (by omega), if_neg (by omega)]

/-- A bound may be lowered. -/
theorem Mem.wfFrom_mono {m : Mem} {lo hi : Nat} (h : Mem.wfFrom (some hi) m = true) (hl : lo ≤ hi) :
    Mem.wfFrom (some lo) m = true := by
  cases m with
  | nil => rfl
  | cons p m =>
    obtain ⟨k, b⟩ := p
    simp only [Mem.wfFrom, Bool.and_eq_true, decide_eq_true_eq] at h ⊢
    exact ⟨⟨by omega, h.1.2⟩, h.2⟩

theorem Mem.wfFrom_none {m : Mem} {lo : Nat} (h : Mem.wfFrom (some lo) m = true) : Mem.wfFrom none m = true := by
  cases m with
  | nil => rfl
  | cons p m =>
    obtain ⟨k, b⟩ := p
    simp only [Mem.wfFrom, Bool.and_eq_true] at h ⊢
    exact ⟨⟨trivial, h.1.2⟩, h.2⟩

/-- Writing above a bound keeps what the form says above it. -/
theorem Mem.set_wfFrom {m : Mem} {lo a : Nat} (b : Byte) (h : Mem.wfFrom (some lo) m = true) (ha : lo < a) :
    Mem.wfFrom (some lo) (m.set a b) = true := by
  induction m generalizing lo with
  | nil =>
    simp only [Mem.set]
    split
    · rfl
    · simp_all [Mem.wfFrom]
  | cons p m ih =>
    obtain ⟨k, c⟩ := p
    simp only [Mem.wfFrom, Bool.and_eq_true, decide_eq_true_eq] at h
    obtain ⟨⟨hk, hc⟩, hm⟩ := h
    simp only [Mem.set]
    split
    · next hka => have := ih hm hka; simp_all [Mem.wfFrom]
    · split
      · next hka =>
        subst hka
        split
        · exact Mem.wfFrom_mono hm (by omega)
        · simp_all [Mem.wfFrom]
      · split
        · simp_all [Mem.wfFrom]
        · have : a < k := by omega
          simp_all [Mem.wfFrom]

/-- A write of one byte keeps the canonical form. -/
theorem Mem.set_wf {m : Mem} (a : Nat) (b : Byte) (h : m.wf = true) : (m.set a b).wf = true := by
  cases m with
  | nil =>
    simp only [Mem.set]
    split
    · rfl
    · simp_all [Mem.wf, Mem.wfFrom]
  | cons p m =>
    obtain ⟨k, c⟩ := p
    simp only [Mem.wf, Mem.wfFrom, Bool.true_and, Bool.and_eq_true] at h
    obtain ⟨hc, hm⟩ := h
    simp only [Mem.set, Mem.wf]
    split
    · next hka => have := Mem.set_wfFrom b hm hka; simp_all [Mem.wfFrom]
    · split
      · next hka =>
        subst hka
        split
        · exact Mem.wfFrom_none hm
        · simp_all [Mem.wfFrom]
      · split
        · simp_all [Mem.wfFrom]
        · have : a < k := by omega
          simp_all [Mem.wfFrom]

/-- A write of consecutive bytes keeps the canonical form. -/
theorem Mem.write_wf {m : Mem} (a : Nat) (bs : List Byte) (h : m.wf = true) : (m.write a bs).wf = true := by
  induction bs generalizing m a with
  | nil => exact h
  | cons b bs ih => exact ih (a + 1) (Mem.set_wf a b h)

/-! ### Read after write -/

theorem Mem.get_set_from {m : Mem} {lo : Nat} (h : Mem.wfFrom (some lo) m = true) (a x : Nat) (b : Byte) (ha : lo < a) :
    (m.set a b).get x = if x = a then b else m.get x := by
  induction m generalizing lo with
  | nil =>
    simp only [Mem.set]
    by_cases hb : b = 0
    · simp [hb, Mem.get]
    · simp only [hb, if_false, Mem.get]
      by_cases hx : x = a
      · simp [hx]
      · simp [hx, Ne.symm hx]
  | cons p m ih =>
    obtain ⟨k, c⟩ := p
    simp only [Mem.wfFrom, Bool.and_eq_true, decide_eq_true_eq] at h
    obtain ⟨⟨hk, hc⟩, hm⟩ := h
    simp only [Mem.set]
    by_cases hka : k < a
    · simp only [hka, if_true, Mem.get, ih hm hka]
      by_cases hx : x = a
      · subst hx; simp [show k ≠ x by omega, hka]
      · simp [hx]
    · simp only [hka, if_false]
      by_cases he : k = a
      · subst he
        by_cases hb : b = 0
        · simp only [hb, if_true, Mem.get]
          by_cases hx : x = k
          · subst hx; simp [Mem.get_below hm (Nat.le_refl _)]
          · by_cases hlt : k < x
            · simp [hx, Ne.symm hx, hlt]
            · simp [hx, Ne.symm hx, hlt, Mem.get_below hm (show x ≤ k by omega)]
        · simp only [hb, if_false, if_true, Mem.get]
          by_cases hx : x = k
          · subst hx; simp
          · simp [hx, Ne.symm hx]
      · simp only [he, if_false]
        by_cases hb : b = 0
        · simp only [hb, if_true, Mem.get]
          by_cases hx : x = a
          · subst hx; simp [he, show ¬ k < x by omega]
          · simp [hx]
        · simp only [hb, if_false, Mem.get]
          by_cases hx : x = a
          · subst hx; simp
          · by_cases hlt : a < x
            · simp [hx, Ne.symm hx, hlt]
            · simp [hx, Ne.symm hx, hlt, show k ≠ x by omega, show ¬ k < x by omega]

/-- Reading after a write of one byte. -/
theorem Mem.get_set {m : Mem} (h : m.wf = true) (a x : Nat) (b : Byte) :
    (m.set a b).get x = if x = a then b else m.get x := by
  cases m with
  | nil => exact Mem.get_set_nil a x b
  | cons p m =>
    obtain ⟨k, c⟩ := p
    simp only [Mem.wf, Mem.wfFrom, Bool.true_and, Bool.and_eq_true] at h
    obtain ⟨hc, hm⟩ := h
    cases k with
    | zero =>
      by_cases ha : a = 0
      · subst ha
        simp only [Mem.set, Nat.lt_irrefl, if_false, if_true]
        by_cases hb : b = 0
        · subst hb
          simp only [if_true, Mem.get]
          by_cases hx : x = 0
          · subst hx; simp [Mem.get_below hm (Nat.le_refl _)]
          · simp [hx, Ne.symm hx, Nat.pos_of_ne_zero hx]
        · simp only [hb, if_false, Mem.get]
          by_cases hx : x = 0
          · subst hx; simp
          · simp [hx, Ne.symm hx]
      · have ha' : 0 < a := Nat.pos_of_ne_zero ha
        simp only [Mem.set, ha', if_true, Mem.get, Mem.get_set_from hm a x b ha']
        by_cases hx : x = a
        · subst hx; simp [Ne.symm ha, ha']
        · simp [hx]
    | succ k =>
      by_cases ha : a = 0
      · subst ha
        simp only [Mem.set, Nat.not_lt_zero, if_false, Nat.succ_ne_zero]
        by_cases hb : b = 0
        · subst hb
          simp only [if_true]
          by_cases hx : x = 0
          · subst hx; simp [Mem.get]
          · simp [hx]
        · simp only [hb, if_false]
          by_cases hx : x = 0
          · subst hx; simp [Mem.get]
          · rw [Mem.get]; simp [hx, Ne.symm hx, Nat.pos_of_ne_zero hx]
      · have hf : Mem.wfFrom (some 0) ((k + 1, c) :: m) = true := by simp_all [Mem.wfFrom]
        exact Mem.get_set_from hf a x b (Nat.pos_of_ne_zero ha)
where
  Mem.get_set_nil (a x : Nat) (b : Byte) : (Mem.set [] a b).get x = if x = a then b else Mem.get [] x := by
    simp only [Mem.set]
    by_cases hb : b = 0
    · simp [hb, Mem.get]
    · simp only [hb, if_false, Mem.get]
      by_cases hx : x = a
      · simp [hx]
      · simp [hx, Ne.symm hx]

/-- Reading after a write of consecutive bytes. -/
theorem Mem.get_write {m : Mem} (h : m.wf = true) (a x : Nat) (bs : List Byte) :
    (m.write a bs).get x = if a ≤ x then (match bs[x - a]? with | some b => b | none => m.get x) else m.get x := by
  induction bs generalizing m a with
  | nil => simp [Mem.write]
  | cons b bs ih =>
    rw [Mem.write, ih (Mem.set_wf a b h), Mem.get_set h]
    by_cases hx : x = a
    · subst hx; simp [show ¬ (x + 1 ≤ x) by omega]
    · by_cases hlt : a ≤ x
      · have h1 : a + 1 ≤ x := by omega
        obtain ⟨n, hn⟩ : ∃ n, x - a = n + 1 := ⟨x - a - 1, by omega⟩
        have hn' : x - (a + 1) = n := by omega
        simp [hlt, h1, hx, hn, hn']
      · simp [hlt, show ¬ (a + 1 ≤ x) by omega, hx]

/-- A write leaves every byte outside it alone. -/
theorem Mem.get_write_outside {m : Mem} (h : m.wf = true) {a x : Nat} {bs : List Byte}
    (hx : x < a ∨ a + bs.length ≤ x) : (m.write a bs).get x = m.get x := by
  rw [Mem.get_write h]
  split
  · rw [List.getElem?_eq_none (by omega)]
  · rfl

/-- A read gives as many bytes as are asked for. -/
@[simp] theorem Mem.read_length (m : Mem) (a n : Nat) : (m.read a n).length = n := by
  induction n generalizing a with
  | zero => rfl
  | succ n ih => simp [Mem.read, ih]

/-- Byte `i` of a read. -/
theorem Mem.read_getElem? (m : Mem) (a : Nat) {n i : Nat} (hi : i < n) : (m.read a n)[i]? = some (m.get (a + i)) := by
  induction n generalizing a i with
  | zero => omega
  | succ n ih =>
    cases i with
    | zero => simp [Mem.read]
    | succ i => simp [Mem.read, ih (a + 1) (i := i) (by omega), Nat.add_assoc, Nat.add_comm 1]

/-- A read of what was just written gives it. -/
theorem Mem.read_write {m : Mem} (h : m.wf = true) (a : Nat) (bs : List Byte) : (m.write a bs).read a bs.length = bs := by
  apply List.ext_getElem?
  intro i
  by_cases hi : i < bs.length
  · rw [Mem.read_getElem? _ _ hi, Mem.get_write h]
    simp [hi]
  · rw [List.getElem?_eq_none (by simp; omega), List.getElem?_eq_none (by omega)]

/-! ### The memories of the state -/

/-- What every step of a fold leaves alone, the fold leaves alone. -/
theorem foldl_keeps {α β γ : Type} (g : β → γ) {f : β → α → β} (h : ∀ b a, g (f b a) = g b) (l : List α) (b : β) :
    g (l.foldl f b) = g b := by
  induction l generalizing b with
  | nil => rfl
  | cons a l ih => rw [List.foldl_cons, ih, h]

@[simp] theorem State.leaveL2_mem (s : State) (x : L2Line) : (s.leaveL2 x).mem = s.mem := by
  unfold State.leaveL2
  refine foldl_keeps State.mem (fun s i => ?_) _ s
  dsimp only
  split <;> rfl

/-- The slice's choice of a form changes no byte (R249). -/
@[simp] theorem State.useL2_mem (s : State) (line : Nat) (f : BitVec 4 → BitVec 4) : (s.useL2 line f).mem = s.mem := by
  unfold State.useL2
  dsimp only
  split
  · rfl
  · rw [foldl_keeps State.mem State.leaveL2_mem]; rfl

@[simp] theorem State.touchL2_mem (s : State) (pa n : Nat) : (s.touchL2 pa n).mem = s.mem := by
  unfold State.touchL2
  refine foldl_keeps State.mem (fun s i => ?_) _ s
  split <;> simp

@[simp] theorem State.logEvent_mem (s : State) (p : Nat) (e : MgmtEvent) : (s.logEvent p e).mem = s.mem := rfl

@[simp] theorem State.writeFlits_mem (s : State) (l : List Nat) : (s.writeFlits l).mem = s.mem := by
  unfold State.writeFlits
  dsimp only
  split <;> split
  all_goals first | rfl | rw [foldl_keeps State.mem fun s p => s.logEvent_mem _ _]

/-- Without an undetected error bytes arrive as they left. -/
@[simp] theorem garble_nil (place : Nat → FlitPlace) (a : Nat) (bs : List Byte) : garble [] place a bs = bs := rfl

/-- An undetected error changes bytes, never their number (R265). -/
@[simp] theorem garble_length (l : List (FlitPlace × List Byte)) (place : Nat → FlitPlace) (a : Nat) (bs : List Byte) :
    (garble l place a bs).length = bs.length := by
  unfold garble
  split <;> simp

/-- The home copies after a write that the home die takes, and after one that it does not. -/
theorem State.homeWrite_mem (s : State) (pa : Nat) (bs : List Byte) (alloc : Bool) :
    (s.homeWrite pa bs alloc).mem =
      if s.fencedAt pa then s.mem else s.mem.write pa (garble s.wrongWrites .home pa bs) := by
  unfold State.homeWrite
  split
  · rfl
  · dsimp only
    rw [foldl_keeps State.mem fun s l => by split <;> simp]
    simp

/-- A write at home keeps the form, whether or not the die takes it. -/
theorem State.homeWrite_wf {s : State} (pa : Nat) (bs : List Byte) (alloc : Bool) (h : s.mem.wf = true) :
    (s.homeWrite pa bs alloc).mem.wf = true := by
  rw [State.homeWrite_mem]
  split
  · exact h
  · exact Mem.write_wf pa _ h

/-- What a write at home changes: its own bytes, unless the die is fenced. -/
theorem State.homeWrite_get {s : State} (h : s.mem.wf = true) (pa : Nat) (bs : List Byte) (alloc : Bool) (x : Nat) :
    (s.homeWrite pa bs alloc).mem.get x =
      if s.fencedAt pa = false ∧ pa ≤ x ∧ x < pa + bs.length then ((garble s.wrongWrites .home pa bs)[x - pa]?).getD 0
      else s.mem.get x := by
  rw [State.homeWrite_mem]
  cases hf : s.fencedAt pa with
  | true => simp
  | false =>
    simp only [Bool.false_eq_true, if_false, Mem.get_write h, true_and]
    by_cases ha : pa ≤ x
    · by_cases hb : x < pa + bs.length
      · have : x - pa < (garble s.wrongWrites .home pa bs).length := by rw [garble_length]; omega
        simp [ha, hb, List.getElem?_eq_getElem this]
      · rw [List.getElem?_eq_none (by rw [garble_length]; omega)]; simp [hb]
    · simp [ha]

/-- A scratchpad or pool keeps the form under a write. -/
theorem Ram.write_wf {r : Ram} (a : Nat) (bs : List Byte) (h : r.cells.wf = true) : (r.write a bs).cells.wf = true :=
  Mem.write_wf a bs h

end Sys2Proof.Machine
end

