-- ==== Sys2Proof/Safety.lean ====
section
/-! DEFINITION. What the machine keeps in every state that a step reaches. -/
namespace Sys2Proof.Safety
open Sys2Proof.Machine

/-- HBM is held in canonical form. -/
def MemWf (s : State) : Prop := s.mem.wf = true

end Sys2Proof.Safety
end

