-- ==== Sys2Proof/Tests/Slice0.lean ====
section
/-! SUPPORT. Tests: words of the specification, forms that are refused, small steps, and states that meet the hypotheses
of the statements. Expected values come from the specification's encodings, examples and tables. -/
namespace Sys2Proof.Tests

open Sys2Proof Sys2Proof.Machine Sys2Proof.Claims

set_option Elab.async false

/-! ### Helpers -/

def hd : Head := ⟨false, 0, ⟨false, 7⟩⟩
def i1 (sat : Bool) (w : IWidth) (sgn : Bool) : IntOp := ⟨hd, sat, w, sgn, .v 1, .v 2, .zero, .zero, 0⟩
def i2 (sat : Bool) (w : IWidth) (sgn : Bool) : IntOp := ⟨hd, sat, w, sgn, .v 1, .v 2, .v 3, .zero, 0⟩
def i3 (sat : Bool) (w : IWidth) (sgn : Bool) : IntOp := ⟨hd, sat, w, sgn, .v 1, .v 2, .v 3, .v 4, 0⟩
def f1 (r : Rnd) (absA negA negB : Bool) (ty : FType) : FpOp := ⟨hd, r, absA, negA, negB, ty, .v 1, .v 2, .zero, .zero, 0⟩
def f2 (r : Rnd) (absA negA negB : Bool) (ty : FType) : FpOp := ⟨hd, r, absA, negA, negB, ty, .v 1, .v 2, .v 3, .zero, 0⟩
def f3 (r : Rnd) (absA negA negB : Bool) (ty : FType) : FpOp := ⟨hd, r, absA, negA, negB, ty, .v 1, .v 2, .v 3, .v 4, 0⟩

/-- Every word decodes to its instruction. -/
def decodes (l : List (Insn × Instr)) : Bool := l.all fun x => match decode x.1 with
  | .ok i => i == x.2
  | .error _ => false

/-! ### Words by the encoding tables of 03, one family each -/

/-- Words of the integer and address instructions, from their fields in Tables 3.3 to 3.17. -/
theorem test_decode_integer : decodes
    [ (0x000001FFFFFFFFFFC0000000, .nop hd)
    , (0x000401C0100BFFFFC0000000, .mov (i1 false .w32 false))
    , (0x000A41C0100803FFC0000000, .iadd (i2 true .w32 true))
    , (0x000F01C0100803FFC0000000, .isub (i2 true .x16 false))
    , (0x001181C0100803FFC0000000, .imul (i2 false .x8 false))
    , (0x001441C0100803FFC0000000, .imulh (i2 false .w32 true))
    , (0x001841C01008030100000000, .imad (i3 false .w32 true))
    , (0x001D41C0100803FFC0000000, .imin (i2 false .x16 true))
    , (0x002101C0100803FFC0000000, .imax (i2 false .x16 false))
    , (0x002641C0100BFFFFC0000000, .iabs (i1 true .w32 true))
    , (0x002801C0100803FFC0000000, .and (i2 false .w32 false))
    , (0x002C01C0100803FFC0000000, .or (i2 false .w32 false))
    , (0x003001C0100803FFC0000000, .xor (i2 false .w32 false))
    , (0x003401C0100BFFFFC0000000, .not (i1 false .w32 false))
    , (0x003881C0100803FFC0000000, .shl (i2 false .w64 false))
    , (0x003C41C0100803FFC0000000, .shr (i2 false .w32 true))
    , (0x004181C0100803FFC0000000, .rot (i2 false .x8 false))
    , (0x004401C0100BFFFFC0000000, .popc (i1 false .w32 false))
    , (0x004881C0100BFFFFC0000000, .clz (i1 false .w64 false))
    , (0x004C41C0100803FFC0000000, .bfx (i2 false .w32 true))
    , (0x005001C01008030100000000, .bfi (i3 false .w32 false))
    , (0x005451C0100803FFC0000000, .icmp .gt (i2 false .w32 true))
    , (0x005801C01008030100000000, .sel (i3 false .w32 false))
    , (0x005C4DC01008030100000000, .lea 3 (i3 false .w32 true))
    , (0x006041C0100803FFC0000000, .iadd64 (i2 false .w32 true))
    , (0x006441C01008030100000000, .iaddmin (i3 false .w32 true))
    , (0x006841C01008030100000000, .imin3 (i3 false .w32 true))
    , (0x006C01C01008030100014000, .iadds 5 (i3 false .w32 false)) ] = true := by decide +kernel

/-- Words of the floating point instructions, from their fields in Tables 3.3 to 3.17. -/
theorem test_decode_floating : decodes
    [ (0x0081A1C0100803FFC0000000, .fadd (f2 .rz true false true .f32))
    , (0x008741C0100803FFC0000000, .fsub (f2 .rup false true false .f32))
    , (0x008A05C0100803FFC0000000, .fmul (f2 .rdn false false false .bf16x2))
    , (0x008C49C01008030100000000, .ffma (f3 .rne false true false .f16x2))
    , (0x009081C0100803FFC0000000, .fmin (f2 .rne true false false .f32))
    , (0x009421C0100803FFC0000000, .fmax (f2 .rne false false true .f32))
    , (0x009801C0100803FFC001C000, .fcmp .nan (f2 .rne false false false .f32))
    , (0x009D01C01008030100000000, .faddmin (f3 .rz false false false .f32))
    , (0x00A041C0100BFFFFC0000000, .frcp (f1 .rne false true false .f32))
    , (0x00A441C0100BFFFFC0000000, .frsq (f1 .rne false true false .f32))
    , (0x00A841C0100BFFFFC0000000, .fsqrt (f1 .rne false true false .f32))
    , (0x00AC41C0100BFFFFC0000000, .fexp2 (f1 .rne false true false .f32))
    , (0x00B041C0100BFFFFC0000000, .flog2 (f1 .rne false true false .f32))
    , (0x00B441C0100BFFFFC0000000, .fsin (f1 .rne false true false .f32))
    , (0x00B841C0100BFFFFC0000000, .fcos (f1 .rne false true false .f32))
    , (0x00BC41C0100BFFFFC0000000, .ftanh (f1 .rne false true false .f32))
    , (0x00C005C01008030100000000, .hfma2 (f3 .rne false false false .bf16x2))
    , (0x00C409C0100803FFC0000000, .hadd2 (f2 .rne false false false .f16x2))
    , (0x00C825C0100803FFC0000000, .hmul2 (f2 .rne false false true .bf16x2))
    , (0x00CC01C0100BFFFFC0000000, .fclass (f1 .rne false false false .f32))
    , (0x00D301C0100BFFFFC0000000, .frnd (f1 .rup false false false .f32)) ] = true := by decide +kernel

/-- Words of the conversion instructions, from their fields in Tables 3.3 to 3.17. -/
theorem test_decode_conversion : decodes
    [ (0x010181C0100BFFFFC0180000, .cvt ⟨hd, .rz, true, .s8, .f32, .v 1, .v 2, .zero, 0⟩)
    , (0x010401C0100803FFC0040000, .pack ⟨hd, .rne, false, .bf16, .f32, .v 1, .v 2, .v 3, 0⟩)
    , (0x010801C0100BFFFFC0298000, .unpk ⟨hd, .rne, false, .s32, .s8, .v 1, .v 2, .zero, 0⟩) ] = true := by decide +kernel

/-- Words of the lane movement instructions, from their fields in Tables 3.3 to 3.17. -/
theorem test_decode_movement : decodes
    [ (0x014001C01008030100008000, .lpick .xor ⟨hd, false, .v 1, .v 2, .v 3, .v 4, 0⟩)
    , (0x014401C0100B000100C04000, .lsh true ⟨hd, false, .v 1, .v 2, .imm, .v 4, 3⟩)
    , (0x014801D0100903FFC000C000, .vote .ballot ⟨hd, false, .s 1, .v 2, .s 3, .zero, 0⟩)
    , (0x014C41C0100BFFFFC0004000, .redux .min false ⟨hd, true, .v 1, .v 2, .zero, .zero, 0⟩)
    , (0x015005C0100BFFFFC0040000, .scan .add true true ⟨hd, false, .v 1, .v 2, .zero, .zero, 0⟩)
    , (0x015401C0100BFFFFC0004000, .matchLanes true ⟨hd, false, .v 1, .v 2, .zero, .zero, 0⟩)
    , (0x015801C01C03FFFFC8000000, .rdmask ⟨hd, false, .v 1, .imm, .zero, .zero, 32⟩) ] = true := by decide +kernel

/-- Words of the control instructions, from their fields in Tables 3.3 to 3.17. -/
theorem test_decode_control : decodes
    [ (0x018005FFFFFC000039FFFFFA, .bra true ⟨hd, 3, 4, 0x3FFFFF, 2⟩)
    , (0x018401FFF00903FFC0000000, .brx ⟨hd, .zero, .v 2, .s 3, .zero, 0⟩)
    , (0x018801FFFFFE000002000000, .call ⟨hd, 0x200000, 1, 0, 0⟩)
    , (0x018C01FFFFFFFFFFC0000000, .ret hd)
    , (0x019005FFFFFFFFFFC0000000, .join true hd)
    , (0x019401FFFFFFFFFFC0000000, .exit hd)
    , (0x019801FFFC03FFFFC2400000, .trap ⟨hd, .zero, .imm, .zero, .zero, 9⟩)
    , (0x019C01FFFFFFFFFFC0000000, .tret hd)
    , (0x01A001FFF427FFFFC0000000, .brk ⟨hd, .zero, .s 9, .zero, .zero, 0⟩)
    , (0x01A401C01C03FFFFC1400000, .rdsplit ⟨hd, .v 1, .imm, .zero, .zero, 5⟩)
    , (0x01A801FFF80BFFFFC0000000, .nap ⟨hd, .zero, .k 2, .zero, .zero, 0⟩) ] = true := by decide +kernel

/-- Words of the memory instructions, from their fields in Tables 3.3 to 3.17. -/
theorem test_decode_memory : decodes
    [ (0x01C225C0100903FFFF0B0000, .ld ⟨hd, .glb, .b32, .sync, 5, true, false, false, .v 1, .v 2, .s 3, .zero, 0xFC⟩)
    , (0x01C641FFF00BFF0100404000, .st ⟨hd, .glb, .b128, .weak, 0, false, false, true, .zero, .v 2, .zero, .v 4, 1⟩)
    , (0x01CA01FFF00803FFC0000000, .pref ⟨hd, .glb, .b8, .weak, 0, false, false, false, .zero, .v 2, .v 3, .zero, 0⟩)
    , (0x01CCA9C01008030101460000, .atom .xor .u ⟨hd, .core, .b32, .ar, 3, false, false, false, .v 1, .v 2, .v 3, .v 4, 0⟩)
    , (0x01D1B1C02010060200000000, .cas ⟨hd, .die, .b64, .weak, 0, false, false, false, .v 2, .v 4, .v 6, .v 8, 0⟩)
    , (0x01D625FFF008030108080000, .red .add .f32 ⟨hd, .glb, .b32, .sync, 4, false, false, false, .zero, .v 2, .v 3, .v 4, 0⟩)
    , (0x01DA25C0100B00FFC0480000, .wait ⟨hd, .glb, .b32, .sync, 4, false, false, false, .v 1, .v 2, .imm, .zero, 1⟩)
    , (0x01DD11C0100803FFC0000000, .lds ⟨hd, .clu, .b16, .weak, 0, false, false, false, .v 1, .v 2, .v 3, .zero, 0⟩)
    , (0x01E001FFF008030100000000, .sts ⟨hd, .lane, .b8, .weak, 0, false, false, false, .zero, .v 2, .v 3, .v 4, 0⟩)
    , (0x01E631E0840BFFFFC0800000, .ldk ⟨hd, .glb, .b64, .weak, 0, false, false, false, .k 8, .s 2, .zero, .zero, 2⟩)
    , (0x01EA01FFF40A03FFC0000000, .cctlWb ⟨hd, .zero, .s 2, .k 3, .zero, 0⟩)
    , (0x01EA01FFF40A03FFC0400000, .cctlInv ⟨hd, .zero, .s 2, .k 3, .zero, 0⟩)
    , (0x01EA01FFF40A03FFC0800000, .cctlWbinv ⟨hd, .zero, .s 2, .k 3, .zero, 0⟩)
    , (0x01EA01FFF40A03FFC0C00000, .cctlIfl ⟨hd, .zero, .s 2, .k 3, .zero, 0⟩) ] = true := by decide +kernel

/-- Words of the matrix and feeder instructions, from their fields in Tables 3.3 to 3.17. -/
theorem test_decode_matrix : decodes
    [ (0x024001F4540BFFFFC0000000, .tdset ⟨hd, .td 5, .s 2, .zero, .zero, 0⟩)
    , (0x024401F32D1502FFC0000000, .wload ⟨hd, .w 2, .td 5, .s 2, .zero, 0⟩)
    , (0x024801F30FFFFFFFC0000000, .wswap ⟨hd, .w 0, .zero, .zero, .zero, 0⟩)
    , (0x024E01C4008330D183000000, .mma true ⟨hd, .v 64, .v 32, .w 0, .td 6, 12⟩)
    , (0x025001F37FFFFFFFC0000000, .wdrop ⟨hd, .w 7, .zero, .zero, .zero, 0⟩)
    , (0x025401F01D1300FFC1C00000, .feed ⟨hd, .f 0, .td 4, .imm, .zero, 7⟩)
    , (0x025801F03FFFFFFFC0000000, .fstop ⟨hd, .f 2, .zero, .zero, .zero, 0⟩)
    , (0x025C01D05C13FFFFC0000000, .fpos ⟨hd, .s 5, .f 3, .zero, .zero, 0⟩) ] = true := by decide +kernel

/-- Words of the team and cluster instructions, from their fields in Tables 3.3 to 3.17. -/
theorem test_decode_team : decodes
    [ (0x028001C05013FFFFC0000000, .regroup ⟨hd, .v 5, .v 4, .zero, .zero, 0⟩)
    , (0x028401FFFC03FFFFC0C00000, .gbarArrive ⟨hd, .zero, .imm, .zero, .zero, 3⟩)
    , (0x028405FFFC03FFFFC0C00000, .gbarWait ⟨hd, .zero, .imm, .zero, .zero, 3⟩)
    , (0x028409FFFC03FFFFC0C00000, .gbarSync ⟨hd, .zero, .imm, .zero, .zero, 3⟩)
    , (0x028801C0300B00FFC1400000, .xshuf ⟨hd, .v 3, .v 2, .imm, .zero, 5⟩)
    , (0x028C01FFFFFFFFFFC0000000, .tsync hd)
    , (0x029001FFFFFFFFFFC0000000, .trig hd)
    , (0x029401FFFFFC000026000000, .yield ⟨hd, 2, 3, 0, 0⟩)
    , (0x029405FFFFFC000010000000, .yieldDone ⟨hd, 1, 0, 0, 0⟩) ] = true := by decide +kernel

/-- Words of the scribes instructions, from their fields in Tables 3.3 to 3.17. -/
theorem test_decode_scribe : decodes
    [ (0x02C001D0140904FFC0000000, .cpy ⟨hd, false, false, .s 1, .s 2, .s 4, .zero, 0⟩)
    , (0x02C405D0140B434182400000, .tile ⟨hd, true, false, .s 1, .s 2, .td 3, .s 6, 9⟩)
    , (0x02C80DD0140B434240400000, .gather ⟨hd, true, true, .s 1, .s 2, .td 3, .s 9, 1⟩)
    , (0x02CC09D0240743FFC0000000, .scatter ⟨hd, false, true, .s 2, .s 1, .td 3, .zero, 0⟩)
    , (0x02D001D01FFD044181400000, .fill ⟨hd, false, false, .s 1, .zero, .s 4, .s 6, 5⟩)
    , (0x02D401C01C03FFFFC0800000, .scq ⟨hd, .v 1, .imm, .zero, .zero, 2⟩) ] = true := by decide +kernel

/-- Words of the events instructions, from their fields in Tables 3.3 to 3.17. -/
theorem test_decode_event : decodes
    [ (0x030005C01008040200000000, .post true ⟨hd, .v 1, .v 2, .v 4, .v 8, 0⟩)
    , (0x030401C0100804FFC0018000, .cancel 6 ⟨hd, .v 1, .v 2, .v 4, .zero, 0⟩)
    , (0x030801C0100804020001C000, .gate 7 ⟨hd, .v 1, .v 2, .v 4, .v 8, 0⟩)
    , (0x030C01FFF00B00FFC1000000, .signal ⟨hd, .zero, .v 2, .imm, .zero, 4⟩)
    , (0x031001FFF00803FFC0000000, .publish ⟨hd, .zero, .v 2, .v 3, .zero, 0⟩)
    , (0x031401FFF40903FFC0000000, .hset ⟨hd, .zero, .s 2, .s 3, .zero, 0⟩)
    , (0x031801FFF40B00FFC0400000, .launch ⟨hd, .zero, .s 2, .imm, .zero, 1⟩)
    , (0x031C01D01C03FFFFC0C00000, .hznq ⟨hd, .s 1, .imm, .zero, .zero, 3⟩) ] = true := by decide +kernel

/-- Words of the ordering instructions, from their fields in Tables 3.3 to 3.17. -/
theorem test_decode_ordering : decodes
    [ (0x034005FFFFFFFFFFC00A0000, .fence true 5 hd)
    , (0x034401F00411054180C00000, .bind ⟨hd, .imm, .s 4, .s 5, .s 6, 3⟩)
    , (0x034801D03FFFFFFFC0000000, .unbind ⟨hd, .s 3, .zero, .zero, .zero, 0⟩)
    , (0x034C01FFF40903FFC0000000, .scset ⟨hd, .zero, .s 2, .s 3, .zero, 0⟩) ] = true := by decide +kernel

/-- Words of the remote instructions, from their fields in Tables 3.3 to 3.17. -/
theorem test_decode_remote : decodes
    [ (0x038225FFF00BFF01000A0000, .rst ⟨hd, .glb, .b32, .sync, 5, false, false, false, .zero, .v 2, .zero, .v 4, 0⟩)
    , (0x038631FFF008030104800000, .rred .max .s ⟨hd, .glb, .b64, .weak, 0, false, false, false, .zero, .v 2, .v 3, .v 4, 0⟩)
    , (0x038A21C01008030101800000, .ratom .exch .u ⟨hd, .glb, .b32, .weak, 0, false, false, false, .v 1, .v 2, .v 3, .v 4, 0⟩)
    , (0x038E41C0400803FFC0008000, .rld ⟨hd, .glb, .b128, .weak, 0, false, true, false, .v 4, .v 2, .v 3, .zero, 0⟩)
    , (0x039001FFFFFFFFFFC0000000, .bflush hd)
    , (0x039005FFFFFFFFFFC0000000, .bflushWait hd)
    , (0x039401C01C03FFFFC0800000, .bstat ⟨hd, .v 1, .imm, .zero, .zero, 2⟩)
    , (0x039801C14043FF4780400000, .route ⟨hd, .v 20, .v 16, .zero, .s 30, 1⟩)
    , (0x039E21C01008030100000000, .rcas ⟨hd, .glb, .b32, .weak, 0, false, false, false, .v 1, .v 2, .v 3, .v 4, 0⟩) ] = true := by decide +kernel

/-- Words of the system instructions, from their fields in Tables 3.3 to 3.17. -/
theorem test_decode_system : decodes
    [ (0x03C001D03C03FFFFC1000000, .rdsr ⟨hd, .s 3, .imm, .zero, .zero, 4⟩)
    , (0x03C401FFFFFF00FFC2400000, .wrsr ⟨hd, .zero, .zero, .imm, .zero, 9⟩)
    , (0x03C801D03413FFFFC0000000, .rdbudget ⟨hd, .s 3, .s 4, .zero, .zero, 0⟩)
    , (0x03CC01D05FFFFFFFC0000000, .clock ⟨hd, .s 5, .zero, .zero, .zero, 0⟩)
    , (0x03D001D0541BFFFFC0000000, .fltrd ⟨hd, .s 5, .s 6, .zero, .zero, 0⟩)
    , (0x03FC01FFFFFFFFFFC0000000, .udf) ] = true := by decide +kernel

/-- A head with LOOK, or with a guard. -/
def lk (n : BitVec 4) : Head := ⟨false, n, ⟨false, 7⟩⟩
def gd (p : BitVec 3) : Head := ⟨false, 0, ⟨false, p⟩⟩
def pl (h : Head) (d a b c : Operand) (imm : BitVec 8 := 0) : PlainOp := ⟨h, d, a, b, c, imm⟩

/-- Words that the worked examples write out: arithmetic, control and memory (02, 06 to 08, 11, 12). -/
theorem test_words_of_examples_core : decodes
    [ (0x000841C04C9B00FFFFC00000, .iadd ⟨hd, false, .w32, true, .v 4, .sp .entity, .imm, .zero, 0xFF⟩)
    , (0x009801F1902203FFC0014000, .fcmp .ge ⟨hd, .rne, false, false, false, .f32, .p 1, .v 8, .k 3, .zero, 0⟩)
    , (0x0180047FFFFC000006000008, .bra true ⟨gd 1, 0, 3, 1, 0⟩)
    , (0x05D8A5D1244300FFC04A0000,
        .wait ⟨lk 1, .core, .b32, .sync, 5, false, false, false, .s 18, .s 16, .imm, .zero, 1⟩)
    , (0x006400808023000400400000, .iaddmin ⟨gd 2, false, .w32, false, .v 8, .v 8, .imm, .v 16, 1⟩)
    , (0x014401C0A023004200400000, .lsh false ⟨hd, false, .v 10, .v 8, .imm, .s 8, 1⟩)
    , (0x0194007FFFFFFFFFC0000000, .exit (gd 1)) ] = true := by decide +kernel

/-- The same for teams, the matrix unit and scribes (09, 10, 14, 15). -/
theorem test_words_of_examples_teams : decodes
    [ (0x028001C05013FFFFC0000000, .regroup (pl hd (.v 5) (.v 4) .zero .zero))
    , (0x0E4C01C0C0B330D041400000, .mma false (pl (lk 3) (.v 12) (.v 44) (.w 0) (.td 1) 5))
    , (0x028409FFFC03FFFFC0400000, .gbarSync (pl hd .zero .imm .zero .zero 1))
    , (0x028C01FFFFFFFFFFC0000000, .tsync hd)
    , (0x028801C0300B00FFC1400000, .xshuf (pl hd (.v 3) (.v 2) .imm .zero 5))
    , (0x02C005D0A4310E4400400000, .cpy ⟨hd, true, false, .s 10, .s 12, .s 14, .s 16, 1⟩)
    , (0x02C805D0A453434400400000, .gather ⟨hd, true, false, .s 10, .s 20, .td 3, .s 16, 1⟩)
    , (0x02C80DD0A453434400400000, .gather ⟨hd, true, true, .s 10, .s 20, .td 3, .s 16, 1⟩) ] = true := by decide +kernel

/-- The same for events, launches, ordering and remote memory (16 to 19, 21 to 23). -/
theorem test_words_of_examples_system : decodes
    [ (0x030005E06FFFFF0100000000, .post true (pl hd (.k 6) .zero .zero (.v 4)))
    , (0x031801FFF41300FFC0400000, .launch (pl hd .zero (.s 4) .imm .zero 1))
    , (0x029001FFFFFFFFFFC0000000, .trig hd)
    , (0x029405FFFFFC000010000000, .yieldDone ⟨hd, 1, 0, 0, 0⟩)
    , (0x03C001D03FFFFFFFC0000000, .rdsr (pl hd (.s 3) .zero .zero .zero))
    , (0x03C401FFFFFFFFFFC0000000, .wrsr (pl hd .zero .zero .zero .zero))
    , (0x03CC01D05FFFFFFFC0000000, .clock (pl hd (.s 5) .zero .zero .zero))
    , (0x030005E0103B26FFC0000000, .post true (pl hd (.k 1) (.v 14) (.sp .entity) .zero))
    , (0x034001FFFFFFFFFFC00A0000, .fence false 5 hd)
    , (0x034005FFFFFFFFFFC00A0000, .fence true 5 hd)
    , (0x034401F00411054180C00000, .bind (pl hd .imm (.s 4) (.s 5) (.s 6) 3))
    , (0x038221FFF01BFF01C0000000, .rst ⟨hd, .glb, .b32, .weak, 0, false, false, false, .zero, .v 6, .zero, .v 7, 0⟩)
    , (0x039005FFFFFFFFFFC0000000, .bflushWait hd)
    , (0x039801C14043FF4780400000, .route (pl hd (.v 20) (.v 16) .zero (.s 30) 1))
    , (0x030800BFFFFC19FFC0060000, .gate 24 (pl (gd 2) .zero .zero (.v 25) .zero))
    , (0x030C00BFF06300FFC1400000, .signal (pl (gd 2) .zero (.v 24) .imm .zero 5))
    , (0x030004605811080000000000, .post true (pl (gd 1) (.k 5) (.k 4) (.s 8) (.v 0))) ] = true := by decide +kernel

/-! ### Forms that checks 5 and 6 refuse -/

def mm (sp : Space) (w : MWidth) (o : MOrder) (d a b c : Operand) (imm : BitVec 8 := 0) : MemOp :=
  ⟨hd, sp, w, o, 0, false, false, false, d, a, b, c, imm⟩

/-- Modifier bits outside an entry's pattern: width, `.sat`, sign, rounding, negation, conversion pair, type, space,
order, `.poll`, `.ro`, `.na`, branch slot, join fields, completion value, guard (Table 3.15, check 5). -/
theorem test_modifiers_refused : [
    Instr.and (i2 false .x16 false), .and (i2 true .w32 false), .shl (i2 false .w32 true), .iabs (i1 false .w32 false),
    .lea 5 (i3 false .w32 false), .fmin (f2 .rz false false false .f32), .frcp (f1 .rne false false true .f32),
    .cvt ⟨hd, .rne, false, .f32, .f32, .v 1, .v 2, .zero, 0⟩, .cvt ⟨hd, .rz, false, .f32, .lg6, .v 1, .v 2, .zero, 0⟩,
    .redux .xor true ⟨hd, false, .v 1, .v 2, .zero, .zero, 0⟩,
    .lds (mm .glb .b32 .weak (.v 1) (.v 2) .zero .zero), .st { mm .glb .b32 .ar .zero (.v 2) .zero (.v 3) with scope := 0 },
    .st { mm .glb .b32 .weak .zero (.v 2) .zero (.v 3) with poll := true },
    .ld { mm .glb .b32 .weak (.v 1) (.v 2) .zero .zero with ro := true },
    .ld { mm .core .b32 .weak (.v 1) (.v 2) .zero .zero with na := true },
    .atom .and .f32 (mm .glb .b32 .weak (.v 1) (.v 2) .zero (.v 3)),
    .red .exch .u (mm .glb .b32 .weak .zero (.v 2) .zero (.v 3)), .bra true ⟨hd, 1, 5, 1, 0⟩, .call ⟨hd, 1, 0, 1, 0⟩,
    .cpy ⟨hd, true, false, .s 1, .s 2, .s 3, .zero, 0⟩, .fill ⟨hd, false, true, .s 1, .s 2, .s 3, .s 4, 0⟩,
    .tsync (gd 0), .join false (gd 1), .yield ⟨gd 0, 1, 0, 0, 0⟩ ].all (fun i => !i.encodingOk && !i.wf) = true := by
  decide +kernel

/-- LOOK on a short instruction in VER 0b00, and IMM8 without a role (R30, R36). -/
theorem test_look_and_imm_refused :
    ([Instr.mov { i1 false .w32 false with head := lk 1 }, .nop (lk 1), .mov { i1 false .w32 false with imm := 1 },
      .route (pl hd (.v 20) (.v 16) .zero .zero 1)].all (fun i => !i.encodingOk && !i.wf) &&
    [Instr.mov { i1 false .w32 false with head := ⟨true, 1, ⟨false, 7⟩⟩ }, .frcp { f1 .rne false false false .f32 with head := lk 15 },
      .mov { i1 false .w32 false with a := .imm, imm := 1 }].all Instr.wf) = true := by decide +kernel

/-- Operand classes, uniform operands, groups past the last register, `p7`, and varying sources of an s-register
(Tables 3.9, 3.15, R35, R113, R114). -/
theorem test_operands_refused : [
    Instr.iadd { i2 false .w32 false with d := .k 1 }, .iadd { i2 false .w32 false with a := .td 1 },
    .iadd { i2 false .w32 false with d := .p 1 }, .mov { i1 false .w32 false with d := .p 7 },
    .iadd { i2 false .w32 false with d := .s 1 }, .iadd { i2 false .w64 false with d := .v 255 },
    .iadd { i2 false .w64 false with a := .s 63 }, .nap (pl hd .zero (.v 1) .zero .zero),
    .lsh false ⟨hd, false, .v 1, .v 2, .v 3, .v 4, 0⟩, .mma false (pl hd (.v 230) (.v 44) (.w 0) (.td 1)),
    .ld (mm .lane .b32 .weak (.s 1) (.s 2) .zero .zero), .ldk (mm .glb .b32 .weak (.v 1) (.s 2) .zero .zero),
    .iadds 3 { i3 false .w32 false with d := .s 1, a := .s 2, b := .s 3, c := .s 4 },
    .mov { i1 false .w32 false with b := .v 1 }, .gather ⟨hd, false, false, .s 1, .s 60, .td 3, .zero, 0⟩ ].all
      (fun i => !i.operandsOk && !i.wf) = true := by decide +kernel

/-- Words that checks 3 to 6 refuse, by name: VER, OPC, modifier bits, operand class (Table 3.15). -/
theorem test_words_refused :
    [ (decode 0x800001FFFFFFFFFFC0000000, Reject.version), (decode 0x007001FFFFFFFFFFC0000000, .opcode)
    , (decode 0x040A41C0100803FFC0000000, .encoding), (decode 0x000A41E0100803FFC0000000, .operand) ].all
      (fun x => match x.1 with | .error r => r == x.2 | .ok _ => false) = true := by decide +kernel

/-! ### Small states -/

/-- Registers of a lane. -/
def ln (l : List (Nat × Word)) : Lane := { v := l.foldl (fun v x => v.setIfInBounds x.1 x.2) (Vector.replicate 256 0) }
def en : Entry := { vregs := 64, lanes := 4, slice := 256, scratch := 1024, planes := 1, trap := some 0x100 }
def tm (lanes : List Lane) : Team :=
  { id := 0x40, entry := en, lanes := lanes, splits := [{ mask := maskOf (List.range lanes.length), pc := 0x40 }] }
def st (t : Team) : State := { teams := [t], cur := { team := t.key, pc := 0x40 } }
def run (i : Instr) (s : State) : State := match exec i s with
  | .next t => t
  | _ => s
def team1 (s : State) : Team := (s.teams.head?).getD {}
def vOf (s : State) (slot n : Nat) : Word := (((team1 s).lane slot).v[n]?).getD 0
def sOf (s : State) (n : Nat) : Word := ((team1 s).s[n]?).getD 0
def split1 (s : State) : Split := ((team1 s).splits.head?).getD {}

/-- What the instruction finds. -/
def exOf (i : Instr) (s : State) : Ex1 := (i.fields.bind fun f => s.current f.1.guard).getD ⟨{}, {}, 0, 0, []⟩
def readyTo (i : Instr) (s : State) : Bool :=
  i.wf && match i.fields.bind fun f => s.current f.1.guard with
    | some e => !e.slots.isEmpty && operandsAllowed i e.t e.x.trap.isSome && fpTypeOk i
    | none => false

theorem issues_of {i : Instr} {s : State} (h : readyTo i s = true) : i.wf = true ∧ Issues i s (exOf i s) := by
  unfold readyTo at h
  unfold exOf
  cases hf : i.fields with
  | none => simp [hf] at h
  | some f =>
    cases hc : s.current f.1.guard with
    | none => simp [hf, hc] at h
    | some e =>
      simp [hf, hc] at h
      exact ⟨h.1, ⟨⟨f.1, f.2, by simp [hf], by simp [hc]⟩, by simpa [hf, hc] using h.2.1.1, by simpa [hf, hc] using h.2.1.2,
        h.2.2⟩⟩

/-- The hypotheses of a statement about a lane instruction: the queues deliver for the lanes that compute (`all`: for
every contributing lane). -/
def Meets (all : Bool) (i : Instr) (s : State) : Prop :=
  i.wf = true ∧ ∃ (f : Head × Ops) (e e' : Ex1) (p : Pops) (s' : State), i.fields = some f ∧ Issues i s e ∧
    Delivers (if all then e.slots else execSlots f.2.d e.slots) i f.2 e s e' p s'
def meets (all : Bool) (i : Instr) (s : State) : Bool :=
  readyTo i s && match i.fields with
    | some f =>
      let e := exOf i s
      match popFields (if all then e.slots else execSlots f.2.d e.slots) i f.2 e.t with
      | .ok _ => true
      | .error _ => false
    | none => false

theorem meets_of {all : Bool} {i : Instr} {s : State} (h : meets all i s = true) : Meets all i s := by
  unfold meets at h
  rw [Bool.and_eq_true] at h
  obtain ⟨h1, h2⟩ := h
  obtain ⟨hw, hi⟩ := issues_of h1
  cases hf : i.fields with
  | none => simp [hf] at h2
  | some f =>
    simp only [hf] at h2
    split at h2
    · rename_i x hx
      exact ⟨hw, f, exOf i s, { exOf i s with t := x.1 }, x.2, s, hf, hi, hx, rfl, rfl⟩
    · simp at h2

theorem all_meet {all : Bool} {s : State} {l : List Instr} (h : l.all (fun i => meets all i s) = true) :
    ∀ i ∈ l, Meets all i s :=
  fun i hi => meets_of (List.all_eq_true.mp h i hi)

/-! ### Worked examples of the arithmetic chapters -/

/-- Slots 0 to 3 and 32, 33 of a 40-lane team, v4 = 10 × slot, v10 = slot mod 2 (06, Table 6.9). -/
def forty : State :=
  let t := tm ((List.range 40).map fun i => ln [(4, BitVec.ofNat 32 (10 * i)), (10, BitVec.ofNat 32 (i % 2))])
  st { t with splits := [{ mask := maskOf [0, 1, 2, 3, 32, 33], pc := 0x40 }, { id := 1, mask := maskOf [4], pc := 0x80 }] }
def mv (d a b : Operand) (imm : BitVec 8) (sgn : Bool := false) : MoveOp := ⟨hd, sgn, d, a, b, .zero, imm⟩
def row (i : Instr) (n : Nat) : List Nat := [0, 1, 2, 3, 32, 33].map fun k => (vOf (run i forty) k n).toNat

/-- Table 6.9. -/
theorem test_lane_movement_table :
    ([ row (.lpick .off (mv (.v 5) (.v 4) .imm 0xFF true)) 5, row (.lsh false (mv (.v 6) (.v 4) .imm 1)) 6
     , row (.lpick .xor (mv (.v 7) (.v 4) .imm 1)) 7, row (.lpick .mir (mv (.v 13) (.v 4) .imm 2)) 13
     , row (.scan .add false false (mv (.v 8) (.v 4) .zero 0)) 8, row (.scan .add false true (mv (.v 9) (.v 4) .zero 0)) 9
     , row (.matchLanes false (mv (.v 11) (.v 10) .zero 0)) 11, row (.matchLanes true (mv (.v 12) (.v 10) .zero 0)) 12 ] ==
     [[0, 0, 10, 20, 0, 320], [0, 0, 10, 20, 30, 320], [10, 0, 30, 20, 330, 320], [30, 20, 10, 0, 0, 0],
      [0, 10, 30, 60, 380, 710], [0, 0, 10, 30, 60, 380], [0, 1, 0, 1, 0, 1], [3, 3, 3, 3, 3, 3]]) = true := by
  decide +kernel

/-- The uniform forms of the same example. -/
theorem test_lane_movement_uniform :
    (sOf (run (.redux .add false (mv (.s 3) (.v 4) .zero 0)) forty) 3 == 710 &&
     sOf (run (.rdmask (mv (.s 4) .imm .zero 1)) forty) 4 == 3 && sOf (run (.rdmask (mv (.s 5) .imm .zero 32)) forty) 5 == 3 &&
     sOf (run (.vote .ballot (mv (.s 6) (.v 10) .zero 0)) forty) 6 == 0xA) = true := by decide +kernel

/-- Packing to E4M3, with and without `.sat` (06): 1.0, 0.5, −1.0, 500.0. -/
theorem test_pack_e4m3 :
    let s := st (tm [ln [(16, 0x3F800000), (17, 0x3F000000), (18, 0xBF800000), (19, 0x43FA0000)]])
    let x (sat : Bool) : Instr := .pack ⟨hd, .rne, sat, .e4m3, .f32, .v 20, .v 16, .zero, 0⟩
    (vOf (run (x true) s) 0 20 == 0x7EB83038 && vOf (run (x false) s) 0 20 == 0x7FB83038 &&
      (team1 (run (x true) s)).fstat == flagOvf) = true := by decide +kernel

/-- The sums of Table 4.6: E4M3, BF16, LG6, each with acc = +0. -/
theorem test_mma_sums :
    let d (fa : Nat) (fb : Nat) : Tensor :=
      { fmtA := fa, fmtB := fb, kdim := 3, smode := 0, swz := 0, rows := 0, cols := 0, rstride := 0, scaleOff := 0 }
    let p (fb : Nat) (col : List Nat) : Plane := { state := .loaded, fmtB := fb, kdim := 3, tile := col.map fun c => [c] }
    ((mmaElem (d 3 3) (p 3 [0x7E, 0x01, 0xFE]) false [0x7E, 0x01, 0x7E] 0 0 0).1 == 0x36800000 &&
      (mmaElem (d 1 1) (p 1 [0x3F80, 0x3080, 0x3F80]) false [0x3F80, 0x3080, 0xBF80] 0 0 0).1 == 0 &&
      (mmaElem (d 5 5) (p 5 [0x14, 0x10, 0x00]) false [0x12, 0x30, 0x00] 0 0 0).1 == 0x3FEA1000) = true := by decide +kernel

/-- Integer corners of Table 6.2 and its rules: wrap and saturation, the upper product, shift counts, the most negative
number, leading zeros of 0. -/
theorem test_integer_corners :
    let s := st (tm [ln [(2, 0x80000000), (3, 0xFFFFFFFF), (4, 1)]])
    ((([ (.iadd (i2 false .w32 true), 0x7FFFFFFF), (.iadd (i2 true .w32 true), 0x80000000), (.iadd (i2 true .w32 false), 0xFFFFFFFF)
     , (.isub (i2 true .w32 false), 0), (.imulh (i2 false .w32 true), 0), (.imulh (i2 false .w32 false), 0x7FFFFFFF)
     , (.iabs (i1 false .w32 true), 0x80000000), (.iabs (i1 true .w32 true), 0x7FFFFFFF), (.shl (i2 false .w32 false), 0)
     , (.shr (i2 false .w32 true), 0xFFFFFFFF), (.shr (i2 false .w32 false), 1), (.rot (i2 false .w32 false), 0x40000000)
     , (.imin (i2 false .w32 true), 0x80000000), (.imax (i2 false .w32 false), 0xFFFFFFFF), (.popc (i1 false .w32 false), 1)
     , (.clz (i1 false .w32 false), 0), (.imad (i3 false .w32 false), 0x80000001), (.not (i1 false .w32 false), 0x7FFFFFFF)
     , (.icmp .lt (i2 false .w32 true), 1), (.icmp .lt (i2 false .w32 false), 1), (.iadd (i2 false .x8 false), 0x7FFFFFFF)
     ] : List (Instr × Word)).all fun x => vOf (run x.1 s) 0 1 == x.2)) = true := by decide +kernel

/-- Floating-point corners: rounding to even, an exact sum of opposite signs, ∞ − ∞ with INV, one rounding of `ffma`. -/
theorem test_float_corners :
    let r (a b c : Word) (i : Instr) : Word × Flags :=
      let s := run i (st (tm [ln [(2, a), (3, b), (4, c)]]))
      (vOf s 0 1, (team1 s).fstat)
    (r 0x4B800000 0x3F800000 0 (.fadd (f2 .rne false false false .f32)) == (0x4B800000, 0) &&
      r 0x4B800000 0x3F800000 0 (.fadd (f2 .rup false false false .f32)) == (0x4B800001, 0) &&
      r 0x3F800000 0x3F800000 0 (.fsub (f2 .rne false false false .f32)) == (0, 0) &&
      r 0x3F800000 0x3F800000 0 (.fsub (f2 .rdn false false false .f32)) == (0x80000000, 0) &&
      r 0x7F800000 0x7F800000 0 (.fsub (f2 .rne false false false .f32)) == (0x7FC00000, flagInv) &&
      r 0x3F800001 0x3F800001 0xBF800002 (.ffma (f3 .rne false false false .f32)) == (0x28800000, 0)) = true := by
  decide +kernel

/-! ### The hypotheses of the statements about lane instructions -/

/-- Two lanes with numbers in v2 to v11; s- and k-registers zero; an operand queue with its next element loaded. -/
def two : State :=
  let t := tm [ln [(2, 5), (3, 7), (4, 0xFFFFFFFF), (5, 0x3F800000)], ln [(2, 0x80000000), (3, 33), (4, 1)]]
  st { t with f := t.f.set 0 { active := true, base := 0, queued := [⟨0, 0, .val 9⟩, ⟨0, 1, .val 11⟩] } }

theorem witness_IntegerResults : ∀ i ∈ [Instr.iadd (i2 true .w32 true), .isub (i2 false .x16 false),
    .imul (i2 false .x8 false), .imulh (i2 false .w64 true), .imad (i3 true .w64 false), .imin (i2 false .x16 true),
    .imax (i2 false .w32 false), .iabs (i1 true .w32 true), .iaddmin (i3 true .w32 true), .imin3 (i3 false .w32 true),
    .mov { i1 false .w32 false with a := .f 0 }, .mov { i1 false .w32 false with d := .s 1, a := .imm, imm := 0xFF },
    .and (i2 false .w64 false), .or (i2 false .w32 false), .xor (i2 false .w32 false), .not (i1 false .w32 false),
    .shl (i2 false .w64 false), .shr (i2 false .x8 true), .rot (i2 false .x16 false), .popc (i1 false .w32 false),
    .clz (i1 false .w64 false), .mov { i1 false .w32 false with d := .zero }], Meets false i two := all_meet (by decide +kernel)

theorem witness_CompareSelectAddressResults : ∀ i ∈ [Instr.icmp .gt (i2 false .w64 true),
    .icmp .eq { i2 false .w32 false with d := .p 6 }, .sel (i3 false .w64 false), .lea 4 (i3 false .w64 true),
    .iadd64 (i2 false .w32 true), .bfx (i2 false .w32 true), .bfi (i3 false .w32 false), .iadds 5 (i3 false .w32 false),
    .iadds 7 { i3 false .w32 false with d := .s 1, a := .s 2, b := .s 3, c := .zero }], Meets false i two :=
  all_meet (by decide +kernel)
theorem witness_CompareSelectAddressResults_nop :
    ∃ e, two.current hd.guard = some e := Option.isSome_iff_exists.mp (by decide +kernel)

theorem witness_FloatArithmeticResults : ∀ i ∈ [Instr.fadd (f2 .rz true false true .f32),
    .fsub (f2 .rup false true false .bf16x2), .fmul (f2 .rdn false false false .f16x2), .ffma (f3 .rne false true false .f32),
    .fmin (f2 .rne true false false .f32), .fmax (f2 .rne false false true .f32), .faddmin (f3 .rz false false false .f32),
    .fclass (f1 .rne false false false .f32), .frnd (f1 .rup false false false .f32),
    .fcmp .nan (f2 .rne false false false .f32), .hfma2 (f3 .rne false false false .bf16x2),
    .hadd2 { f2 .rne false false false .f16x2 with b := .imm, imm := 0x38 }, .hmul2 (f2 .rne false false true .bf16x2)],
    Meets false i two := all_meet (by decide +kernel)

theorem witness_SpecialFunctionsIssue : ∀ i ∈ [Instr.frcp, .frsq, .fsqrt, .fexp2, .flog2, .fsin, .fcos, .ftanh].map
    (fun mk => mk (f1 .rne false true false .f32)), Meets false i two := all_meet (by decide +kernel)
/-- A negative number, 256, 3, one half, and 2^17. -/
theorem witness_SpecialFunctionsIssue_numbers :
    (∃ m e, fp32.decode 0xC0000000 = .fin true m e ∧ m ≠ 0) ∧
    (∃ m e, fp32.decode 0x43800000 = .fin false m e ∧ m ≠ 0 ∧ 128 ≤ number (.fin false m e)) ∧
    (∃ m e, fp32.decode 0x40400000 = .fin false m e ∧ m ≠ 0 ∧ number (.fin false m e) = (3 : Int)) ∧
    (∃ m e, fp32.decode 0x3F000000 = .fin false m e ∧ m ≠ 0 ∧ number (.fin false m e) = (2 : Rat) ^ (-1 : Int)) ∧
    (∃ m e, fp32.decode 0x48000000 = .fin false m e ∧ m ≠ 0 ∧ 2 ^ 15 < (number (.fin false m e)).abs) ∧
    fp32.decode 0x7FC00000 = .nan :=
  ⟨⟨8388608, -22, by decide +kernel, by decide⟩, ⟨8388608, -15, by decide +kernel, by decide, by decide +kernel⟩,
    ⟨12582912, -22, by decide +kernel, by decide, by decide +kernel⟩,
    ⟨8388608, -24, by decide +kernel, by decide, by decide +kernel⟩,
    ⟨8388608, -6, by decide +kernel, by decide, by decide +kernel⟩, by decide +kernel⟩

theorem witness_ConversionResults : ∀ i ∈ [Instr.cvt ⟨hd, .rz, true, .s8, .f32, .v 1, .v 2, .zero, 0⟩,
    .cvt ⟨hd, .rne, false, .s64, .f32, .v 1, .v 2, .zero, 0⟩, .pack ⟨hd, .rne, false, .bf16, .f32, .v 1, .v 2, .v 3, 0⟩,
    .pack ⟨hd, .rne, true, .lg6, .f32, .v 1, .v 2, .zero, 0⟩, .unpk ⟨hd, .rne, false, .s32, .s8, .v 1, .v 2, .zero, 0⟩],
    Meets false i two := all_meet (by decide +kernel)

theorem witness_LaneMovementResults : ∀ i ∈ [Instr.lpick .at (mv (.v 5) (.v 4) .imm 1), .lpick .off (mv (.v 5) (.v 4) .imm 1),
    .lpick .xor (mv (.v 7) (.v 4) .imm 1), .lpick .mir (mv (.v 13) (.v 4) .imm 2), .lsh false (mv (.v 6) (.v 4) .imm 1),
    .lsh true (mv (.v 6) (.v 4) .imm 1), .vote .all (mv (.p 1) (.v 10) .zero 0), .vote .any (mv (.s 1) (.v 10) .zero 0),
    .vote .uni (mv (.v 1) (.v 10) .zero 0), .vote .ballot (mv (.s 6) (.v 10) .zero 0),
    .redux .add false (mv (.s 3) (.v 4) .zero 0), .redux .max true (mv (.v 3) (.v 4) .zero 0),
    .scan .add false true (mv (.v 9) (.v 4) .zero 0), .matchLanes false (mv (.v 11) (.v 10) .zero 0),
    .matchLanes true (mv (.v 12) (.v 10) .zero 0), .rdmask (mv (.s 5) .imm .zero 32)], Meets true i forty :=
  all_meet (by decide +kernel)

def isFin : Ex → Bool
  | .fin _ _ _ => true
  | _ => false
theorem fin_of {x : Ex} (h : isFin x = true) : ∃ n k g, x = .fin n k g := by
  cases x with
  | fin n k g => exact ⟨n, k, g, rfl⟩
  | _ => simp [isFin] at h

/-- Table 4.3: 17 lies between 16 and 18 of E4M3, and 16 has the even code; 70,000 is beyond FP16, and 2^-30 below it. -/
theorem test_rounding_rules :
    (e4m3.round .rne false (.fin false 17 0) == (0x58, 0) && fp16.round .rne false (.fin false 70000 0) == (0x7C00, 4) &&
      fp16.round .rz false (.fin true 70000 0) == (0xFBFF, 4) && fp16.round .rup false (.fin false 1 (-30)) == (1, 8)) = true := by
  decide +kernel

/-- A tie; numbers that overflow and that do not; numbers beyond the LG6 codes and within them. -/
theorem witness_RoundingRules_nearest :
    let y (k : Nat) : Rat := number (e4m3.decode k)
    (isNumber (e4m3.decode (e4m3.round .rne false (.fin false 17 0)).1) = true ∧ 0x59 < 2 ^ (1 + e4m3.ebits + e4m3.mbits) ∧
      isNumber (e4m3.decode 0x59) = true ∧ (number (.fin false 17 0) - y 0x58).abs = (number (.fin false 17 0) - y 0x59).abs ∧
      y 0x59 ≠ y 0x58) ∧
    (∀ r, overflows fp16 r false (number (.fin false 70000 0)).abs = true ∧
      overflows fp16 r true (number (.fin true 1 (-30))).abs = false) ∧
    (6889 / 512 < (number (.fin false 20 0)).abs ∧ (number (.fin true 1 0)).abs ≤ 6889 / 512) ∧
    ((number (.fin false 1 0) - lg6Number 15).abs ≠ (number (.fin false 1 0) - lg6Number 16).abs) :=
  ⟨by decide +kernel, fun r => by cases r <;> decide +kernel, by decide +kernel, by decide +kernel⟩

/-- Rounding: a number, an infinity and the NaN of a format, and a finite result on each side. -/
theorem witness_RoundingRules : IsFormat e4m3 ∧ 0x7F < 2 ^ (1 + e4m3.ebits + e4m3.mbits) ∧ e4m3.decode 0x7F = .nan ∧
    IsFormat e5m2 ∧ e5m2.decode 0x7C = .inf false ∧ (∃ n m e, e5m2.decode 1 = .fin n m e) ∧
    ∀ r, ∃ n k g, fp16.decode (fp16.round r false (.fin false 1 (-30))).1 = .fin n k g :=
  ⟨.inr (.inr (.inr (.inl rfl))), by decide, by decide +kernel, .inr (.inr (.inr (.inr rfl))), by decide +kernel,
    fin_of (by decide +kernel), fun r => fin_of (by cases r <;> decide +kernel)⟩

/-! ### The machine: steps, decode checks, traps -/

theorem get_some {o : Option α} (h : o.isSome = true) : o = some (o.get h) := by simp

/-- An event context on every die of package 0 whose page tables map the low gigabyte to itself. -/
def ctx0 : Ctx := { id := 0, places := [(0, [0, 1, 2, 3])], ptRoot := 0x1000 }
def tables : Mem := bootTables.foldl (fun m x => m.write x.1 x.2) []
/-- The translation of its page of 1 GiB, as the die's TLB holds it. -/
def tlb0 : TlbEntry := { ctx := 0, page := 0, level := 2, pte := 0x1F }
def gst (t : Team) : State := { st t with ctxs := [ctx0], mem := tables, dies := [{ id := 0, tlb := [tlb0] }] }

/-- What stands before the word at a split's PC. -/
def mayFetch (s : State) (t : Team) (x : Split) : Bool :=
  (!x.spilled || !t.badRegs.contains (spillKey x.id)) && (s.fetchWalk t x (pcLine x.pc).toNat).isNone &&
    match s.fetchLine t.coreNo t.ctx (pcLine x.pc).toNat with
    | (_, .ok bs) => match decode (slotWord bs (pcSlot x.pc)) with
      | .ok i => x.op.isSome || !t.regHeld x i
      | .error _ => false
    | _ => false
theorem mayFetch_of {s : State} {t : Team} {x : Split} (h : mayFetch s t x = true) : ∃ s2 bs i, MayFetch s t x s2 bs i := by
  simp only [mayFetch, Bool.and_eq_true, Option.isNone_iff_eq_none] at h
  obtain ⟨⟨h1, h2⟩, h⟩ := h
  split at h
  · rename_i s2 bs hf
    split at h
    · rename_i i hd
      exact ⟨s2, bs, i, by simpa using h1, h2, hf, hd, by simpa using h⟩
    · simp at h
  · simp at h

def issuesWord (s : State) : Bool :=
  let s0 := s.advance
  s0.inbox.isEmpty && s0.timeoutDue.isNone && match s0.turnCore with
    | none => false
    | some c =>
      let s1 : State := { s0 with turns := s0.turns.drop 1, cur := { s0.cur with core := c } }
      match s1.choose c with
      | some (t, x, false) => x.check.isNone && mayFetch (s1.setCore { s1.core c with retried := false }) t x
      | _ => false

/-- The hypotheses of the statement about a core's step. -/
def StepsWord (s : State) : Prop :=
  ∃ (c : Nat) (t : Team) (x : Split) (s2 : State) (bs : List Byte) (i : Instr),
    let s0 := s.advance
    s0.inbox = [] ∧ s0.timeoutDue = none ∧ s0.turnCore = some c ∧
    let s1 : State := { s0 with turns := s0.turns.drop 1, cur := { s0.cur with core := c } }
    s1.choose c = some (t, x, false) ∧ x.check = none ∧
      MayFetch (s1.setCore { s1.core c with retried := false }) t x s2 bs i
theorem stepsWord_of {s : State} (h : issuesWord s = true) : StepsWord s := by
  unfold issuesWord at h
  rw [Bool.and_eq_true, Bool.and_eq_true] at h
  obtain ⟨⟨h0, h2⟩, h⟩ := h
  split at h
  · simp at h
  · rename_i c hturn
    dsimp only at h
    split at h
    · rename_i t x hc
      rw [Bool.and_eq_true] at h
      obtain ⟨s2, bs, i, hm⟩ := mayFetch_of h.2
      exact ⟨c, t, x, s2, bs, i, by simpa using h0, by simpa using h2, hturn, hc, by simpa using h.1, hm⟩
    · simp at h

/-- The state that `withFetchWord` makes from reset: the next step issues the word. -/
def first : State := State.reset.withFetchWord 96 0x000401C01C03FFFFC1400000

/-- It meets what the statement asks of a core's step. -/
theorem witness_StepRunsTheDecodedInstruction : StepsWord first := stepsWord_of (by decide +kernel)
theorem witness_StepRunsTheDecodedInstruction_inbox : ∃ (s : State) (i : Instr) (rest : List Instr),
    s.advance.inbox = i :: rest ∧ i.fields = none ∧ i ≠ .udf :=
  ⟨{ inbox := [.heartbeat 0] }, .heartbeat 0, [], by decide +kernel, rfl, by decide⟩

/-- A barrier whose timer is past its time. -/
def overdue : State :=
  { State.reset with
    pkgs := [{ id := 0, cycle := 2 ^ 20 }]
    gangs := [{ id := 0, ctx := 0, launch := 0, index := 0, pkg := 0, cluster := 0, expected := 2, log2bar := 10
                barriers := [{ count := 1, timer := some 5 }] }] }
theorem overdue_timers : overdue.advance.gangs.map (fun g => (g.id, g.pkg, g.timers)) = [(0, 0, [(1029, 0)])] := by
  decide +kernel
theorem overdue_clock : overdue.advance.cycle 0 = 2 ^ 20 + 1 + Config.extraCycles 0 := by with_unfolding_all rfl
theorem witness_StepRunsTheDecodedInstruction_overdue : overdue.advance.timeoutDue = some (.barrierTimeout 0 0) := by
  have h : (1029 : Nat) < overdue.advance.cycle 0 := by rw [overdue_clock]; omega
  obtain ⟨g, hg, hk⟩ := List.map_eq_singleton_iff.mp overdue_timers
  simp only [Prod.mk.injEq] at hk
  unfold State.timeoutDue
  simp [hg, hk, h]

/-- Splits that try again: a rejected pass, an ordering stall, an event that stalled. -/
def retrying (w : Wait) (b : Block) : State :=
  { first with teams := first.teams.map fun t => { t with splits := t.splits.map fun x => { x with wait := w, block := b } } }
def RetriesWord (s : State) : Prop :=
  let s1 := s.coreReplies 0
  ∃ (t : Team) (x : Split) (s2 : State) (bs : List Byte) (i : Instr), s1.team? 0x40 = some t ∧ t.split? 0 = some x ∧
    x.needWalks = 0 ∧ x.needEntries = 0 ∧
    (x.wait = .rejected ∨ x.wait = .order ∧ x.block = .none ∨ ∃ j n m h, x.wait = .order ∧ x.block = .stalled j n m h) ∧
    let y : Split := { x with tried := s1.tick }
    let u := t.setSplit y
    MayFetch (s1.setTeam u) u y s2 bs i
def mayRetry (x : Split) : Bool :=
  x.wait == .rejected || (x.wait == .order && match x.block with
    | .none => true
    | .stalled _ _ _ _ => true
    | _ => false)
theorem mayRetry_of {x : Split} (h : mayRetry x = true) :
    x.wait = .rejected ∨ x.wait = .order ∧ x.block = .none ∨ ∃ j n m h, x.wait = .order ∧ x.block = .stalled j n m h := by
  simp only [mayRetry, Bool.or_eq_true, Bool.and_eq_true, beq_iff_eq] at h
  rcases h with h | ⟨h, hb⟩
  · exact .inl h
  · cases hx : x.block with
    | none => exact .inr (.inl ⟨h, rfl⟩)
    | stalled j n m g => exact .inr (.inr ⟨j, n, m, g, h, rfl⟩)
    | _ => simp [hx] at hb
def retriesWord (s : State) : Bool :=
  let s1 := s.coreReplies 0
  match s1.team? 0x40 with
  | none => false
  | some t => match t.split? 0 with
    | none => false
    | some x =>
      let y : Split := { x with tried := s1.tick }
      let u := t.setSplit y
      decide (x.needWalks = 0) && decide (x.needEntries = 0) && mayRetry x && mayFetch (s1.setTeam u) u y
theorem retriesWord_of {s : State} (h : retriesWord s = true) : RetriesWord s := by
  unfold retriesWord at h
  unfold RetriesWord
  dsimp only at h ⊢
  split at h
  · simp at h
  · rename_i t ht
    split at h
    · simp at h
    · rename_i x hx
      simp only [Bool.and_eq_true, decide_eq_true_eq] at h
      obtain ⟨⟨⟨h1, h0⟩, h2⟩, h⟩ := h
      obtain ⟨s2, bs, i, hm⟩ := mayFetch_of h
      exact ⟨t, x, s2, bs, i, ht, hx, h1, h0, mayRetry_of h2, hm⟩
theorem witness_StepRunsTheDecodedInstruction_retries :
    ∀ k ∈ [(Wait.rejected, Block.none), (.order, .none), (.order, .stalled 5 none 1 0)], RetriesWord (retrying k.1 k.2) := by
  have h : ∀ k ∈ [(Wait.rejected, Block.none), (.order, .none), (.order, .stalled 5 none 1 0)],
      retriesWord (retrying k.1 k.2) = true := by decide +kernel
  exact fun k hk => retriesWord_of (h k hk)

/-- A step of it runs the word, `mov v1, 5`. -/
theorem test_fetch_word_runs :
    (match step first with
      | .next s => vOf s 0 1 == 5 && (split1 s).pc == 0x10001
      | _ => false) = true := by decide +kernel

/-- One lane with p1 = 0; the guard p1 leaves no lane. -/
def one : State := st (tm [ln [(2, 5), (4, 0x80000000)]])
theorem witness_DecodeChecks :
    (∃ (i : Instr) (h : Head) (o : Ops) (s : State) (e : Ex1), i.fields = some (h, o) ∧ s.current h.guard = some e ∧
      e.slots = []) ∧
    (∃ (i : Instr) (h : Head) (o : Ops) (s : State) (e : Ex1), i.fields = some (h, o) ∧ s.current h.guard = some e ∧
      e.slots ≠ [] ∧ operandsAllowed i e.t e.x.trap.isSome = false) ∧
    (∃ (i : Instr) (h : Head) (o : Ops) (s : State) (e : Ex1), i.fields = some (h, o) ∧ s.current h.guard = some e ∧
      e.slots ≠ [] ∧ operandsAllowed i e.t e.x.trap.isSome = true ∧ fpTypeOk i = false) ∧
    (∃ (s : State) (w : Insn) (e : Ex1), s.current ⟨false, 7⟩ = some e ∧
      s.current ⟨w.getLsbD 73, w.extractLsb' 70 3⟩ = some e ∧ e.slots ≠ []) ∧
    ∃ (s : State) (w : Insn) (e : Ex1), s.current ⟨w.getLsbD 73, w.extractLsb' 70 3⟩ = some e ∧ e.slots = [] :=
  ⟨⟨.mov { i1 false .w32 false with head := gd 1 }, _, _, one, (one.current ⟨false, 1⟩).get (by decide +kernel), rfl,
      get_some _, by decide +kernel⟩,
    ⟨.mov { i1 false .w32 false with a := .v 64 }, _, _, one, (one.current ⟨false, 7⟩).get (by decide +kernel), rfl,
      get_some _, by decide +kernel, by decide +kernel⟩,
    ⟨.fadd (f2 .rne false false false (.other 3)), _, _, one, (one.current ⟨false, 7⟩).get (by decide +kernel), rfl,
      get_some _, by decide +kernel, by decide +kernel, by decide +kernel⟩,
    ⟨one, 0x000001FFFFFFFFFFC0000000, (one.current ⟨false, 7⟩).get (by decide +kernel), get_some _, get_some _,
      by decide +kernel⟩,
    ⟨one, 0x0000007FFFFFFFFFC0000000, (one.current ⟨false, 1⟩).get (by decide +kernel), get_some _, by decide +kernel⟩⟩

def canonical (s : State) : Bool :=
  s.mem.wf && s.dies.all (fun d => d.ram.cells.wf && d.cmds.all fun c => match c.orphan with
    | some r => r.1.cells.wf
    | none => true) &&
    s.gangs.all (fun g => g.pool.cells.wf) && s.teams.all (fun t => t.scratch.cells.wf && t.lanes.all fun l => l.slice.cells.wf) &&
    s.cores.all fun c => c.l1.all fun ln => ln.data.wf

theorem canonical_of {s : State} (h : canonical s = true) : Canonical s := by
  simp only [canonical, Bool.and_eq_true, List.all_eq_true] at h
  obtain ⟨⟨⟨⟨h1, h2⟩, h3⟩, h4⟩, h5⟩ := h
  refine ⟨h1, fun d hd => (h2 d hd).1, h3, fun t ht => ⟨(h4 t ht).1, (h4 t ht).2⟩, h5, ?_⟩
  intro d hd c hc r n ho
  have := (h2 d hd).2 c hc
  rw [ho] at this
  exact this

theorem next_of {o : Host.Outcome State Fault Refusal} (h : (match o with
    | .next _ => true
    | _ => false) = true) : ∃ t, o = .next t := by
  split at h
  · exact ⟨_, rfl⟩
  · simp at h

/-- A canonical state that lists bytes, and its step. -/
theorem witness_EveryStepKeepsEveryByteMemory : Canonical first ∧ first.mem ≠ [] ∧ ∃ t, step first = .next t :=
  ⟨canonical_of (by decide +kernel), List.isEmpty_eq_false_iff.mp (by decide +kernel), next_of (by decide +kernel)⟩

/-- A fault cause, and splits outside and inside a handler. -/
def cs : Cause := { code := codeBounds, pc := 0x40, resume := 0x40 }
def mark : TrapMark := { resume := 0x40, given := 0x40, join := 0, creator := noEntry, lap := 0, faulting := 1 }
def sp0 : Split := { mask := 1, pc := 0x40 }
def inTrap : Split := { id := 1, mask := 2, pc := 0x100, trap := some mark }

/-- Delivered at the label; held behind another split's handler; fatal without a label; in a handler. -/
theorem witness_TakingATrap :
    (∃ (s : State) (t : Team) (x : Split) (label : Pc), s.xshufArrival (t.landSplit x.id) x = false ∧
      TakesTrap s t x label) ∧
    (∃ (s : State) (t : Team) (x : Split) (label : Pc), s.xshufArrival (t.landSplit x.id) x = false ∧ x.trap = none ∧
      t.entry.trap = some label ∧ t.inHandler = true) ∧
    (∃ (s : State) (t : Team) (x : Split), s.xshufArrival (t.landSplit x.id) x = false ∧ x.trap = none ∧
      t.entry.trap = none ∧ cs.code ≠ codeBreakpoint) ∧
    ∃ (s : State) (t : Team) (x : Split), s.xshufArrival (t.landSplit x.id) x = false ∧ x.trap.isSome = true :=
  let t := tm [{}]
  let u : Team := { tm [{}, {}] with splits := [sp0, inTrap] }
  ⟨⟨st t, t, sp0, 0x100, by decide +kernel, ⟨by decide +kernel, rfl, rfl, by decide +kernel, by decide +kernel⟩⟩,
    ⟨st u, u, sp0, 0x100, by decide +kernel, rfl, rfl, by decide +kernel⟩,
    ⟨st t, { t with entry := {} }, sp0, by decide +kernel, rfl, rfl, by decide⟩,
    ⟨st u, u, inTrap, by decide +kernel, rfl⟩⟩

/-! ### Control flow -/

/-- Two lanes, p1 true in the first; each lane's link stack holds `d` entries, the last being 0x80. -/
def linked (d : Nat) : State :=
  let sl : Mem := (Mem.write [] 0 (leBytes 4 d)).write (8 * max d 1) (leBytes 8 0x80)
  st (tm [{ ln [(2, 0x40)] with p := 2, slice := { cells := sl } }, { ln [(2, 0x40)] with slice := { cells := sl } }])
/-- The same with a full split table: no entry is left. -/
def crowded : State :=
  let t := team1 (linked 1)
  st { t with splits := t.splits ++ (List.range 15).map fun i => { id := i + 1 } }
def br (h : Head) (toff joff : BitVec 22) : BrOp := ⟨h, toff, 0, joff, 0⟩

/-- Line 0x80 is there, and its slot 0 may be entered; s3 holds its distance. -/
def lined : State :=
  let t := team1 (linked 1)
  { gst { t with s := (Vector.replicate 64 0).set 3 0x40 } with mem := tables.write 0x80 (oneSlotLine 0) }
/-- The line of a join needs no walk, and its slot's TGT bit is clear, or not. -/
def joinIs (e : Ex1) (s : State) (p : Pc) (clear : Bool) : Bool :=
  targetOk p && (s.fetchWalk (metered s e) { e.x with again := true } (pcLine p).toNat).isNone && (tgtClear s e.t p).2 == clear
theorem joinOpen_of {e : Ex1} {s : State} {j : Option Pc} {p : Pc} (h : j = some p) (c : joinIs e s p false = true) :
    JoinOpen e s j (tgtClear s e.t p).1 := by
  subst h
  simp only [joinIs, Bool.and_eq_true, Option.isNone_iff_eq_none, beq_iff_eq] at c
  exact ⟨c.1.1, c.1.2, Prod.ext rfl c.2⟩

theorem joinClosed_of {e : Ex1} {s : State} {p : Pc} (c : joinIs e s p true = true) :
    JoinClosed e s p (tgtClear s e.t p).1 := by
  simp only [joinIs, Bool.and_eq_true, Option.isNone_iff_eq_none, beq_iff_eq] at c
  exact .inr ⟨c.1.1, c.1.2, Prod.ext rfl c.2⟩
def badJoin : BrOp := ⟨gd 1, 1, 0, 1, 1⟩
theorem newFrame_false (e : Ex1) (x : BrOp) : newFrame false e x = none := by simp [newFrame]

/-- A whole split; a divided one with room, without and with a new frame; a join that may not be entered; no room. -/
theorem witness_BranchesDivideSplits :
    (∃ (x : BrOp) (s : State) (e : Ex1), (Instr.bra false x).wf = true ∧ Issues (.bra false x) s e ∧ AllLanes e) ∧
    (∃ (x : BrOp) (s : State) (e : Ex1), (Instr.bra false x).wf = true ∧ Issues (.bra false x) s e ∧ ¬AllLanes e ∧
      JoinOpen e s (newFrame false e x) s ∧ Room e 2) ∧
    (∃ (x : BrOp) (s s' : State) (e : Ex1), (Instr.bra true x).wf = true ∧ Issues (.bra true x) s e ∧ ¬AllLanes e ∧ Room e 2 ∧
      newFrame true e x = some 0x80 ∧ JoinOpen e s (newFrame true e x) s') ∧
    (∃ (x : BrOp) (s s' : State) (e : Ex1), (Instr.bra true x).wf = true ∧ Issues (.bra true x) s e ∧ ¬AllLanes e ∧
      newFrame true e x = some 0x81 ∧ JoinClosed e s 0x81 s') ∧
    ∃ (x : BrOp) (s : State) (e : Ex1), (Instr.bra false x).wf = true ∧ Issues (.bra false x) s e ∧ ¬AllLanes e ∧
      16 + e.t.entry.splitspill < e.t.splits.length + 1 :=
  ⟨⟨br hd 1 0, linked 1, exOf (.bra false (br hd 1 0)) (linked 1), by decide +kernel, (issues_of (by decide +kernel)).2,
      show _ = _ by decide +kernel⟩,
    ⟨br (gd 1) 1 0, linked 1, exOf (.bra false (br (gd 1) 1 0)) (linked 1), by decide +kernel,
      (issues_of (by decide +kernel)).2, show ¬_ = _ by decide +kernel, by rw [newFrame_false]; exact rfl,
      ⟨by decide +kernel, by decide +kernel, by decide +kernel⟩⟩,
    ⟨br (gd 1) 1 1, lined, _, exOf (.bra true (br (gd 1) 1 1)) lined, by decide +kernel,
      (issues_of (by decide +kernel)).2, show ¬_ = _ by decide +kernel,
      ⟨by decide +kernel, by decide +kernel, by decide +kernel⟩, by decide +kernel,
      joinOpen_of (p := 0x80) (by decide +kernel) (by decide +kernel)⟩,
    ⟨badJoin, lined, _, exOf (.bra true badJoin) lined, by decide +kernel,
      (issues_of (by decide +kernel)).2, by unfold AllLanes; decide +kernel, by decide +kernel,
      joinClosed_of (by decide +kernel)⟩,
    ⟨br (gd 1) 1 0, crowded, exOf (.bra false (br (gd 1) 1 0)) crowded, by decide +kernel,
      (issues_of (by decide +kernel)).2, show ¬_ = _ by decide +kernel, by decide +kernel⟩⟩

/-- `call` at depths 0 and 14, `ret` at depth 1, `brx`; and the depths at which `call` and `ret` stop. -/
theorem witness_CallsAndReturns :
    (∀ d ∈ [0, 14], ∃ (x : BrOp) (e : Ex1), (Instr.call x).wf = true ∧ Issues (.call x) (linked d) e ∧ Room e 1 ∧
      LanesExist e ∧ 128 ≤ e.t.entry.slice ∧ ∀ i ∈ e.slots, (e.t.lane i).depth < 15) ∧
    (∃ e, (Instr.ret (gd 1)).wf = true ∧ Issues (.ret (gd 1)) (linked 1) e ∧ Room e (1 + e.slots.length) ∧ LanesExist e ∧
      128 ≤ e.t.entry.slice ∧ ∀ i ∈ e.slots, 0 < (e.t.lane i).depth) ∧
    (∀ b ∈ [Operand.zero, .s 3], ∃ (x : PlainOp) (e : Ex1) (s' : State), (Instr.brx x).wf = true ∧ Issues (.brx x) lined e ∧
      x.b = b ∧ JoinOpen e lined (if x.b = .zero then none else
        some (offsetTarget e.pc (readField e.t [] (immPlain x.imm) e.low x.b 0))) s' ∧
      Room e (1 + e.slots.length) ∧ e.slots.filter (fun i => targetOk (offsetTarget e.pc (e.t.regRead i x.a 0))) = e.slots) ∧
    (∃ (x : BrOp) (e : Ex1) (i : Nat), Issues (.call x) (linked 15) e ∧ AllLanes e ∧
      (e.slots.find? fun i => decide (e.t.entry.slice < 128) || (e.t.lane i).depth == 15) = some i) ∧
    ∃ (e : Ex1) (i : Nat), Issues (.ret hd) (linked 0) e ∧ AllLanes e ∧
      (e.slots.find? fun i => decide (e.t.entry.slice < 128) || (e.t.lane i).depth == 0) = some i := by
  refine ⟨?_, ⟨exOf (.ret (gd 1)) (linked 1), by decide +kernel, (issues_of (by decide +kernel)).2,
      ⟨by decide +kernel, by decide +kernel, by decide +kernel⟩, by unfold LanesExist; decide +kernel, by decide +kernel,
      by decide +kernel⟩,
    ?_,
    ⟨br hd 1 0, exOf (.call (br hd 1 0)) (linked 15), 0, (issues_of (by decide +kernel)).2, show _ = _ by decide +kernel,
      by decide +kernel⟩,
    ⟨exOf (.ret hd) (linked 0), 0, (issues_of (by decide +kernel)).2, show _ = _ by decide +kernel, by decide +kernel⟩⟩
  on_goal 2 =>
    intro b hb
    simp only [List.mem_cons, List.not_mem_nil, or_false] at hb
    rcases hb with rfl | rfl
    · exact ⟨pl hd .zero (.v 2) .zero .zero, exOf (.brx (pl hd .zero (.v 2) .zero .zero)) lined, lined, by decide +kernel,
        (issues_of (by decide +kernel)).2, rfl, rfl, ⟨by decide +kernel, by decide +kernel, by decide +kernel⟩,
        by decide +kernel⟩
    · exact ⟨pl hd .zero (.v 2) (.s 3) .zero, exOf (.brx (pl hd .zero (.v 2) (.s 3) .zero)) lined, _, by decide +kernel,
        (issues_of (by decide +kernel)).2, rfl,
        joinOpen_of (p := 0x80) (by decide +kernel) (by decide +kernel),
        ⟨by decide +kernel, by decide +kernel, by decide +kernel⟩, by decide +kernel⟩
  intro d hd'
  simp only [List.mem_cons, List.not_mem_nil, or_false] at hd'
  rcases hd' with rfl | rfl
  · exact ⟨br hd 1 0, exOf (.call (br hd 1 0)) (linked 0), by decide +kernel, (issues_of (by decide +kernel)).2,
      ⟨by decide +kernel, by decide +kernel, by decide +kernel⟩, by unfold LanesExist; decide +kernel, by decide +kernel,
      by decide +kernel⟩
  · exact ⟨br hd 1 0, exOf (.call (br hd 1 0)) (linked 14), by decide +kernel, (issues_of (by decide +kernel)).2,
      ⟨by decide +kernel, by decide +kernel, by decide +kernel⟩, by unfold LanesExist; decide +kernel, by decide +kernel,
      by decide +kernel⟩

/-- Two members that wait at their join, and the record of their frame. -/
def frameTeam : Team :=
  { tm [{}, {}] with splits :=
      [{ id := 1, mask := 1, pc := 0x80, join := 0x80, creator := 0, wait := .join },
       { id := 2, mask := 2, pc := 0x80, join := 0x80, creator := 0, wait := .join },
       { id := 0, mask := 3, pc := 0x80, record := true, wait := .frame }] }

/-- A split that loops and a sibling that waits at their `join`, both on lap 0, and the record of their frame. -/
def loopTeam : Team :=
  { tm [{}, {}] with splits :=
      [{ id := 1, mask := 1, pc := 0x40, join := 0x80, creator := 0 },
       { id := 2, mask := 2, pc := 0x80, join := 0x80, creator := 0, wait := .join },
       { id := 0, mask := 3, pc := 0x80, record := true, wait := .frame }] }

/-- R96 and R97: once the looping split is on lap 1, the sibling of lap 0 merges alone and goes on in the outer frame. -/
theorem test_raised_lap_releases_the_join :
    ((team1 (run (.bra false (br hd 0 0)) { st loopTeam with cur := { team := loopTeam.key, split := 1, pc := 0x40 } })).splits.map
      fun x => (x.mask.toNat, x.pc.toNat, x.lap.toNat, x.wait, x.creator)) =
    [(1, 0x40, 1, .ready, 0), (2, 0x81, 0, .ready, noEntry), (1, 0x80, 0, .frame, noEntry)] := by decide +kernel

/-- `join` outside and inside a frame; a frame that is complete. -/
theorem witness_JoinWaitsAndMerges :
    (∃ e, (Instr.join false hd).wf = true ∧ Issues (.join false hd) one e ∧ (e.x.creator = noEntry ∨ e.x.join ≠ e.pc)) ∧
    (∃ (s : State) (e : Ex1), Issues (.join true hd) s e ∧ ¬(e.x.creator = noEntry ∨ e.x.join ≠ e.pc)) ∧
    ∃ (t : Team) (x y c : Split), t.splits = [x, y, c] ∧ (x.id ≠ y.id ∧ x.id ≠ c.id ∧ y.id ≠ c.id) ∧
      (x.wait = .join ∧ y.wait = .join ∧ x.pc = y.pc ∧ x.join = y.join ∧ x.creator = c.id ∧ y.creator = c.id ∧
        x.lap = y.lap) ∧
      (c.id ≠ noEntry ∧ x.record = false ∧ y.record = false ∧ c.record = true ∧ c.wait = .frame) ∧
      (c.join ≠ x.join ∨ c.creator ≠ c.id ∨ (c.lap ≠ x.lap ∧ x.joinAny = false)) ∧ c.mask = x.mask ||| y.mask :=
  let s : State := st { tm [{}] with splits := [{ id := 1, mask := 1, pc := 0x40, join := 0x40, creator := 0 }] }
  let s : State := { s with cur := { s.cur with split := 1 } }
  ⟨⟨exOf (.join false hd) one, by decide +kernel, (issues_of (by decide +kernel)).2, by decide +kernel⟩,
    ⟨s, exOf (.join true hd) s, (issues_of (by decide +kernel)).2, by decide +kernel⟩,
    ⟨frameTeam, _, _, _, rfl, by decide, ⟨rfl, rfl, rfl, rfl, rfl, rfl, rfl⟩, ⟨by decide, rfl, rfl, rfl, rfl⟩,
      by decide +kernel, by decide +kernel⟩⟩

/-- Some lanes exit; all lanes of the only split exit; no room for the lanes that stay. -/
theorem witness_ExitRemovesItsLanes :
    (∃ e, (Instr.exit (gd 1)).wf = true ∧ Issues (.exit (gd 1)) (linked 1) e ∧ LanesExist e ∧ ¬AllLanes e ∧ Room e 1) ∧
    (∃ e, Issues (.exit hd) one e ∧ LanesExist e ∧ AllLanes e ∧ e.t.splits = [e.x]) ∧
    ∃ e, Issues (.exit (gd 1)) crowded e ∧ ¬AllLanes e ∧ 16 + e.t.entry.splitspill < e.t.splits.length + 1 :=
  ⟨⟨exOf (.exit (gd 1)) (linked 1), by decide +kernel, (issues_of (by decide +kernel)).2, by unfold LanesExist; decide +kernel,
      show ¬_ = _ by decide +kernel, ⟨by decide +kernel, by decide +kernel, by decide +kernel⟩⟩,
    ⟨exOf (.exit hd) one, (issues_of (by decide +kernel)).2, by unfold LanesExist; decide +kernel,
      show _ = _ by decide +kernel, by decide +kernel⟩,
    ⟨exOf (.exit (gd 1)) crowded, (issues_of (by decide +kernel)).2, show ¬_ = _ by decide +kernel, by decide +kernel⟩⟩

/-- The team and its marked split at 0x100, whose trap window is j. -/
def inHandler (m : TrapMark) : State :=
  let t := { tm [{}] with splits := [{ mask := 1, pc := 0x100, trap := some m }], j := #v[0, 0x40, 0, 0] }
  { st t with cur := { team := t.key, pc := 0x100 } }

def trapReady (i : Instr) (s : State) : Bool :=
  match i.fields with
  | some f =>
    let e := (exOf i s).charged s
    match popFields (exOf i s).slots i f.2 e.t with
    | .ok (t, _) => (t.split? e.x.id == some e.x) && e.x.trap.isNone && (!t.inHandler && t.held.isEmpty) &&
        (t.entry.trap.isSome && !s.xshufArrival (t.landSplit e.x.id) e.x)
    | _ => false
  | none => false
theorem trapReady_of {i : Instr} {s : State} {f : Head × Ops} (hf : i.fields = some f) (h : trapReady i s = true) :
    ∃ (e' : Ex1) (p : Pops) (s' : State) (label : Pc),
      Delivers (exOf i s).slots i f.2 ((exOf i s).charged s) s e' p s' ∧ TakesTrap s' e'.t e'.x label := by
  unfold trapReady at h
  simp only [hf] at h
  split at h
  · rename_i t p hp
    simp only [Bool.and_eq_true, Bool.not_eq_true', Option.isNone_iff_eq_none, List.isEmpty_iff, beq_iff_eq] at h
    obtain ⟨⟨⟨h1, h2⟩, quiet⟩, h5, h6⟩ := h
    exact ⟨{ ((exOf i s).charged s) with t := t }, p, s, _, ⟨hp, rfl, rfl⟩, ⟨h1, h2, get_some h5, quiet, h6⟩⟩
  · simp at h

/-- A mark with a further fault of the lane. -/
def twice : TrapMark := { mark with more := [{ cs with lanes := 1 }] }

/-- R442: the further fault is delivered when the handler returns, to resume where it returned to. -/
theorem test_tret_delivers_the_further_fault :
    let s := run (.tret hd) (inHandler twice)
    ((team1 s).j[0] == BitVec.ofNat 32 codeBounds && (split1 s).pc == 0x100 &&
      ((split1 s).trap.map TrapMark.resume) == some 0x40) = true := by decide +kernel

/-- `trap` and `brk` with a label, `brk` without one; `tret` without a mark, in the frame of the delivery, and in another. -/
theorem witness_TrapInstructions :
    (∀ i ∈ [Instr.trap (pl hd .zero .imm .zero .zero 9), .brk (pl hd .zero (.v 2) .zero .zero)], i.wf = true ∧
      ∃ f, i.fields = some f ∧ Issues i one (exOf i one) ∧ AllLanes (exOf i one) ∧ ∃ (e' : Ex1) (p : Pops) (s' : State)
        (label : Pc), Delivers (exOf i one).slots i f.2 ((exOf i one).charged one) one e' p s' ∧ TakesTrap s' e'.t e'.x label) ∧
    (∃ (s : State) (e : Ex1), Issues (.brk (pl hd .zero (.v 2) .zero .zero)) s e ∧ e.x.trap = none ∧ e.t.entry.trap = none ∧
      s.xshufArrival (e.t.landSplit e.x.id) e.x = false) ∧
    (∃ e, (Instr.tret hd).wf = true ∧ Issues (.tret hd) one e ∧ e.x.trap = none) ∧
    (∃ (s : State) (e : Ex1) (m : TrapMark), Issues (.tret hd) s e ∧ e.x.trap = some m ∧ m.preempt = false ∧
      (e.x.join = m.join ∧ e.x.creator = m.creator ∧ e.x.lap = m.lap) ∧ e.t.held = [] ∧
      (∀ c ∈ m.more, c.lanes &&& e.x.mask = 0) ∧ e.t.j[1] = m.given) ∧
    (∃ (s : State) (e : Ex1) (m : TrapMark) (label : Pc) (c : Cause) (more : List Cause), Issues (.tret hd) s e ∧
      e.x.trap = some m ∧ m.preempt = false ∧ (e.x.join = m.join ∧ e.x.creator = m.creator ∧ e.x.lap = m.lap) ∧
      e.t.entry.trap = some label ∧ (∀ y ∈ e.t.splits, y.id ≠ e.x.id → y.trap = none) ∧
      (m.more.filter fun c => c.lanes &&& e.x.mask != 0) = c :: more ∧ c.code ≠ codeWplaneLost) ∧
    (∃ (s : State) (e : Ex1) (m : TrapMark), Issues (.tret hd) s e ∧ e.x.trap = some m ∧ m.preempt = false ∧
      (e.x.join = m.join ∧ e.x.creator = m.creator ∧ e.x.lap = m.lap) ∧ e.t.j[1] ≠ m.given) ∧
    ∃ (s : State) (e : Ex1) (m : TrapMark), Issues (.tret hd) s e ∧ e.x.trap = some m ∧ m.preempt = false ∧
      ¬(e.x.join = m.join ∧ e.x.creator = m.creator ∧ e.x.lap = m.lap) := by
  refine ⟨?_, ?_, ⟨exOf (.tret hd) one, by decide +kernel, (issues_of (by decide +kernel)).2, by decide +kernel⟩,
    ⟨inHandler mark, exOf (.tret hd) (inHandler mark), mark, (issues_of (by decide +kernel)).2, by decide +kernel, rfl,
      by decide +kernel, by decide +kernel, by decide +kernel, by decide +kernel⟩,
    ⟨inHandler twice, exOf (.tret hd) (inHandler twice), twice, 0x100, { cs with lanes := 1 }, [],
      (issues_of (by decide +kernel)).2, by decide +kernel, rfl, by decide +kernel, by decide +kernel, by decide +kernel,
      by decide +kernel, by decide⟩,
    ⟨inHandler { mark with given := 0x44 }, exOf (.tret hd) (inHandler { mark with given := 0x44 }),
      { mark with given := 0x44 }, (issues_of (by decide +kernel)).2, by decide +kernel, rfl, by decide +kernel,
      by decide +kernel⟩,
    ⟨inHandler { mark with lap := 1 }, exOf (.tret hd) (inHandler { mark with lap := 1 }), { mark with lap := 1 },
      (issues_of (by decide +kernel)).2, by decide +kernel, rfl, by decide +kernel⟩⟩
  · intro i hi
    simp only [List.mem_cons, List.not_mem_nil, or_false] at hi
    rcases hi with rfl | rfl
    · exact ⟨by decide +kernel, _, rfl, (issues_of (by decide +kernel)).2, show _ = _ by decide +kernel,
        trapReady_of rfl (by decide +kernel)⟩
    · exact ⟨by decide +kernel, _, rfl, (issues_of (by decide +kernel)).2, show _ = _ by decide +kernel,
        trapReady_of rfl (by decide +kernel)⟩
  · let s : State := st { tm [ln []] with entry := { vregs := 8 } }
    exact ⟨s, exOf (.brk (pl hd .zero (.v 2) .zero .zero)) s, (issues_of (by decide +kernel)).2, by decide +kernel,
      by decide +kernel, by decide +kernel⟩

/-- A team whose split has gone to line 0x10000 of the state of `first`, with the slot's TGT bit set, or to slot 1, without. -/
def checking (slot : Pc) : State :=
  let t := team1 first
  { first with teams := [{ t with splits := [{ mask := 1, pc := 0x10000 + slot, check := some 0x40 }] }] }
def napping : State := st { tm [{}] with splits := [{ mask := 1, wait := .nap, napUntil := 9 }] }
def fetched (s : State) (core ctx va : Nat) : Option (List Byte) := match (s.fetchLine core ctx va).2 with
  | .ok bs => some bs
  | _ => none
theorem fetched_of {s : State} {core ctx va : Nat} (h : (fetched s core ctx va).isSome = true) :
    s.fetchLine core ctx va = ((s.fetchLine core ctx va).1, .ok ((fetched s core ctx va).get h)) := by
  have : (s.fetchLine core ctx va).2 = .ok ((fetched s core ctx va).get h) := by
    revert h
    unfold fetched
    generalize (s.fetchLine core ctx va).2 = r
    intro h
    cases r <;> first | rfl | cases h
  rw [← this]

/-- `rdsplit` of every selector, `nap` of 0 and of 5 cycles, the end of a nap, and both outcomes of a target check. -/
theorem witness_SplitReadsNapsAndTargets :
    (∀ n ∈ [0, 1, 2, 3, 4, 5, 6, 7], Meets false (.rdsplit (pl hd (.v 1) .imm .zero .zero n)) (linked 1)) ∧
    (∀ n ∈ [0, 5], Meets false (.nap (pl hd .zero .imm .zero .zero n)) (linked 1)) ∧
    (∃ (s : State) (t : Team) (x : Split), s.team? 0x40 = some t ∧ t.split? 0 = some x ∧ x.wait = .nap) ∧
    ∀ k ∈ [0, 1], ∃ (s s1 : State) (t : Team) (x : Split) (pc : Pc) (bs : List Byte), s.team? 0x40 = some t ∧
      t.split? 0 = some x ∧ x.check = some pc ∧ targetOk x.pc = true ∧
      s.fetchLine t.coreNo t.ctx (pcLine x.pc).toNat = (s1, .ok bs) ∧ tgtBit bs (pcSlot x.pc) = (k == 0) ∧ x.fresh = false := by
  refine ⟨?_, ?_, ?_, ?_⟩
  · exact fun n hn => meets_of (by revert n; decide +kernel)
  · exact fun n hn => meets_of (by revert n; decide +kernel)
  · exact ⟨napping, (napping.team? 0x40).get (by decide +kernel), { mask := 1, wait := .nap, napUntil := 9 }, get_some _,
      by decide +kernel, rfl⟩
  · intro k hk
    simp only [List.mem_cons, List.not_mem_nil, or_false] at hk
    rcases hk with rfl | rfl
    · exact ⟨checking 0, _, ((checking 0).team? 0x40).get (by decide +kernel),
        { mask := 1, pc := 0x10000, check := some 0x40 }, 0x40, _, get_some _, by decide +kernel, rfl, by decide +kernel,
        fetched_of (by decide +kernel), by decide +kernel, rfl⟩
    · exact ⟨checking 1, _, ((checking 1).team? 0x40).get (by decide +kernel),
        { mask := 1, pc := 0x10001, check := some 0x40 }, 0x40, _, get_some _, by decide +kernel, rfl, by decide +kernel,
        fetched_of (by decide +kernel), by decide +kernel, rfl⟩

/-! ### Memory -/

/-- Two lanes with addresses 16 and 48 in v2, a gang with a pool, a window of die scratchpad; three words in the core
scratchpad. -/
def memS : State :=
  let t : Team := { tm [ln [(2, 16), (4, 1), (5, 7)], ln [(2, 48), (4, 2), (5, 7)]] with
    gang := some 0, s := (Vector.replicate 64 0).set 2 16, scratch := { cells := [(16, 7), (48, 9), (64, 200)] } }
  { gst t with
    gangs := [{ id := 0, ctx := 0, launch := 0, index := 0, pkg := 0, cluster := 0, expected := 2, poolSize := 256 }]
    ctxDies := [{ ctx := 0, die := 0, winSize := 1024 }] }

def locs (x : MemOp) (indexed : Bool) (need : Need) (s : State) (e : Ex1) : State × List (Nat × Nat × Except Denied Loc) :=
  s.locateAll e.t x.space need (accessAddrs x indexed e)
def found (l : List (Nat × Nat × Except Denied Loc)) : List Acc := l.filterMap fun q => match q.2.2 with
  | .ok w => some ⟨q.1, q.2.1, w⟩
  | .error _ => none
def allOk (l : List (Nat × Nat × Except Denied Loc)) : Bool := l.all fun q => match q.2.2 with
  | .ok _ => true
  | .error _ => false

theorem found_of {l : List (Nat × Nat × Except Denied Loc)} (h : allOk l = true) :
    l = (found l).map fun a => (a.slot, a.addr, .ok a.loc) := by
  induction l with
  | nil => simp [found]
  | cons q l ih =>
    obtain ⟨i, a, r⟩ := q
    simp only [allOk, List.all_cons, Bool.and_eq_true] at h
    cases r with
    | error d => simp at h
    | ok w =>
      have hc : found ((i, a, Except.ok w) :: l) = ⟨i, a, w⟩ :: found l := by simp [found]
      rw [hc, List.map_cons, ← ih h.2]

def translatedB (s : State) (e : Ex1) (sp : Space) (need : Need) (addrs : List Nat) : Bool :=
  sp != .glb || (s.pagesToWalk e.t e.x.walked need addrs).isEmpty
theorem translated_of {s : State} {e : Ex1} {sp : Space} {need : Need} {addrs : List Nat}
    (h : translatedB s e sp need addrs = true) : Translated s e sp need addrs := by
  simp only [translatedB, Bool.or_eq_true, bne_iff_ne, List.isEmpty_iff] at h
  exact fun hg => h.resolve_left (fun hn => hn hg)
def firstIssue (e : Ex1) : Bool :=
  (e.x.accepted == 0 && (e.x.ahead == 0 && (e.x.poisoned == 0 && (!e.x.failed && (!e.x.unified && e.x.lost.isEmpty))))) &&
    e.x.pops.isNone && (e.x.needEntries == 0 && e.x.needWalks == 0)
theorem firstIssue_of {e : Ex1} (h : firstIssue e = true) : FirstIssue e := by
  simp only [firstIssue, Bool.and_eq_true, beq_iff_eq, Bool.not_eq_true', Option.isNone_iff_eq_none, List.isEmpty_iff] at h
  exact ⟨h.1.1, h.1.2, h.2⟩
def accReach (s : State) (e : Ex1) (a : Acc) : Bool := match a.loc with
  | .glb ps => ps.all fun q => s.reachable e.t.coreNo (homeDie q.2.1)
  | _ => true
theorem accReach_of {s : State} {e : Ex1} {l : List Acc} (h : l.all (accReach s e) = true) :
    ∀ a ∈ l, ∀ ps, a.loc = .glb ps → ∀ q ∈ ps, s.reachable e.t.coreNo (homeDie q.2.1) = true := by
  intro a ha ps hp q hq
  have := List.all_eq_true.mp h a ha
  rw [accReach, hp] at this
  exact List.all_eq_true.mp this q hq
def addrsOf (x : MemOp) (indexed : Bool) (e : Ex1) : List Nat := (accessAddrs x indexed e).map Prod.snd
def nothingEarlier (e : Ex1) : Bool :=
  e.t.splits.all fun y => y.id == e.x.id || !decide (y.issuedAt < e.x.issuedAt) || y.holds.isEmpty
theorem nothingEarlier_of {e : Ex1} (h : nothingEarlier e = true) : NothingEarlier e := by
  intro y hy hne hlt
  have := List.all_eq_true.mp h y hy
  simpa [hne, hlt] using this
theorem earlierElements_of {e : Ex1}
    (h : (e.t.splits.any fun y => y.id != e.x.id && decide (y.issuedAt < e.x.issuedAt) && y.elementsDue) = false) :
    ¬EarlierElements e := by
  rintro ⟨y, hy, h1, h2, h3⟩
  have := List.any_eq_false.mp h y hy
  simp [h1, h2, h3] at this
theorem allPerformed_of {s : State} {e : Ex1}
    (h : ((s.outstanding e.t.key e.t.dieNo).isEmpty && nothingEarlier e &&
      !(e.t.splits.any fun y => y.id != e.x.id && decide (y.issuedAt < e.x.issuedAt) && y.elementsDue)) = true) :
    AllPerformed s e := by
  simp only [Bool.and_eq_true, Bool.not_eq_true', List.isEmpty_iff] at h
  exact ⟨h.1.1, nothingEarlier_of h.1.2, earlierElements_of h.2⟩
def entriesB (s : State) (e : Ex1) (n : Nat) : Bool :=
  (s.reservation e.t.coreNo).isNone && decide (s.entriesUsed e.t.coreNo + n ≤ 256)
theorem entries_of {s : State} {e : Ex1} {n : Nat} (h : entriesB s e n = true) : EntriesFor s e n := by
  simp only [entriesB, Bool.and_eq_true, decide_eq_true_eq, Option.isNone_iff_eq_none] at h
  exact h

/-- No result is in flight and no instruction of another split is open. -/
def aloneB (e : Ex1) : Bool :=
  e.t.landings.all (fun l => l.silent) && e.t.splits.all fun y => y.id == e.x.id || y.inFlight.isNone
theorem alone_of {e : Ex1} (h : aloneB e = true) :
    (∀ l ∈ e.t.landings, l.silent = true) ∧ ∀ y ∈ e.t.splits, y.id ≠ e.x.id → y.inFlight = none := by
  simp only [aloneB, Bool.and_eq_true, List.all_eq_true, Bool.or_eq_true, beq_iff_eq, Option.isNone_iff_eq_none] at h
  exact ⟨h.1, fun y hy hn => (h.2 y hy).resolve_left hn⟩

def served (x : MemOp) (indexed : Bool) (need : Need) (s : State) (e : Ex1) : Bool :=
  let r := locs x indexed need s e
  (translatedB s e x.space need (addrsOf x indexed e) && allOk r.2 && (firstIssue e && nothingEarlier e)) &&
    ((found r.2).all (accReach r.1 e) &&
      decide (((found r.2).map Acc.slot).Pairwise (· < ·) ∧ ∀ a ∈ found r.2, a.slot < 1024)) &&
    (aloneB e && entriesB r.1 e (2 * (found r.2).length) && ((r.1.die e.t.dieNo).requestsOf e.t.key e.x.id).isEmpty)
theorem served_of {x : MemOp} {indexed : Bool} {need : Need} {s : State} {e : Ex1}
    (h : served x indexed need s e = true) :
    Served x indexed need s e (locs x indexed need s e).1 (found (locs x indexed need s e).2) := by
  simp only [served, Bool.and_eq_true, decide_eq_true_eq, List.isEmpty_iff] at h
  obtain ⟨⟨⟨⟨h0, h1⟩, h2, h3⟩, h4, h5⟩, ⟨h6, h7⟩, h8⟩ := h
  exact ⟨translated_of h0, by rw [← found_of h1]; rfl, h5, firstIssue_of h2, nothingEarlier_of h3, fun _ => alone_of h6,
    accReach_of h4, entries_of h7, h8⟩

/-- The hypotheses of the statement about loads. -/
def LoadMeets (i : Instr) (x : MemOp) (long : Bool) (s : State) : Prop :=
  i.wf = true ∧ ∃ (e : Ex1) (s1 : State) (accs : List Acc), Issues i s e ∧ e.x.src = [] ∧
    Served x true { bytes := x.width.bytes, kind := .read, plain := long } s e s1 accs
def loadMeets (i : Instr) (x : MemOp) (long : Bool) (s : State) : Bool :=
  let e := exOf i s
  readyTo i s && e.x.src.isEmpty && served x true { bytes := x.width.bytes, kind := .read, plain := long } s e
theorem loadMeets_of {i : Instr} {x : MemOp} {long : Bool} {s : State} (h : loadMeets i x long s = true) :
    LoadMeets i x long s := by
  simp only [loadMeets, Bool.and_eq_true, List.isEmpty_iff] at h
  exact ⟨(issues_of h.1.1).1, _, _, _, (issues_of h.1.1).2, h.1.2, served_of h.2⟩

def ma (sp : Space) (w : MWidth) (o : MOrder) (d a c : Operand) : MemOp := mm sp w o d a .zero c

/-- Lanes of two mask words with one address each: two passes. -/
def wide : State :=
  let t := team1 memS
  { memS with teams := [{ t with
      entry := { t.entry with lanes := 64 }, lanes := (List.range 33).map fun i => ln [(2, 4 * i), (4, i), (5, 7)]
      splits := [{ mask := 2 ^ 33 - 1, pc := 0x40 }] }] }
/-- The sectors of both lanes' bytes are poisoned at home. -/
def spoilt : State := { memS with poison := [0, 1] }

/-- Every space, width and order; a uniform access; `.poll`; `lds`, `ldk`; two passes; poison. -/
theorem witness_LoadResults :
    (∀ x ∈ [ma .lane .b8 .weak (.v 8) (.v 2) .zero, ma .core .b32 .sync (.v 8) (.v 2) .zero,
      ma .core .b64 .weak (.s 8) (.s 2) .zero, ma .clu .b16 .weak (.v 8) (.v 2) .zero, ma .die .b128 .weak (.v 8) (.v 2) .zero,
      { ma .glb .b32 .sync (.v 8) (.v 2) .zero with scope := 3, poll := true },
      { ma .glb .b128 .weak (.v 8) (.v 2) .zero with na := true }], LoadMeets (.ld x) x true memS) ∧
    (∀ x ∈ [ma .lane .b16 .weak (.v 8) (.v 2) .zero, ma .core .b32 .weak (.v 8) (.v 2) .zero], LoadMeets (.lds x) x true memS) ∧
    (∀ x ∈ [ma .core .b32 .weak (.k 8) (.s 2) .zero, ma .glb .b128 .weak (.k 8) (.s 2) .zero], LoadMeets (.ldk x) x false memS) ∧
    ∀ s ∈ [wide, spoilt], LoadMeets (.ld (ma .glb .b32 .weak (.v 8) (.v 2) .zero)) (ma .glb .b32 .weak (.v 8) (.v 2) .zero) true s :=
  ⟨fun x hx => loadMeets_of (by revert x; decide +kernel), fun x hx => loadMeets_of (by revert x; decide +kernel),
    fun x hx => loadMeets_of (by revert x; decide +kernel), fun s hs => loadMeets_of (by
      simp only [List.mem_cons, List.not_mem_nil, or_false] at hs
      rcases hs with rfl | rfl <;> decide +kernel)⟩

/-- R179: lanes that read poison raise POISON and resume behind the load. -/
theorem test_load_poison :
    let s := run (.ld (ma .glb .b32 .weak (.v 8) (.v 2) .zero)) spoilt
    ((team1 s).j[0] == BitVec.ofNat 32 codePoison && (split1 s).pc == 0x100 &&
      ((split1 s).trap.map TrapMark.resume) == some 0x41) = true := by decide +kernel

/-- No element is open that a release would wait for. -/
def nothingOpen (x : MemOp) (s : State) (e : Ex1) (accs : List Acc) : Bool :=
  e.t.splits.all (fun y => y.id == e.x.id || !decide (y.issuedAt < e.x.issuedAt) || !y.elementsDue) &&
    !s.elementsOpen e.t x.scope.toNat (accWords s e.t x.width.bytes accs) e.x.issuedAt
theorem nothingOpen_of {x : MemOp} {s : State} {e : Ex1} {accs : List Acc} {rel : Bool} (h : nothingOpen x s e accs = true) :
    NothingOpen rel x e accs s := by
  simp only [nothingOpen, Bool.and_eq_true, List.all_eq_true, Bool.not_eq_true', Bool.or_eq_true, beq_iff_eq,
    decide_eq_false_iff_not] at h
  refine fun _ => ⟨?_, h.2⟩
  rintro ⟨y, hy, hne, hlt, hd⟩
  rcases h.1 y hy with (h1 | h1) | h1
  · exact hne h1
  · exact h1 hlt
  · rw [h1] at hd; cases hd

/-- The hypotheses of the statement about stores. -/
def StoreMeets (i : Instr) (x : MemOp) (s : State) : Prop :=
  i.wf = true ∧ ∃ (e : Ex1) (s1 : State) (accs : List Acc) (e' : Ex1) (p : Pops) (s2 : State), Issues i s e ∧ e.x.src = [] ∧
    Served x true { bytes := x.width.bytes, kind := .write, plain := true } s e s1 accs ∧
    NothingOpen (x.order == .sync) x e accs s1 ∧
    Delivers e.slots i x.ops e (released (x.order == .sync) x e accs s1) e' p s2
def storeMeets (i : Instr) (x : MemOp) (s : State) : Bool :=
  let e := exOf i s
  let need : Need := { bytes := x.width.bytes, kind := .write, plain := true }
  let r := locs x true need s e
  readyTo i s && e.x.src.isEmpty && served x true need s e && nothingOpen x r.1 e (found r.2) &&
    match popFields e.slots i x.ops e.t with
    | .ok _ => true
    | .error _ => false
theorem storeMeets_of {i : Instr} {x : MemOp} {s : State} (h : storeMeets i x s = true) : StoreMeets i x s := by
  simp only [storeMeets, Bool.and_eq_true, List.isEmpty_iff] at h
  obtain ⟨⟨⟨⟨h1, h0⟩, h2⟩, h3⟩, h4⟩ := h
  split at h4
  · rename_i q hq
    exact ⟨(issues_of h1).1, _, _, _, { exOf i s with t := q.1 }, q.2, _, (issues_of h1).2, h0, served_of h2,
      nothingOpen_of h3, hq, rfl, rfl⟩
  · simp at h4

theorem witness_StoreResults :
    (∀ x ∈ [ma .lane .b8 .weak .zero (.v 2) (.v 4), ma .core .b32 .sync .zero (.v 2) (.v 4),
      ma .clu .b128 .weak .zero (.v 2) (.v 4), ma .die .b16 .weak .zero (.s 2) (.s 4),
      { ma .glb .b64 .sync .zero (.v 2) (.v 4) with scope := 5 }, { ma .glb .b32 .weak .zero (.v 2) (.v 4) with na := true }],
      StoreMeets (.st x) x memS) ∧
    ∀ x ∈ [ma .lane .b16 .weak .zero (.v 2) (.v 4), ma .clu .b32 .weak .zero (.v 2) (.v 4)], StoreMeets (.sts x) x memS :=
  ⟨fun x hx => storeMeets_of (by revert x; decide +kernel), fun x hx => storeMeets_of (by revert x; decide +kernel)⟩

def rewind (s : State) : State :=
  { s with teams := s.teams.map fun t => { t with splits := t.splits.map fun x => { x with pc := 0x40 } } }
def stored (sp : Space) : State :=
  run (.st (ma sp .b32 .weak .zero (.v 2) (.v 4))) (gst (tm [ln [(2, 16), (4, 0x80FF7F01)]]))
def readBack (sp : Space) (w : MWidth) (off : BitVec 8) : Word :=
  let s := run (.ld { ma sp w .weak (.v 8) (.v 2) .zero with imm := off }) (rewind (stored sp))
  vOf (run (.missReply 0x40 1 1) (run (.localAccessComplete 0x40 ⟨0, 1⟩) s)) 0 8

/-- A store and the loads that read it back, in the scratchpad and through L1: little-endian, narrow loads extend by zero. -/
theorem test_store_then_load : ([readBack .core .b32 0, readBack .core .b8 3, readBack .glb .b32 0, readBack .glb .b16 1] ==
    [0x80FF7F01, 0x80, 0x80FF7F01, 0x80FF]) = true := by decide +kernel

/-- A store beyond the scratchpad is BOUNDS at the trap label, with the address and the lane. -/
theorem test_store_bounds :
    let s := run (.st (ma .core .b32 .weak .zero (.k 3) (.v 4)))
      (st { tm [ln []] with k := (Vector.replicate 256 0).set 3 1022 })
    ((team1 s).j == #v[BitVec.ofNat 32 codeBounds, 0x40, 1022, 0] && (split1 s).pc == 0x100) = true := by decide +kernel

/-- The hypotheses of the statement about atomic updates. -/
def UpdateMeets (i : Instr) (x : MemOp) (indexed rel : Bool) (s : State) : Prop :=
  i.wf = true ∧ ∃ (e : Ex1) (s1 : State) (accs : List Acc) (e' : Ex1) (p : Pops) (s2 : State), Issues i s e ∧
    e.x.src = [] ∧ Served x indexed { bytes := x.width.bytes, kind := .write, aligned := true } s e s1 accs ∧
    NothingOpen rel x e accs s1 ∧ Delivers e.slots i x.ops e (released rel x e accs s1) e' p s2
def updateMeets (i : Instr) (x : MemOp) (indexed : Bool) (s : State) : Bool :=
  let e := exOf i s
  let need : Need := { bytes := x.width.bytes, kind := .write, aligned := true }
  let r := locs x indexed need s e
  readyTo i s && e.x.src.isEmpty && served x indexed need s e && nothingOpen x r.1 e (found r.2) &&
    match popFields e.slots i x.ops e.t with
    | .ok _ => true
    | .error _ => false
theorem updateMeets_of {i : Instr} {x : MemOp} {indexed rel : Bool} {s : State} (h : updateMeets i x indexed s = true) :
    UpdateMeets i x indexed rel s := by
  simp only [updateMeets, Bool.and_eq_true, List.isEmpty_iff] at h
  obtain ⟨⟨⟨⟨h1, h0⟩, h2⟩, h3⟩, h4⟩ := h
  split at h4
  · rename_i q hq
    exact ⟨(issues_of h1).1, _, _, _, { exOf i s with t := q.1 }, q.2, _, (issues_of h1).2, h0, served_of h2,
      nothingOpen_of h3, hq, rfl, rfl⟩
  · simp at h4

/-- What a reading of `wait` asks for, and whether its words are met. -/
def waitMeets (x : MemOp) (s : State) (e : Ex1) (met : Bool) : Bool :=
  let need : Need := { bytes := x.width.bytes, kind := .read, aligned := true }
  let r := locs x false need s e
  served x false need s e && (((found r.2).zip (readAll true false x.width.bytes e.t (found r.2) r.1).2).all fun q =>
    q.2.2 || decide (leNat (groupBytes x e.t [] x.b q.1.slot) ≤ leNat q.2.1)) == met
def waitOp (n : BitVec 8) : MemOp := ma .core .b32 .weak (.v 8) (.v 2) .zero |> fun x => { x with b := .imm, imm := n }
def waiting : State :=
  let t := team1 memS
  { memS with teams := [{ t with splits := [{ mask := 3, pc := 0x40, wait := .value, block := .value (waitOp 9) }] }] }

/-- Updates of the core's, the cluster's and the global space. -/
theorem witness_AtomicsAndWaits_core : UpdateMeets (.atom .add .u (ma .core .b32 .weak (.v 8) (.v 2) (.v 4)))
    (ma .core .b32 .weak (.v 8) (.v 2) (.v 4)) true false memS :=
  updateMeets_of (by decide +kernel)
def glbAr : MemOp := { ma .glb .b64 .ar (.v 8) (.v 2) (.v 4) with scope := 2 }
theorem witness_AtomicsAndWaits_glb : UpdateMeets (.atom .max .s glbAr) glbAr true true memS :=
  updateMeets_of (by decide +kernel)
def cluRel : MemOp := { ma .clu .b32 .sync .zero (.v 2) (.v 5) with scope := 2 }
theorem witness_AtomicsAndWaits_red : UpdateMeets (.red .add .f32 cluRel) cluRel true true memS :=
  updateMeets_of (by decide +kernel)
def casOp : MemOp := { ma .core .b32 .weak (.v 8) (.v 2) (.v 4) with b := .v 5 }
theorem witness_AtomicsAndWaits_cas : UpdateMeets (.cas casOp) casOp false false memS :=
  updateMeets_of (by decide +kernel)

/-- `wait` whose words are met, and not met; a later reading. -/
theorem witness_AtomicsAndWaits_wait : ∀ n ∈ [7, 9], (Instr.wait (waitOp n)).wf = true ∧
    Issues (.wait (waitOp n)) memS (exOf (.wait (waitOp n)) memS) ∧
    waitMeets (waitOp n) memS (exOf (.wait (waitOp n)) memS) (n == 7) = true := by
  have h : ∀ n ∈ [7, 9], readyTo (.wait (waitOp n)) memS = true ∧
      waitMeets (waitOp n) memS (exOf (.wait (waitOp n)) memS) (n == 7) = true := by decide +kernel
  exact fun n hn => ⟨(issues_of (h n hn).1).1, (issues_of (h n hn).1).2, (h n hn).2⟩
theorem witness_AtomicsAndWaits_reread : ∃ (t : Team) (y : Split), waiting.team? 0x40 = some t ∧ t.split? 0 = some y ∧
    y.wait = .value ∧ y.block = .value (waitOp 9) :=
  ⟨(waiting.team? 0x40).get (by decide +kernel), { mask := 3, pc := 0x40, wait := .value, block := .value (waitOp 9) },
    get_some _, by decide +kernel, rfl, rfl⟩

theorem noFence_all {s : State} (h : s.dies.all (fun d => !d.fenced) = true) : NoFence s := by
  have key : ∀ (l : List Die) (d : Nat), l.all (fun d => !d.fenced) = true → ((getBy Die.id d l).getD { id := d }).fenced = false := by
    intro l d hl
    induction l with
    | nil => rfl
    | cons x xs ih =>
      simp only [List.all_cons, Bool.and_eq_true, Bool.not_eq_true'] at hl
      unfold getBy
      split
      · exact hl.1
      · exact ih hl.2
  exact fun d => key s.dies d h

/-- A load whose second lane is outside the scratchpad fails for that lane. -/
def outside : State :=
  let t := team1 memS
  { memS with teams := [{ t with lanes := [ln [(2, 16)], ln [(2, 1022)]] }] }
def failing (l : List (Nat × Nat × Except Denied Loc)) : List (Nat × Nat × Nat) := l.filterMap fun q => match q.2.2 with
  | .error (.fault c) => if c = codeDieLost ∨ c = codeLinkDown then none else some (q.1, q.2.1, c)
  | _ => none
def replaying (l : List (Nat × Nat × Except Denied Loc)) : List (Nat × Nat × Nat) := l.filterMap fun q => match q.2.2 with
  | .error (.replay va) => some (q.1, q.2.1, va)
  | _ => none
def faultless (l : List (Nat × Nat × Except Denied Loc)) : Bool := l.all fun q => match q.2.2 with
  | .error (.fault _) => false
  | _ => true
theorem faultless_of {l : List (Nat × Nat × Except Denied Loc)} (h : faultless l = true) :
    ∀ q ∈ l, ∀ c, q.2.2 ≠ .error (.fault c) := by
  intro q hq c hc
  have := List.all_eq_true.mp h q hq
  simp [hc] at this
/-- Lanes of a load of global memory: the entry of the second one's page is not valid and has RPL set, and its walk has
ended. -/
def unmapped (both : Bool) : State :=
  let t := team1 memS
  { memS with mem := memS.mem.write 0x3008 (leBytes 8 0x40), teams := [{ t with
      lanes := [ln [(2, if both then 0x40000010 else 16)], ln [(2, 0x40000000)]]
      splits := [{ mask := 3, pc := 0x40, walked := [0x40000] }] }] }
def glbLoad : MemOp := ma .glb .b32 .weak (.v 8) (.v 2) .zero
def glbNeed : Need := { bytes := 4, kind := .read, plain := true }
/-- The hypotheses about lanes whose page is replayable: some of them, or all. -/
def replays (s : State) (all : Bool) : Bool :=
  let e := exOf (.ld glbLoad) s
  let l := (locs glbLoad true glbNeed s e).2
  (readyTo (.ld glbLoad) s && firstIssue e && e.x.src.isEmpty) &&
    translatedB s e glbLoad.space glbNeed (addrsOf glbLoad true e) && faultless l && !(replaying l).isEmpty &&
    (decide (e.x.mask &&& ~~~maskOf ((replaying l).map Prod.fst) = 0) == all) &&
    (e.t.roomFor 1 && decide (e.t.splits.length < 8191) && e.x.trap.isNone && e.t.entry.trap.isSome)
theorem witness_AccessChecks_replayable : ∀ all, replays (unmapped all) all = true := by decide +kernel

/-- R178: the second lane waits with reason 7 in a split of its own; the first one goes on. -/
theorem test_replayable_lane_waits :
    ((team1 (run (.ld glbLoad) (unmapped false))).splits.map fun x => (x.mask.toNat, x.pc.toNat, x.wait)) =
      [(1, 0x41, .ready), (2, 0x40, .fault)] := by decide +kernel

def coreLoad : MemOp := ma .core .b32 .weak (.v 8) (.v 2) .zero
def coreNeed : Need := { bytes := 4, kind := .read, plain := true }

theorem witness_AccessChecks :
    (∃ (e : Ex1), (Instr.ld coreLoad, true, coreNeed) ∈ accessForms coreLoad ∧ (Instr.ld coreLoad).wf = true ∧
      Issues (.ld coreLoad) outside e ∧ FirstIssue e ∧
      Translated outside e coreLoad.space coreNeed (addrsOf coreLoad true e) ∧
      failing (locs coreLoad true coreNeed outside e).2 = [(1, 1022, codeBounds)]) ∧
    (∃ t : Team, 128 ≤ t.entry.slice) ∧ (∃ (t : Team) (g : Gang), t.gang.bind memS.gang? = some g ∧ 0 < g.poolSize) ∧
    (∃ t : Team, t.gang = none) ∧ ∃ (need : Need) (a : Nat), need.aligned = true ∧ a % need.bytes ≠ 0 :=
  ⟨⟨exOf (.ld coreLoad) outside, by simp [accessForms, coreNeed, coreLoad, ma, mm, MWidth.bytes], by decide +kernel,
      (issues_of (by decide +kernel)).2, firstIssue_of (by decide +kernel), translated_of (by decide +kernel), by decide +kernel⟩,
    ⟨tm [], by decide⟩,
    ⟨team1 memS, { id := 0, ctx := 0, launch := 0, index := 0, pkg := 0, cluster := 0, expected := 2, poolSize := 256 },
      by decide +kernel, by decide⟩,
    ⟨{}, rfl⟩, ⟨{ bytes := 4, kind := .read, aligned := true }, 2, rfl, by decide⟩⟩

/-- A core that holds a line, with a poisoned sector at home. -/
def cached : State :=
  { memS with
    poison := [0x20000 / 32]
    cores := [{ id := 0, l1 := [{ pa := 0x400, maps := [(0, 0x400)], data := [(5, 6)], valid := 15, dirty := 32 }] }] }
theorem witness_StoredBytesAreReadBack :
    Canonical cached ∧ NoFence cached ∧ NothingWrong cached ∧ [(7 : Byte)] ≠ [] ∧ 0x2007F % 128 + 1 ≤ 128 ∧ 0x2007F % 128 = 0x4007F % 128 ∧
    ((l1Find (cached.core 0).l1 (0x20000 / 128)).any fun ln => ln.maps.contains (0, 0x20000 / 128)) = true ∧
    l1Find (cached.core 0).l1 5 = none ∧ (cached.core 0).l1.length < 2048 ∧
    team1 memS ∈ memS.teams ∧ 1 < (team1 memS).lanes.length ∧ (∃ q, memS.gang? 0 = some q) :=
  ⟨canonical_of (by decide +kernel), noFence_all (by decide +kernel), ⟨rfl, rfl⟩, by decide, by decide, by decide, by decide +kernel,
    by decide +kernel, by decide +kernel,
    List.mem_singleton.mpr rfl, by decide +kernel, ⟨_, get_some (by decide +kernel)⟩⟩

def prefOp : MemOp := mm .glb .b8 .weak .zero (.s 2) .zero .zero
def pageOk (s : State) (core ctx va : Nat) (kind : AccKind) : Option (Nat × Nat × DWord) :=
  match (s.translate core ctx va kind).2 with
  | .ok pa lv pte => some (pa, lv, pte)
  | _ => none
theorem pageOk_of {s : State} {core ctx va pa lv : Nat} {kind : AccKind} {pte : DWord}
    (h : pageOk s core ctx va kind = some (pa, lv, pte)) :
    s.translate core ctx va kind = ((s.translate core ctx va kind).1, .ok pa lv pte) := by
  have : (s.translate core ctx va kind).2 = .ok pa lv pte := by
    revert h
    unfold pageOk
    generalize (s.translate core ctx va kind).2 = r
    intro h
    cases r <;> simp_all
  rw [← this]

theorem witness_PrefetchAndCacheControl :
    (∃ (e : Ex1) (s2 : State), (Instr.pref prefOp).wf = true ∧ Issues (.pref prefOp) memS e ∧ FirstIssue e ∧
      NothingEarlier e ∧ EntriesFor memS e e.slots.length ∧ memS.pagesToWalk e.t e.x.walked { bytes := 1, kind := .read }
        ((if memUniform prefOp then [e.low] else e.slots).map (memAddr e.t prefOp true)) = [] ∧
      (if memUniform prefOp then [e.low] else e.slots) = [0] ∧ prefOp.na = false ∧ memAddr e.t prefOp true 0 < 2 ^ 57 ∧
      memS.translate e.t.coreNo e.t.ctx (memAddr e.t prefOp true 0) .read = (s2, .ok 16 2 0x1F) ∧
      s2.fencedAt 16 = false ∧ s2.reachable e.t.coreNo (homeDie 16) = true ∧ s2.poison = [] ∧ s2.badReplies = []) ∧
    ∀ mk ∈ [Instr.cctlWb, .cctlInv, .cctlWbinv, .cctlIfl], ∃ x e, (mk x).wf = true ∧ Issues (mk x) memS e ∧ FirstIssue e ∧
      NothingEarlier e ∧ EntriesFor memS e (min 256 (memS.dirtyLines e.t.coreNo e.t.ctx fun _ => true).length) :=
  ⟨⟨exOf (.pref prefOp) memS, _, by decide +kernel, (issues_of (by decide +kernel)).2, firstIssue_of (by decide +kernel),
      nothingEarlier_of (by decide +kernel), entries_of (by decide +kernel), by decide +kernel, by decide +kernel, rfl,
      by decide +kernel, pageOk_of (by decide +kernel), by decide +kernel, by decide +kernel, by decide +kernel,
      by decide +kernel⟩,
    fun mk hm => ⟨pl hd .zero (.s 2) (.s 3) .zero, exOf (mk (pl hd .zero (.s 2) (.s 3) .zero)) memS, by
      simp only [List.mem_cons, List.not_mem_nil, or_false] at hm
      rcases hm with rfl | rfl | rfl | rfl <;>
        exact ⟨by decide +kernel, (issues_of (by decide +kernel)).2, firstIssue_of (by decide +kernel),
          nothingEarlier_of (by decide +kernel), entries_of (by decide +kernel)⟩⟩⟩

/-- A result of each kind in flight; a rejected split at the head of the core's queue; a ready split. -/
def flying (k : LandKind) : Landing :=
  { id := 3, split := 0, kind := k, look := 2, writes := [⟨some 0, .v 8, 5⟩, ⟨some 1, .v 8, 6⟩], flags := flagInv }
def inAir (k : LandKind) : State :=
  let t : Team := { tm [{}, {}] with landings := [flying k], nextLanding := 4 }
  st { t with splits := [{ mask := 3, pc := 0x40, wait := .rejected, holds := [5] }, { id := 1, pc := 0x40 }] }
theorem witness_ResultsAndRetries :
    (∀ k ∈ [LandKind.miss, .loc, .special, .mma], ∃ t, (inAir k).team? 0x40 = some t ∧ flying k ∈ t.landings ∧
      (∀ m ∈ t.landings, m.id = (flying k).id → m = flying k) ∧
      (flying k).writes.filter (fun w => !(w.slot.map (slotIn 1)).getD true) ≠ [] ∧
      (flying k).writes.filter (fun w => !(w.slot.map (slotIn 3)).getD true) = []) ∧
    ∃ (t : Team) (x y : Split), t ∈ (inAir .loc).teams ∧ t.coreNo = 0 ∧ t.status = .resident ∧
      (t.splits.find? fun y => y.wait == .rejected && (inAir .loc).accepts t y.needEntries &&
        (y.needWalks == 0 || (inAir .loc).walkRoom t y.needWalks)) = some x ∧ (inAir .loc).reservation 0 = none ∧
      (∀ u ∈ (inAir .loc).teams, u.coreNo = 0 → u = t) ∧ y ∈ t.splits ∧ y.wait = .ready ∧ y.record = false := by
  constructor
  · intro k hk
    simp only [List.mem_cons, List.not_mem_nil, or_false] at hk
    rcases hk with rfl | rfl | rfl | rfl <;>
      exact ⟨((inAir _).team? 0x40).get (by decide +kernel), get_some _, by decide +kernel, by decide +kernel,
        by decide +kernel, by decide +kernel⟩
  · refine ⟨team1 (inAir .loc), { mask := 3, pc := 0x40, wait := .rejected, holds := [5] }, { id := 1, pc := 0x40 },
      List.mem_singleton.mpr rfl, by decide +kernel, by decide +kernel, by decide +kernel, by decide +kernel, ?_,
      by decide +kernel, rfl, rfl⟩
    intro u hu _
    exact List.mem_singleton.mp hu

/-! ### Matrix and feeder -/

/-- INT8 descriptors with rows of 32 bytes 32 bytes apart; a stream of words in the core scratchpad (Tables 8.6, 9.5). -/
def tensor8 : BitVec 256 := 0x20200606 + (32 <<< 128)
def stream1 : BitVec 256 := (4 <<< 64) + (128 <<< 96) + (2 <<< 128) + (4096 <<< 160) + (1 <<< 200) + (1 <<< 248)
def plane8 : Plane :=
  { state := .loaded, fmtB := 6, kdim := 32, tile := List.replicate 32 (List.replicate 32 3), scales := List.replicate 32 0 }
/-- One lane; the team holds pair 0, whose active plane is loaded; an active stream f0 and an idle one f1. -/
def mat : State :=
  let t : Team := { tm [ln [(2, 0x01FF), (3, 1)]] with plane := some 0, s := (Vector.replicate 64 0).set 2 0x40 }
  { gst { t with f := t.f.set 0 { active := true, space := .core, lstride := 4 } } with
    ctxPkgs := [{ ctx := 0, pkg := 0, tds := [(1, tensor8), (4, stream1)] }]
    cores := [{ id := 0, planes := [{ owner := some 0x40, active := plane8 }] }] }

/-- The state and the team after a read of `n` bytes, the bytes, and whether it does not complete at once. -/
def readState (s : State) (e : Ex1) (va n : Nat) : State × Team × List Byte × Bool :=
  match s.locateGlb e.t.coreNo e.t.ctx va { bytes := n, kind := .read } with
  | (s1, .ok l) =>
    let c := s1.chargePass (holding e.t e (l.lines s1 e.t {} n)) {} [⟨e.low, va, l⟩]
    let r := c.1.readLoc c.2 false n l
    (r.1.flitsArrived (l.flits c.1 c.2 false n), c.2, r.2.1,
      r.2.2 || l.unreached s1 e.t false false || !entriesB s1 e (l.lines s1 e.t {} n).length)
  | (s1, .error _) => (s1, e.t, [], true)
def readsOk (s : State) (e : Ex1) (va n : Nat) : Bool :=
  decide (va % n = 0) && firstIssue e && nothingEarlier e && (s.pagesToWalk e.t e.x.walked { bytes := n, kind := .read } [va]).isEmpty &&
    !(readState s e va n).2.2.2
theorem reads_of {s : State} {e : Ex1} {va n : Nat} (h : readsOk s e va n = true) :
    ReadsBytes s e va n (readState s e va n).1 (readState s e va n).2.1 (readState s e va n).2.2.1 := by
  simp only [readsOk, Bool.and_eq_true, decide_eq_true_eq, List.isEmpty_iff, Bool.not_eq_true'] at h
  obtain ⟨⟨⟨⟨h1, h2⟩, h3⟩, h4⟩, h⟩ := h
  refine ⟨h1, firstIssue_of h2, nothingEarlier_of h3, h4, ?_⟩
  revert h
  unfold readState
  generalize s.locateGlb e.t.coreNo e.t.ctx va { bytes := n, kind := .read } = r
  obtain ⟨s1, l⟩ := r
  intro h
  cases l with
  | error d => simp at h
  | ok l =>
    simp only [Bool.or_eq_false_iff, Bool.not_eq_false'] at h
    exact ⟨s1, l, rfl, h.1.2, entries_of h.2, Prod.ext rfl h.1.1, rfl, rfl⟩

/-- `tdset`; `wload` of a tile that ends with the scratchpad; its end; `wswap`; `wdrop`. -/
theorem witness_DescriptorsAndPlanes :
    (∃ (x : PlainOp) (e : Ex1) (s2 : State) (t : Team) (bs : List Byte), (Instr.tdset x).wf = true ∧
      Issues (.tdset x) mat e ∧ x.d = .td 63 ∧ ReadsBytes mat e (readField e.t [] (immPlain 0) e.low x.a 0).toNat 32 s2 t bs) ∧
    (∃ (x : PlainOp) (e : Ex1) (d : Tensor), (Instr.wload x).wf = true ∧ Issues (.wload x) mat e ∧ FullWords e ∧
      NothingEarlier e ∧
      tensorOf (descriptor mat e x.a) = some d ∧
      tileFault d (readField e.t [] (immPlain 0) e.low x.b 0).toNat e.t.entry.scratch = none ∧ e.t.plane.getD 0 < 8) ∧
    (∃ (s : State) (p : Plane), (((s.core 0).planes[7]?).getD ({ } : PlanePair)).loading = some p) ∧
    (∃ (x : PlainOp) (e : Ex1), (Instr.wswap x).wf = true ∧ Issues (.wswap x) mat e ∧ FullWords e ∧ e.t.plane.getD 0 < 8 ∧
      (settled (pairNow mat e)).active.state ≠ .lost ∧ (settled (pairNow mat e)).shadow.state ≠ .lost) ∧
    ∃ (x : PlainOp) (e : Ex1), (Instr.wdrop x).wf = true ∧ Issues (.wdrop x) mat e ∧ FullWords e ∧ e.t.plane = some 0 := by
  exact ⟨⟨pl hd (.td 63) (.s 2) .zero .zero, exOf (.tdset (pl hd (.td 63) (.s 2) .zero .zero)) mat, _, _, _,
      by decide +kernel, (issues_of (by decide +kernel)).2, rfl, reads_of (by decide +kernel)⟩,
    ⟨pl hd (.w 0) (.td 1) .zero .zero, exOf (.wload (pl hd (.w 0) (.td 1) .zero .zero)) mat, _, by decide +kernel,
      (issues_of (by decide +kernel)).2, show _ = _ by decide +kernel, nothingEarlier_of (by decide +kernel),
      get_some (by decide +kernel), by decide +kernel, by decide +kernel⟩,
    ⟨{ cores := [{ id := 0, planes := List.replicate 8 { loading := some plane8 } }] }, plane8, by decide +kernel⟩,
    ⟨pl hd (.w 0) .zero .zero .zero, exOf (.wswap (pl hd (.w 0) .zero .zero .zero)) mat, by decide +kernel,
      (issues_of (by decide +kernel)).2, show _ = _ by decide +kernel, by decide +kernel, by decide +kernel, by decide +kernel⟩,
    ⟨pl hd (.w 0) .zero .zero .zero, exOf (.wdrop (pl hd (.w 0) .zero .zero .zero)) mat, by decide +kernel,
      (issues_of (by decide +kernel)).2, show _ = _ by decide +kernel, by decide +kernel⟩⟩

def mmaOp : PlainOp := pl hd (.v 8) (.v 44) (.w 0) (.td 1) 3
theorem witness_MmaPutsItsResultsInFlight : ∃ (e : Ex1) (d : Tensor), (Instr.mma true mmaOp).wf = true ∧
    Issues (.mma true mmaOp) mat e ∧ FullWords e ∧ tensorOf (descriptor mat e mmaOp.c) = some d ∧
    mmaFormatOk d (pairNow mat e).active true = true ∧ (pairNow mat e).active.state = .loaded ∧
    (pairNow mat e).shadow.state ≠ .lost ∧ (pairNow mat e).active.badRows = [] ∧
    ((pairNow mat e).active.scaled = true → (pairNow mat e).active.badScales = false) :=
  ⟨exOf (.mma true mmaOp) mat, _, by decide +kernel, (issues_of (by decide +kernel)).2, show _ = _ by decide +kernel,
    get_some (by decide +kernel), by decide +kernel, by decide +kernel, by decide +kernel, by decide +kernel,
    by decide +kernel⟩

/-- A descriptor and a one-column plane of a format. -/
def dsc (fmt k : Nat) : Tensor := ⟨fmt, fmt, k, 0, 0, 1, k, 0, 0⟩
def pln (fmt : Nat) (col : List Nat) (scale : Option Nat) : Plane :=
  { state := .loaded, fmtB := fmt, kdim := col.length, tile := col.map fun c => [c], scaled := scale.isSome
    scales := [scale.getD 0] }
/-- An E4M3 row and column, LG6 ones with the code 0b100000, and BF16 ones, two of them with scales. -/
def sums : List (Nat × List Nat × List Nat × Option Nat × Nat) :=
  [(3, [0x7E, 0x01, 0x7E], [0x7E, 0x01, 0xFE], none, 0), (5, [0x20, 0x11], [0x11, 0x30], some 0xBF80, 0x4000),
   (1, [0x3F80, 0], [0x3F80, 0x3F80], some 0x3F80, 0x4000)]
theorem witness_MmaElementSums :
    (dsc 6 2).fmtA = 6 ∧
    (∀ x ∈ sums, FloatFormats (dsc x.1 0) (pln x.1 x.2.2.1 x.2.2.2.1) ∧
      (∀ q ∈ pairsOf (dsc x.1 0) (pln x.1 x.2.2.1 x.2.2.2.1) x.2.1 0, isNumber q.1 = true ∧ isNumber q.2 = true) ∧
      x.2.1.length = (pln x.1 x.2.2.1 x.2.2.2.1).tile.length ∧ isNumber (scaleA (pln x.1 x.2.2.1 x.2.2.2.1) x.2.2.2.2) = true ∧
      isNumber (scaleB (pln x.1 x.2.2.1 x.2.2.2.1) 0) = true) ∧
    isNumber (fp32.decode (0x80000000 : Word).toNat) = true ∧
    IsDot 3 (productsOf (dsc 3 3) (pln 3 [0x7E, 0x01, 0xFE] none) [0x7E, 0x01, 0x7E] 0) ((2 : Rat) ^ (-18 : Int)) ∧
    IsDot 1 (productsOf (dsc 1 2) (pln 1 [0x3F80, 0x3F80] (some 0x3F80)) [0x3F80, 0] 0) 1 ∧
    signsDiffer (pln 5 [0x11, 0x30] (some 0xBF80)) 0x4000 0 = true := by
  refine ⟨rfl, ?_, by decide +kernel, show _ = _ by decide +kernel, .inr ⟨0, by decide +kernel, by decide +kernel,
    by decide +kernel⟩, by decide +kernel⟩
  intro x hx
  revert x
  unfold FloatFormats
  decide +kernel

/-- A NaN of the row; infinity times zero; infinities of both signs; one infinity, with an accumulator that is finite, that agrees,
and that is opposite; an infinite accumulator. -/
theorem witness_MmaElementSums_special :
    FloatFormats (dsc 1 1) (pln 1 [0x3F80] none) ∧ [0x7FC0].length = (pln 1 [0x3F80] none).tile.length ∧
    (∃ q ∈ pairsOf (dsc 1 1) (pln 1 [0x3F80] none) [0x7FC0] 0, q.1.isNan = true) ∧
    (∃ q ∈ pairsOf (dsc 1 1) (pln 1 [0] none) [0x7F80] 0, q.1 = .inf false ∧ isZero q.2) ∧
    (let l := pairsOf (dsc 1 2) (pln 1 [0x3F80, 0xBF80] none) [0x7F80, 0x7F80] 0;
      (∃ q ∈ l, InfiniteProduct q true) ∧ ∃ q ∈ l, InfiniteProduct q false) ∧
    (let l := pairsOf (dsc 1 2) (pln 1 [0xBF80, 0x3F80] none) [0x7F80, 0x3F80] 0;
      (∃ q ∈ l, InfiniteProduct q true) ∧
      ∀ q ∈ l, isNumber q.1 = true ∧ isNumber q.2 = true ∨ InfiniteProduct q true) ∧
    (scaleA (pln 1 [0] none) 0).isNan = false ∧ ¬isZero (scaleA (pln 1 [0] none) 0) ∧ isZero (scaleA (pln 1 [0] (some 0)) 0) ∧
    fp32.decode 0xFF800000 = .inf true ∧ isNumber (fp32.decode 0) = true := by
  have inf (a : Ex) (n : Bool) (h : a = .inf n) : ¬isZero a := fun z => by rw [h] at z; exact absurd z.1 (by simp [isNumber])
  refine ⟨by unfold FloatFormats; decide +kernel, by decide, by decide +kernel, by unfold isZero; decide +kernel, ?_, ?_,
    by decide +kernel, by unfold isZero; decide +kernel, by unfold isZero; decide +kernel, by decide +kernel, by decide +kernel⟩
  · refine ⟨⟨(bf16.decode 0x7F80, bf16.decode 0xBF80), by decide +kernel, ?_⟩, (bf16.decode 0x7F80, bf16.decode 0x3F80),
      by decide +kernel, ?_⟩ <;>
    exact ⟨inf _ false (by decide +kernel), by unfold isZero; decide +kernel, .inl ⟨false, by decide +kernel⟩,
      by decide +kernel, by decide +kernel, by decide +kernel⟩
  · have p : InfiniteProduct (bf16.decode 0x7F80, bf16.decode 0xBF80) true :=
      ⟨inf _ false (by decide +kernel), by unfold isZero; decide +kernel, .inl ⟨false, by decide +kernel⟩, by decide +kernel,
        by decide +kernel, by decide +kernel⟩
    refine ⟨⟨_, by decide +kernel, p⟩, ?_⟩
    have h : ∀ q ∈ pairsOf (dsc 1 2) (pln 1 [0xBF80, 0x3F80] none) [0x7F80, 0x3F80] 0,
        isNumber q.1 = true ∧ isNumber q.2 = true ∨ q = (bf16.decode 0x7F80, bf16.decode 0xBF80) := by decide +kernel
    intro q hq
    rcases h q hq with h | rfl
    · exact .inl h
    · exact .inr p

/-- A pop of a queue: of one without a stream, of one whose element has not arrived, of one whose load failed. -/
def popOf (q : BitVec 2) : Instr := .mov { i1 false .w32 false with a := .f q }
def stuck : State :=
  let t := team1 mat
  { mat with teams := [{ t with f := t.f.set 0 { t.f[0] with queued := [⟨0, 0, .failed⟩] } }] }
def popsFail (s : State) (q : BitVec 2) (r : PopResult) : Bool :=
  match popFields (exOf (popOf q) s).slots (popOf q) (i1 false .w32 false |> fun x => { x with a := .f q : IntOp }).ops
    (exOf (popOf q) s).t with
  | .error x => x == r
  | .ok _ => false
theorem popsFail_of {s : State} {q : BitVec 2} {r : PopResult} (h : popsFail s q r = true) :
    popFields (exOf (popOf q) s).slots (popOf q) (i1 false .w32 false |> fun x => { x with a := .f q : IntOp }).ops
      (exOf (popOf q) s).t = .error r := by
  unfold popsFail at h
  split at h
  · rename_i x hx
    rw [hx, eq_of_beq h]
  · simp at h
theorem pops_fail : ∀ r ∈ [(mat, (1 : BitVec 2), PopResult.absent), (mat, 0, .waiting), (stuck, 0, .fault 0 [0])],
    Issues (popOf r.2.1) r.1 (exOf (popOf r.2.1) r.1) ∧
      popFields (exOf (popOf r.2.1) r.1).slots (popOf r.2.1) (i1 false .w32 false |> fun x => { x with a := .f r.2.1 : IntOp }).ops
        (exOf (popOf r.2.1) r.1).t = .error r.2.2 := by
  intro r hr
  simp only [List.mem_cons, List.not_mem_nil, or_false] at hr
  rcases hr with rfl | rfl | rfl <;> exact ⟨(issues_of (by decide +kernel)).2, popsFail_of (by decide +kernel)⟩

/-- `feed` with a stream form and with another; `fstop`, `fpos`; a pop that is queued, one that waits, one without a
stream; run-ahead at element 0. -/
theorem witness_FeederStreams :
    (∃ (x : PlainOp) (e : Ex1), (Instr.feed x).wf = true ∧ Issues (.feed x) mat e ∧ StreamForm (descriptor mat e x.a) .core) ∧
    (∃ (x : PlainOp) (e : Ex1), (Instr.feed x).wf = true ∧ Issues (.feed x) mat e ∧
      ∀ sp, ¬StreamForm (descriptor mat e x.a) sp) ∧
    (∀ i ∈ [Instr.fstop (pl hd (.f 3) .zero .zero .zero), .fpos (pl hd (.v 1) (.f 0) .zero .zero)], i.wf = true ∧
      Issues i mat (exOf i mat)) ∧
    ((team1 two).f[0].active = true ∧ ∀ slot ∈ [0, 1],
      (team1 two).f[0].queued.find? (fun e => e.n == (team1 two).f[0].pos.toNat && e.slot == slot) =
        some ⟨(team1 two).f[0].pos.toNat, slot, .val (if slot = 0 then 9 else 11)⟩) ∧
    (∃ t : Team, mat.team? 0x40 = some t ∧ t.f[0].active = true ∧ ∀ e ∈ t.f[0].queued, e.slot = 0 → e.n ≠ t.f[0].pos.toNat) ∧
    (popsField (popOf 1) (.f 1) = some 1 ∧ (team1 mat).f[1].active = false) ∧
    (∀ r ∈ [(mat, 1, PopResult.absent), (mat, 0, .waiting), (stuck, 0, .fault 0 [0])], Issues (popOf r.2.1) r.1 (exOf (popOf r.2.1) r.1) ∧
      popFields (exOf (popOf r.2.1) r.1).slots (popOf r.2.1) (i1 false .w32 false |> fun x => { x with a := .f r.2.1 : IntOp }).ops
        (exOf (popOf r.2.1) r.1).t = .error r.2.2) ∧
    (∃ (t : Team), mat.team? 0x40 = some t ∧ t.status = .resident ∧ t.saving = false ∧ mat.reservation t.coreNo = none ∧
      mat.entriesUsed t.coreNo + 64 ≤ 256 ∧ (mat.die t.dieNo).walks = [] ∧ t.f[0].space = .core ∧ t.f[0].active = true ∧
      t.f[0].queued = [] ∧ t.lanes.length = 1 ∧
      (t.lane 0).live = true) ∧
    (mat.loadElem (team1 mat) (team1 mat).f[0] 0 0).2 = .val 0 :=
  ⟨⟨pl hd (.f 2) (.td 4) .zero .zero, exOf (.feed (pl hd (.f 2) (.td 4) .zero .zero)) mat, by decide +kernel,
      (issues_of (by decide +kernel)).2, ⟨by decide +kernel, by decide +kernel, by decide +kernel, by decide +kernel,
        by decide +kernel, by decide +kernel⟩⟩,
    ⟨pl hd (.f 2) (.td 1) .zero .zero, exOf (.feed (pl hd (.f 2) (.td 1) .zero .zero)) mat, by decide +kernel,
      (issues_of (by decide +kernel)).2, fun _ h => absurd h.kind (by decide +kernel)⟩,
    fun i hi => issues_of (by revert i; decide +kernel),
    ⟨by decide +kernel, by decide +kernel⟩,
    ⟨(mat.team? 0x40).get (by decide +kernel), get_some _, by decide +kernel, by decide +kernel⟩,
    ⟨by decide +kernel, by decide +kernel⟩, pops_fail,
    ⟨(mat.team? 0x40).get (by decide +kernel), get_some _, by and_intros <;> decide +kernel⟩, by decide +kernel⟩

/-- An `mma` in flight when its core's matrix unit is reset. -/
def resetting : State :=
  let t : Team := { team1 mat with landings := [{ flying .mma with pc := 0x3F }], nextLanding := 4 }
  { mat with teams := [t] }
theorem witness_MatrixResetLosesThePlanes : ∃ (t : Team) (l : Landing) (x : Split),
    resetting.team? t.key = some t ∧ t ∈ resetting.teams ∧ t.coreNo = 0 ∧
    (t.landings.find? fun l => l.kind == LandKind.mma) = some l ∧
    t.split? l.split = some x ∧ (∀ u ∈ resetting.teams, u.coreNo = 0 → u = t) ∧
    ∀ (s : State) (vals : Nat → Word), TakesTrap s (({ t with landings := [] } : Team).applyWrites
      (l.writes.zipIdx.map fun (w, i) => { w with val := vals i })) x 0x100 :=
  ⟨team1 resetting, { flying .mma with pc := 0x3F }, { mask := 1, pc := 0x40 },
    getBy_of_mem (by decide +kernel) (List.mem_singleton.mpr rfl), List.mem_singleton.mpr rfl, by decide +kernel, by decide +kernel, by decide +kernel,
    fun u hu _ => List.mem_singleton.mp hu,
    fun s vals => by
      obtain ⟨-, h1, h2, h3, -⟩ := Team.applyWrites_keeps ({ team1 resetting with landings := [] } : Team)
        ((flying .mma).writes.zipIdx.map fun (w, i) => { w with val := vals i })
      exact ⟨by rw [Team.split?, h1]; decide +kernel, rfl, by rw [h3]; decide +kernel,
        ⟨by rw [Team.inHandler, h1]; decide +kernel, by rw [h2]; decide +kernel⟩, rfl⟩⟩

/-! ### Teams and clusters -/

/-- A team of a gang of `n` ranks, with one split; barrier 15 has the team's own flag set or not. -/
def ganged (n : Nat) (flag : Bool) : State :=
  let t : Team := { tm [ln [(2, 5)], ln [(2, 6)]] with gang := some 3, launch := some 7, rank := 15 }
  let b : Barrier := { count := if flag then 1 else 0, arrived := if flag then 1 <<< 15 else 0 }
  { gst t with
    gangs := [{ id := 3, ctx := 0, launch := 7, index := 0, pkg := 0, cluster := 0, expected := n
                barriers := List.replicate 15 {} ++ [b] }]
    launches := [{ id := 7, ctx := 0, pkg := 0, x := 1, y := 1, z := 1, parts := []
                   rec' := { entry := en, counts := [1, 1, 1], teams := n, pool := 0, prio := 0, reissue := false
                             cgate := none, wgate := none, trign := 1, addr := 0 } }] }
def gb : PlainOp := pl hd .zero .imm .zero .zero 15
def gangOf (s : State) (e : Ex1) : Gang :=
  (e.t.gang.bind s.gang?).getD { id := 0, ctx := 0, launch := 0, index := 0, pkg := 0, cluster := 0, expected := 0 }
/-- One step of `h` of every barrier form: an arrival that completes, one that does not, and the own flag set. -/
def barrierOk (i : Instr) (s : State) : Bool :=
  let e := exOf i s
  (readyTo i s && decide (e.x.accepted = 0 ∧ e.x.holds = []) && e.x.trap.isNone) &&
    decide (e.t.gang.bind s.gang? = some (gangOf s e) ∧ (readField e.t [] (immPlain gb.imm) e.low gb.a 0).toNat = 15 ∧
      e.t.rank < 16 ∧ e.x.pc = e.pc) &&
    (decide (e.t.splits = [e.x]) && !e.x.record)
theorem barrierOk_of {i : Instr} {s : State} (h : barrierOk i s = true) :
    i.wf = true ∧ Issues i s (exOf i s) ∧ AtBarrier s (exOf i s) gb (gangOf s (exOf i s)) 15 ∧
      (exOf i s).t.splits = [(exOf i s).x] ∧ (exOf i s).x.record = false := by
  simp only [barrierOk, Bool.and_eq_true, Option.isNone_iff_eq_none, decide_eq_true_eq, Bool.not_eq_true'] at h
  obtain ⟨⟨⟨⟨h1, h0⟩, h2⟩, h3, h4, h5, h6⟩, alone⟩ := h
  exact ⟨(issues_of h1).1, (issues_of h1).2, ⟨h0, h2, h3, ⟨h4, by decide⟩, h5, h6⟩, alone⟩

/-- An exchange with tag 5. -/
def xop : PlainOp := pl hd (.v 3) (.v 2) .imm .zero 5

/-- Team barriers: the last split to arrive, and one that waits for another. -/
def synced (last : Bool) : State :=
  st { tm [{}, {}] with splits := [{ mask := 1, pc := 0x40 },
    { id := 1, mask := 2, pc := 0x44, wait := if last then .sync else .ready, block := if last then .tsync else .none }] }

theorem witness_BarriersOfGangsAndTeams :
    (∀ n ∈ [1, 2], ∀ i ∈ [Instr.gbarArrive gb, .gbarSync gb, .gbarWait gb], i.wf = true ∧
      Issues i (ganged n false) (exOf i (ganged n false)) ∧
      AtBarrier (ganged n false) (exOf i (ganged n false)) gb (gangOf (ganged n false) (exOf i (ganged n false))) 15 ∧
      (exOf i (ganged n false)).t.splits = [(exOf i (ganged n false)).x] ∧ (exOf i (ganged n false)).x.record = false) ∧
    (∀ n ∈ [1, 2], Arrives (ganged n false) (exOf (.gbarArrive gb) (ganged n false)) (gangOf (ganged n false)
      (exOf (.gbarArrive gb) (ganged n false))) 15) ∧
    hasArrived (gangOf (ganged 2 true) (exOf (.gbarWait gb) (ganged 2 true))) 15 (team1 (ganged 2 true)) = true ∧
    (∀ i ∈ [Instr.gbarArrive gb, .gbarWait gb, .gbarSync gb, .tsync hd, .xshuf xop],
      ∃ s e, Issues i s e ∧ e.x.trap.isSome = true) ∧
    (∀ i ∈ [Instr.gbarArrive gb, .gbarWait gb, .gbarSync gb], ∃ e, Issues i one e ∧ e.x.trap = none ∧ e.t.gang = none) ∧
    (∃ (e : Ex1) (g : Gang), Issues (.gbarSync { gb with imm := 16 }) (ganged 2 false) e ∧ e.x.trap = none ∧
      e.t.gang.bind (ganged 2 false).gang? = some g ∧
      15 < (readField e.t [] (immPlain 16) e.low gb.a 0).toNat) ∧
    ∀ b : Bool, ∃ e, (Instr.tsync hd).wf = true ∧ Issues (.tsync hd) (synced b) e ∧ e.x.trap = none ∧ e.x.record = false ∧
      (e.t.splits.map Split.id).Nodup ∧ (e.t.splits.all (fun y => y.id == e.x.id || y.record || y.block == .tsync) = b) := by
  refine ⟨?_, ?_, by decide +kernel,
    fun i hi => ⟨inHandler mark, exOf i (inHandler mark), (issues_of (by revert i; decide +kernel)).2, by revert i; decide +kernel⟩,
    fun i hi => ⟨exOf i one, (issues_of (by revert i; decide +kernel)).2, by revert i; decide +kernel, by revert i; decide +kernel⟩,
    ⟨exOf (.gbarSync { gb with imm := 16 }) (ganged 2 false), _, (issues_of (by decide +kernel)).2, by decide +kernel,
      get_some (by decide +kernel), by decide +kernel⟩, ?_⟩
  · have h : ∀ n ∈ [1, 2], ∀ i ∈ [Instr.gbarArrive gb, .gbarSync gb, .gbarWait gb], barrierOk i (ganged n false) = true := by
      decide +kernel
    exact fun n hn i hi => barrierOk_of (h n hn i hi)
  · have h : ∀ n ∈ [1, 2], (exOf (.gbarArrive gb) (ganged n false)).t.splits = [(exOf (.gbarArrive gb) (ganged n false)).x] ∧
        (exOf (.gbarArrive gb) (ganged n false)).x.record = false ∧
        hasArrived (gangOf (ganged n false) (exOf (.gbarArrive gb) (ganged n false))) 15 (exOf (.gbarArrive gb) (ganged n false)).t = false ∧
        (barrierOf (gangOf (ganged n false) (exOf (.gbarArrive gb) (ganged n false))) 15).timer = none ∧
        ∀ u ∈ (ganged n false).teams, u.key = (exOf (.gbarArrive gb) (ganged n false)).t.key := by decide +kernel
    intro n hn
    obtain ⟨h1, h2, h3, h4, h5⟩ := h n hn
    exact ⟨⟨h1, h2⟩, h3, fun m hm => (by rw [h4] at hm; cases hm), fun u hu _ hne => absurd (h5 u hu) hne⟩
  · intro b
    cases b <;> exact ⟨exOf (.tsync hd) (synced _), by decide +kernel, (issues_of (by decide +kernel)).2, by decide +kernel,
      by decide +kernel, by decide +kernel, by decide +kernel⟩

/-- An exchange without a peer, and one whose peer, on cluster 1, has arrived with tag 5. -/
def peer : Team := { tm [ln [(6, 8)]] with id := 0x41, core := 4, splits := [{ mask := 1, pc := 0x80, wait := .sync, block := .xshuf 1 }] }
def arrival : XArrival := { team := peer.key, split := 0, tag := 5, dst := 7, src := 6, lanes := 1 }
def meeting : State :=
  { one with teams := one.teams ++ [peer], dies := [{ id := 0, xshuf := [arrival] }] }
theorem witness_ExchangeBetweenTeams :
    (∃ e, (Instr.xshuf xop).wf = true ∧ Issues (.xshuf xop) one e ∧ e.x.trap = none ∧ e.x.src = [] ∧ (one.die e.t.dieNo).xshuf = []) ∧
    ∃ (e : Ex1) (u : Team) (y : Split), Issues (.xshuf xop) meeting e ∧ e.x.trap = none ∧ e.x.src = [] ∧
      (∀ a ∈ (meeting.die e.t.dieNo).xshuf, a.team ≠ e.t.key) ∧ (meeting.die e.t.dieNo).xshuf = [arrival] ∧
      arrival.tag = (readField e.t [] (immPlain xop.imm) e.low xop.b 0).setWidth 8 ∧ meeting.team? arrival.team = some u ∧
      u.ctx = e.t.ctx ∧ u.clusterNo ≠ e.t.clusterNo ∧ u.split? arrival.split = some y :=
  ⟨⟨exOf (.xshuf xop) one, by decide +kernel, (issues_of (by decide +kernel)).2, by decide +kernel, by decide +kernel,
      by decide +kernel⟩,
    ⟨exOf (.xshuf xop) meeting, (meeting.team? arrival.team).get (by decide +kernel),
      { mask := 1, pc := 0x80, wait := .sync, block := .xshuf 1 }, (issues_of (by decide +kernel)).2, by decide +kernel,
      by decide +kernel,
      by decide +kernel, by decide +kernel, by decide +kernel, get_some _, by decide +kernel, by decide +kernel,
      by decide +kernel⟩⟩

/-- The exchange of the two: each side gets the other's register (R233). -/
theorem test_exchange :
    let s := run (.xshuf xop) meeting
    ((s.teams.map fun t => t.landings.map fun l => l.writes) == [[[⟨some 0, .v 3, 8⟩]], [[⟨some 0, .v 7, 5⟩]]]) = true := by
  decide +kernel

/-- `regroup` of a team with two splits, and of a lone one. -/
def rgo : PlainOp := pl hd (.v 5) (.v 4) .zero .zero
theorem witness_RegroupsArriveAndCommit_arrive :
    (∃ (s : State) (e : Ex1), (Instr.regroup rgo).wf = true ∧ Issues (.regroup rgo) s e ∧ e.t.splits.length ≠ 1) ∧
    ∃ e, Issues (.regroup rgo) one e ∧ e.x.trap = none ∧ e.t.splits = [e.x] ∧ e.t.gang = none ∧ e.t.status = .resident ∧
      (∃ l ∈ e.t.lanes, l.live = true) ∧ (one.core e.t.coreNo).regroups = [] :=
  ⟨⟨synced false, exOf (.regroup rgo) (synced false), by decide +kernel, (issues_of (by decide +kernel)).2, by decide +kernel⟩,
    ⟨exOf (.regroup rgo) one, (issues_of (by decide +kernel)).2, by decide +kernel, by decide +kernel, by decide +kernel,
      by decide +kernel, List.any_eq_true.mp (by decide +kernel), by decide +kernel⟩⟩

/-- Table 9.4: how the six lanes of the mixed example form teams under two capacities. -/
theorem test_regroup_table :
    let l : List Sorted := [(0, 1), (0, 4), (1, 3), (2, 0), (2, 2), (3, 5)].map fun x =>
      ⟨x.1, x.2 / 4, x.2 % 4, 5⟩
    ((regroupForm 4 4 l).map (fun g => g.map Sorted.key) == [[0, 0], [1], [2, 2], [3]] &&
      (regroupForm 4 3 l).map (fun g => g.map Sorted.key) == [[0, 0], [1], [2, 2, 3]]) = true := by decide +kernel

/-- A regroup of one team that may commit, and whose team can take a trap. -/
def committing : State :=
  let t : Team := { tm [ln [(4, 1)], ln [(4, 0)], ln [(4, 1)]] with entry := { en with planes := 0 } }
  { st t with cores := [{ id := 0, regroups := [{ ctx := 0, handler := none, launch := none, gang := none, participants := [t.key]
                                                  arrivals := [{ team := t.key, split := 0, dst := 5, keyReg := 4 }]
                                                  started := 0, nmax := some 2 }] }] }
/-- Two teams whose lanes regroup into two. -/
def committing2 : State :=
  let e : Entry := { en with planes := 0 }
  let t : Team := { tm [ln [(4, 1)], ln [(4, 0)]] with entry := e }
  { st t with
    teams := [t, { t with id := 0x41, age := 1, lanes := [ln [(4, 1)], ln [(4, 0)]] }]
    cores := [{ id := 0, regroups := [{ ctx := 0, handler := none, launch := none, gang := none, participants := [t.key, t.key + 1]
                                        arrivals := [{ team := t.key, split := 0, dst := 5, keyReg := 4 },
                                          { team := t.key + 1, split := 0, dst := 6, keyReg := 4 }]
                                        started := 0, nmax := some 2 }] }] }
theorem witness_RegroupsArriveAndCommit_commits : ∃ (ts : List Team) (e : Entry) (r : Regroup),
    (committing2.core 0).regroups = [r] ∧ r.nmax.isSome = true ∧ r.gang = none ∧ ts ≠ [] ∧ ts.length = 2 ∧
    (ts.map Team.key).Nodup ∧ r.arrivals.map RegroupArrival.team = ts.map Team.key ∧ r.participants = ts.map Team.key ∧
    e.planes = 0 ∧ 0 < e.lanes ∧ ∀ t ∈ ts, committing2.team? t.key = some t ∧ t.coreNo = 0 ∧ t.gang = none ∧ t.plane = none ∧
      t.entry = e ∧ ∃ x, t.splits = [x] :=
  ⟨committing2.teams, { en with planes := 0 }, (committing2.core 0).regroups.head (by decide +kernel), by decide +kernel,
    by decide +kernel, by decide +kernel, by decide +kernel, by decide +kernel, by decide +kernel, by decide +kernel,
    by decide +kernel, by decide +kernel, by decide +kernel, fun t ht => by
      have h : ∀ t ∈ committing2.teams, t.coreNo = 0 ∧ t.gang = none ∧ t.plane = none ∧
          t.entry = { en with planes := 0 } ∧ t.splits.length = 1 := by decide +kernel
      obtain ⟨h2, h3, h4, h5, h6⟩ := h t ht
      exact ⟨getBy_of_mem (by decide +kernel) ht, h2, h3, h4, h5, List.length_eq_one_iff.mp h6⟩⟩
/-- R199, R200: each lane has its new slot in the register that its own team's `regroup` named. -/
theorem test_regroup_commit :
    ((run (.regroupCommit 0 false) committing2).teams.map fun t => t.lanes.map fun l => (l.v[4]?, l.v[5]?, l.v[6]?, l.key)) =
      [[(some 0, some 0, some 0, 0), (some 0, some 0, some 1, 0)], [(some 1, some 0, some 0, 1), (some 1, some 0, some 1, 1)]] := by
  decide +kernel

theorem witness_RegroupsArriveAndCommit_commit : ∃ (t : Team) (a : RegroupArrival) (r : Regroup) (x : Split), committing.teams = [t] ∧
    t.coreNo = 0 ∧ (committing.core 0).regroups = [r] ∧ r.arrivals = [a] ∧ a.team = t.key ∧ r.participants = [t.key] ∧
    r.nmax.isSome = true ∧ t.gang = none ∧ t.plane = none ∧ t.entry.planes = 0 ∧ 0 < t.entry.lanes ∧
    t.split? a.split = some x ∧ TakesTrap (committing.setCore { committing.core 0 with regroups := [] }) t x 0x100 :=
  ⟨team1 committing, { team := 0x40, split := 0, dst := 5, keyReg := 4 },
    { ctx := 0, handler := none, launch := none, gang := none, participants := [0x40]
      arrivals := [{ team := 0x40, split := 0, dst := 5, keyReg := 4 }], started := 0, nmax := some 2 },
    { mask := 7, pc := 0x40 }, rfl, by decide +kernel, by decide +kernel, rfl, by decide +kernel, by decide +kernel, rfl,
    by decide +kernel, by decide +kernel, by decide +kernel, by decide +kernel, by decide +kernel,
    ⟨by decide +kernel, rfl, by decide +kernel, by decide +kernel, by decide +kernel⟩⟩

/-- `trig` without a launch, and of a gang whose count it completes. -/
theorem witness_TriggersAndSafePoints_trig :
    (∃ e, (Instr.trig hd).wf = true ∧ Issues (.trig hd) one e ∧ e.t.launch = none) ∧
    ∃ (e : Ex1) (l : Launch) (g : Gang), Issues (.trig hd) (ganged 2 false) e ∧
      e.t.launch.bind (ganged 2 false).launch? = some l ∧ 0 < l.rec'.trign ∧ e.t.triggered = false ∧
      AllPerformed (ganged 2 false) e ∧ e.t.gang.bind (ganged 2 false).gang? = some g ∧
      g.triggeredBy.contains e.t.id = false ∧ l.rec'.trign ≤ g.triggers + 1 :=
  ⟨⟨exOf (.trig hd) one, by decide +kernel, (issues_of (by decide +kernel)).2, by decide +kernel⟩,
    ⟨exOf (.trig hd) (ganged 2 false), _, _, (issues_of (by decide +kernel)).2, get_some (by decide +kernel),
      by decide +kernel, by decide +kernel,
      allPerformed_of (by decide +kernel),
      get_some (by decide +kernel), by decide +kernel, by decide +kernel⟩⟩

/-- A team that a pre-emption has been asked for, and a parked one. -/
def asked1 : State := st { tm [ln [(2, 5)]] with preempt := some { due := 9, cycles := 9 } }
def parked : State :=
  let t : Team := { tm [{}] with status := .parked, entry := { en with planes := 0 }, handler := some 5 }
  { st t with ctxs := [{ ctx0 with control := { hold := false } }] }
theorem savable_one (s : State) (t : Team) (h : (t.gang.isNone && decide (t.status = .resident) && !(s.die t.dieNo).fenced &&
    ((s.core t.coreNo).regroups.isEmpty && (t.splits.all (fun x => x.block != .acks && !x.mustFinish) && s.quiet t))) = true) :
    Savable s t := by
  simp only [Bool.and_eq_true, Option.isNone_iff_eq_none, decide_eq_true_eq, Bool.not_eq_true', List.isEmpty_iff,
    List.all_eq_true, bne_iff_ne] at h
  obtain ⟨⟨⟨h1, h2⟩, h3⟩, h4, h5, h6⟩ := h
  exact ⟨h1, .inl h2, h3, by rw [h4]; simp, fun x hx => (h5 x hx).1, fun x hx => (h5 x hx).2, h6⟩
def yl : BrOp := ⟨hd, 1, 0, 0, 0⟩
theorem witness_TriggersAndSafePoints_yield :
    (∃ e, (Instr.yield yl).wf = true ∧ Issues (.yield yl) one e ∧ e.t.preempt = none) ∧
    (∃ e, Issues (.yield yl) asked1 e ∧ e.t.preempt.isSome = true ∧ Savable asked1 e.t) ∧
    (∃ e, (Instr.yieldDone yl).wf = true ∧ Issues (.yieldDone yl) one e ∧ e.t.splits = [e.x] ∧ Savable one e.t ∧
      e.t.status = .resident ∧ e.t.saving = false) ∧
    ∃ (t : Team) (c : Ctx), parked.team? 0x40 = some t ∧ parked.ctx? t.ctx = some c ∧ t.status = .parked ∧ t.gang = none ∧
      t.handler.isSome = true ∧ t.wasHeld = false ∧ 5 / 512 = t.pkg ∧ 5 / 128 = t.dieNo ∧ c.dies.contains t.dieNo = true ∧
      parked.mayPlace t.ctx t.pkg = true ∧ (parked.die t.dieNo).fenced = false ∧
      parked.emptiestCore t.dieNo t.entry t.lanes.length = some 0 ∧ ∀ x ∈ t.splits, x.wait ≠ .fault :=
  ⟨⟨exOf (.yield yl) one, by decide +kernel, (issues_of (by decide +kernel)).2, by decide +kernel⟩,
    ⟨exOf (.yield yl) asked1, (issues_of (by decide +kernel)).2, by decide +kernel, savable_one _ _ (by decide +kernel)⟩,
    ⟨exOf (.yieldDone yl) one, by decide +kernel, (issues_of (by decide +kernel)).2, by decide +kernel,
      savable_one _ _ (by decide +kernel), by decide +kernel, by decide +kernel⟩,
    ⟨(parked.team? 0x40).get (by decide +kernel), (parked.ctx? 0).get (by decide +kernel), get_some _, get_some _,
      by and_intros <;> decide +kernel⟩⟩

/-- Timers: two barriers of a gang; a `tsync`, an exchange and a regroup that wait. -/
def timed (k : Block) : State :=
  let t : Team := { tm [{}] with splits := [{ mask := 1, pc := 0x40, wait := .sync, block := k }], timer := some 3 }
  { gst t with
    gangs := [{ id := 3, ctx := 0, launch := 7, index := 0, pkg := 0, cluster := 0, expected := 2
                barriers := [{ timer := some 9 }, { timer := some 4 }, { timer := some 4 }] }]
    dies := [{ id := 0, xshuf := [{ arrival with team := 0x40 }] }]
    cores := [{ id := 0, regroups := [{ ctx := 0, handler := none, launch := none, gang := none, participants := [0x40, 0x41]
                                        arrivals := [{ team := 0x40, split := 0, dst := 5, keyReg := 4 }], started := 0 }] }] }
/-- A team of three splits: two wait at a `tsync`, which the third holds up. -/
def heldUp : State :=
  st { tm [{}, {}, {}] with
    timer := some 3
    splits := [{ id := 2, mask := 4, pc := 0x50, wait := .sync, block := .tsync }, { id := 1, mask := 2, pc := 0x48 },
      { mask := 1, pc := 0x40, wait := .sync, block := .tsync }] }
/-- R237, R90: the lower entry id takes WATCHDOG; the other's trap is held. -/
theorem test_watchdog_of_tsync :
    (let t := team1 (run (.watchdog (.tsync 0x40)) heldUp)
     t.j[0] == BitVec.ofNat 32 codeWatchdog && t.held == [2] &&
       t.splits.map (fun x => (x.id, x.pc.toNat, x.trap.isSome)) == [(2, 0x50, false), (1, 0x48, false), (0, 0x100, true)]) = true := by
  decide +kernel

theorem lone_of (t : Team) (x : Split) (label : Pc) (h : (decide (t.splits = [x]) && x.trap.isNone && t.held.isEmpty &&
    decide (t.entry.trap = some label)) = true) : Lone t x label := by
  simp only [Bool.and_eq_true, Option.isNone_iff_eq_none, decide_eq_true_eq, List.isEmpty_iff] at h
  exact ⟨h.1.1.1, h.1.1.2, h.1.2, h.2⟩
theorem witness_SyncTimeouts :
    (∃ (g : Gang) (c : Ctx), (timed .tsync).gang? 3 = some g ∧ (barrierOf g 1).timer = some 4 ∧
      (∀ b2 < 16, ∀ n2 ∈ (barrierOf g b2).timer, 4 < n2 ∨ (4 = n2 ∧ 1 ≤ b2)) ∧ (timed .tsync).ctx? g.ctx = some c) ∧
    (∃ (t : Team) (x y : Split), heldUp.team? 0x40 = some t ∧ t.status = .resident ∧ t.timer = some 3 ∧
      (t.splits.map Split.id).Nodup ∧ t.inHandler = false ∧ t.held = [] ∧ t.entry.trap = some 0x100 ∧ x ∈ t.splits ∧
      x.trap = none ∧ x.block = .tsync ∧ (∀ z ∈ t.splits, z.block = .tsync → x.id ≤ z.id) ∧ y ∈ t.splits ∧
      y.record = false ∧ y.block ≠ .tsync) ∧
    (∀ k ∈ [Block.xshuf 1, .regroup], ∃ t, (timed k).team? 0x40 = some t ∧ t.status = .resident ∧ t.timer = some 3 ∧
      Lone t { mask := 1, pc := 0x40, wait := .sync, block := k } 0x100) ∧
    (∃ a, ((timed (.xshuf 1)).die 0).xshuf.find? (fun a => a.team == 0x40) = some a) ∧
    ∃ (r : Regroup) (a : RegroupArrival), ((timed .regroup).core 0).regroups = [r] ∧ r.nmax = none ∧ r.aborted = none ∧
      r.arrivals = [a] ∧ a.team ∈ r.participants ∧ r.participants.Nodup ∧ r.participants.length ≤ 16 ∧ a.split = 0 := by
  refine ⟨⟨((timed .tsync).gang? 3).get (by decide +kernel), ((timed .tsync).ctx? 0).get (by decide +kernel), get_some _,
      by decide +kernel, by decide +kernel, get_some _⟩,
    ⟨(heldUp.team? 0x40).get (by decide +kernel), { mask := 1, pc := 0x40, wait := .sync, block := .tsync },
      { id := 1, mask := 2, pc := 0x48 }, get_some _, by and_intros <;> decide +kernel⟩, ?_,
    ⟨_, get_some (by decide +kernel)⟩,
    ⟨{ ctx := 0, handler := none, launch := none, gang := none, participants := [0x40, 0x41]
       arrivals := [{ team := 0x40, split := 0, dst := 5, keyReg := 4 }], started := 0 },
      { team := 0x40, split := 0, dst := 5, keyReg := 4 }, by decide +kernel, rfl, rfl, rfl, by decide, by decide, by decide,
      rfl⟩⟩
  intro k hk
  simp only [List.mem_cons, List.not_mem_nil, or_false] at hk
  rcases hk with rfl | rfl <;>
    exact ⟨((timed _).team? 0x40).get (by decide +kernel), get_some _, by decide +kernel, by decide +kernel,
      lone_of _ _ _ (by decide +kernel)⟩

/-! ### Scribes -/

/-- Operands of scribe instructions: s4 = 0, s6 = 2, s20 = 0x100, s10 = ROUTE 9 and 32 bytes, s12 = 0 (a completion word). -/
def scr : State :=
  let t : Team := { tm [{}] with s := ((Vector.replicate 64 0).set 6 2).set 10 0x90000020 |> fun v => v.set 20 0x100, scratch := { cells := [(1, 9)] } }
  { gst t with ctxPkgs := [{ ctx := 0, pkg := 0, tds := [(1, tensor8 + (4 <<< 64) + (32 <<< 96))] }] }
def so (d a b : Operand) : ScribeOp := ⟨hd, true, false, d, a, b, .s 12, 1⟩
def rowsOk (s : State) (e : Ex1) (o : Operand) (rows : Nat) : Bool :=
  let d := descriptor s e o
  decide (tdField d 31 1 = 0) && decide (tdField d 0 1 = 6 ∧ tdField d 12 4 = 32) &&
    decide (tdField d 8 4 = rows ∧ tdField d 16 4 = 32 ∧ tdField d 5 1 = 0)
theorem rows_of {s : State} {e : Ex1} {o : Operand} {rows : Nat} (h : rowsOk s e o rows = true) :
    RowForm (descriptor s e o) 32 rows 32 false := by
  simp only [rowsOk, Bool.and_eq_true, decide_eq_true_eq] at h
  obtain ⟨⟨h1, h2, h3⟩, h4, h5, h6⟩ := h
  exact ⟨h1, by rw [h2]; decide, by rw [h2, h3]; rfl, by rw [h2]; intro h; simp at h, h4.symm, h5.symm, .inl ⟨h6, rfl⟩⟩

theorem witness_ScribeInstructionsFork :
    (∃ e, (Instr.cpy (so (.s 20) (.s 4) (.s 10))).wf = true ∧ Issues (.cpy (so (.s 20) (.s 4) (.s 10))) scr e ∧
      uword e (.s 10) 0 = BitVec.ofNat 32 (9 * 2 ^ 28 + 32) ∧ routeOf 9 = some (.core, .core) ∧ PairFits .core (.s 4) ∧
      ComplFits e (so (.s 20) (.s 4) (.s 10)) ∧ Inside scr e .core (addrIn e .core (.s 4)) 32 ∧
      Inside scr e .core (addrIn e .core (.s 20)) 32) ∧
    (∃ e, (Instr.fill (so (.s 20) (.s 4) (.s 10))).wf = true ∧ Issues (.fill (so (.s 20) (.s 4) (.s 10))) scr e ∧
      Inside scr e .core (addrIn e .core (.s 20)) 32) ∧
    (∃ e, (Instr.tile (so (.s 20) (.s 4) (.td 1))).wf = true ∧ Issues (.tile (so (.s 20) (.s 4) (.td 1))) scr e ∧
      RowForm (descriptor scr e (.td 1)) 32 4 32 false ∧ ComplFits e (so (.s 20) (.s 4) (.td 1)) ∧
      Inside scr e .core (uword e (.s 20) 0).toNat (4 * 32)) ∧
    (∃ e, (Instr.gather (so (.s 20) (.s 4) (.td 1))).wf = true ∧ Issues (.gather (so (.s 20) (.s 4) (.td 1))) scr e ∧
      RowForm (descriptor scr e (.td 1)) 32 4 32 false ∧ upair e (.s 4) 0 % 4 = 0 ∧
      Inside scr e .core (uword e (.s 20) 0).toNat ((uword e (.s 4) 2).toNat * 32)) ∧
    ∃ e, (Instr.scatter (so (.s 4) (.s 20) (.td 1))).wf = true ∧ Issues (.scatter (so (.s 4) (.s 20) (.td 1))) scr e ∧
      RowForm (descriptor scr e (.td 1)) 32 4 32 false ∧ upair e (.s 4) 0 % 4 = 0 ∧
      Inside scr e .core (uword e (.s 20) 0).toNat ((uword e (.s 4) 2).toNat * 32) :=
  ⟨⟨exOf (.cpy (so (.s 20) (.s 4) (.s 10))) scr, by decide +kernel, (issues_of (by decide +kernel)).2, by decide +kernel,
      rfl, fun h => absurd h (by decide), fun _ => ⟨by decide +kernel, by decide +kernel⟩, show _ ≤ _ by decide +kernel,
      show _ ≤ _ by decide +kernel⟩,
    ⟨exOf (.fill (so (.s 20) (.s 4) (.s 10))) scr, by decide +kernel, (issues_of (by decide +kernel)).2,
      show _ ≤ _ by decide +kernel⟩,
    ⟨exOf (.tile (so (.s 20) (.s 4) (.td 1))) scr, by decide +kernel, (issues_of (by decide +kernel)).2,
      rows_of (by decide +kernel), fun _ => ⟨by decide +kernel, by decide +kernel⟩, show _ ≤ _ by decide +kernel⟩,
    ⟨exOf (.gather (so (.s 20) (.s 4) (.td 1))) scr, by decide +kernel, (issues_of (by decide +kernel)).2,
      rows_of (by decide +kernel), by decide +kernel, show _ ≤ _ by decide +kernel⟩,
    ⟨exOf (.scatter (so (.s 4) (.s 20) (.td 1))) scr, by decide +kernel, (issues_of (by decide +kernel)).2,
      rows_of (by decide +kernel), by decide +kernel, show _ ≤ _ by decide +kernel⟩⟩

/-- A command of four bytes that the scribes have not taken, and the one after scribe 0 has it. -/
def cpy4 : ScribeCmd :=
  { id := 0, kind := .cpy, team := 0x40, teamId := 0x40, core := 0, ctx := 0, gang := none, pc := 0x40, add := true, strict := false
    value := 1, compl := some 8, src := (.core, 0), dst := (.core, 0x100), len := 4 }
def scribing (c : ScribeCmd) : State := { scr with dies := [{ id := 0, tlb := [tlb0], cmds := [c], nextCmd := 1 }] }
def gather0 : ScribeCmd := { cpy4 with kind := .gather, scribe := some 0, src := (.glb, 0), rb := 32, rstride := 32, list := 0x100 }
def xfersOk (s : State) (c : ScribeCmd) (l : List Xfer) : Bool := match (s.runXfers c l).2 with
  | .ok o => o.fails.isEmpty
  | _ => false
theorem xfers_of {s : State} {c : ScribeCmd} {l : List Xfer} (h : xfersOk s c l = true) :
    ∃ s1 o, s.runXfers c l = (s1, .ok o) ∧ o.fails = [] := by
  revert h
  unfold xfersOk
  generalize s.runXfers c l = r
  obtain ⟨s1, r⟩ := r
  intro h
  cases r <;> simp_all

theorem witness_ScribesRunCommands :
    (((scribing cpy4).die 0).fenced = false ∧ (∀ m ∈ ((scribing cpy4).die 0).cmds, m.scribe ≠ some 0) ∧
      ((scribing cpy4).die 0).cmds.find? (fun m => m.scribe.isNone) = some cpy4) ∧
    (Canonical scr ∧ Present scr cpy4 .core ∧ [(0 : Nat), 1].length = [0x100, 0x101].length ∧ [0x100, 0x101].Nodup) ∧
    0 < cpy4.len ∧
    (∃ (s1 : State) (o : XOut), Running (scribing { cpy4 with scribe := some 0 }) 0 { cpy4 with scribe := some 0 } ∧
      (scribing { cpy4 with scribe := some 0 }).runXfers { cpy4 with scribe := some 0 }
        ({ cpy4 with scribe := some 0 } : ScribeCmd).xfers = (s1, .ok o) ∧ o.fails = []) ∧
    Running (scribing gather0) 0 gather0 ∧ gather0.count ≤ gather0.next ∧
    (∃ t, (scribing gather0).team? 0x40 = some t ∧ ∃ y ∈ t.splits, ∀ z, y.block ≠ .yieldDone z) ∧
    ∀ n ∈ [0, 1, 2, 3, 4], Meets false (.scq (pl hd (.v 1) .imm .zero .zero n)) scr := by
  obtain ⟨s1, o, h1, h2⟩ := xfers_of (s := scribing { cpy4 with scribe := some 0 }) (c := { cpy4 with scribe := some 0 })
    (l := ({ cpy4 with scribe := some 0 } : ScribeCmd).xfers) (by decide +kernel)
  refine ⟨⟨by decide +kernel, by decide +kernel, by decide +kernel⟩,
    ⟨canonical_of (by decide +kernel), ⟨rfl, by decide +kernel⟩, rfl, by decide⟩, by decide,
    ⟨s1, o, ⟨by decide +kernel, ⟨rfl, rfl⟩, by decide +kernel⟩, h1, h2⟩,
    ⟨by decide +kernel, ⟨rfl, rfl⟩, by decide +kernel⟩, by decide,
    ⟨((scribing gather0).team? 0x40).get (by decide +kernel), get_some _, { mask := 1, pc := 0x40 }, by decide +kernel,
      fun z h => by cases h⟩,
    fun n hn => meets_of (by revert n; decide +kernel)⟩

/-- Scribe 0 has a command already: the oldest of the others is for scribe 1. -/
def second : State :=
  { scr with dies := [{ id := 0, tlb := [tlb0], cmds := [{ cpy4 with scribe := some 0 }, { cpy4 with id := 1 }], nextCmd := 2 }] }
theorem witness_ScribesRunCommands_second : (∀ m ∈ (second.die 0).cmds, m.scribe ≠ some 1) ∧
    (∀ k < 1, ∃ m ∈ (second.die 0).cmds, m.scribe = some k) ∧
    (second.die 0).cmds.find? (fun m => m.scribe.isNone) = some { cpy4 with id := 1 } :=
  ⟨by decide +kernel, by decide +kernel, by decide +kernel⟩
/-- The bytes of a copy have been moved, and its team goes on. -/
def moved : State := ((scribing { cpy4 with scribe := some 0 }).runXfers { cpy4 with scribe := some 0 }
  ({ cpy4 with scribe := some 0 } : ScribeCmd).xfers).1
theorem witness_ScribesRunCommands_moved : (∃ t, Working moved 0x40 t) ∧ cpy4.orphan = none ∧ Canonical (scribing cpy4) :=
  ⟨⟨_, get_some (by decide +kernel), { mask := 1, pc := 0x40 }, by decide +kernel, rfl, fun z => by simp⟩, rfl,
    canonical_of (by decide +kernel)⟩

/-- A gather command whose first batch has two rows: the batch is read and moved without a failure. -/
def gather2 : ScribeCmd := { gather0 with rows := 4, count := 2, list := 0x4000, table := 0x5000 }
def batchOk (s : State) (c : ScribeCmd) (n : Nat) : Bool := match s.readBatch c n c.next with
  | (s1, .ok b) => b.fails.isEmpty && b.range.isNone && b.stop.isNone && xfersOk s1 c b.xfers
  | _ => false
theorem witness_ScribesRunCommands_batch : Running (scribing gather2) 0 gather2 ∧ gather2.next < gather2.count ∧
    gather2.counted = gather2.next ∧ batchOk (scribing gather2) gather2 2 = true :=
  ⟨⟨by decide +kernel, ⟨rfl, rfl⟩, by decide +kernel⟩, by decide, rfl, by decide +kernel⟩

/-! ### Events, tables and launches -/

def h5 : HEntry := ⟨5, true, { en with planes := 0 }⟩
/-- A handler image at 0x4000, a launch record at 0x4080, zeros at 0x5000; handler 5; room for a record; v2 = 5 as control
word, v4 = a gate handle, v6 = a scope or a count. -/
def ev : State :=
  let t : Team := { tm [ln [(2, 5), (4, 3), (6, 31)], ln [(2, 5), (4, 3), (6, 4)]] with
    s := (((Vector.replicate 64 0).set 2 0x4000).set 4 0x4080).set 6 0x5000 |> fun v => (v.set 8 0x100).set 10 4 }
  let m := tables.write 0x4022 [1, 0, 1, 0, 1, 0, 1] |> fun m => m.write 0x4033 [12] |> fun m => m.write 0x403C [1]
  let m := m.write 0x4080 (leBytes 8 0x10000) |> fun m => m.write 0x40A0 [1] |> fun m => m.write 0x40A8 [1]
  { gst t with
    mem := m.write 0x40B0 [1]
    ctxs := [{ ctx0 with handlers := [h5], binds := [⟨7, 0x100, 4, 8⟩] }]
    ctxDies := (List.range 4).map fun d => { ctx := 0, die := d, share := 16 }
    dies := [{ id := 0, tlb := [tlb0], gates := [{ slot := 3, record := { handler := 5 }, poster := 0, seq := 0, ctx := 0, count := 1, published := true }
                                , { slot := 4, record := { handler := 5 }, poster := 0, seq := 0, ctx := 0 }
                                , { slot := 5, record := { handler := 5 }, poster := 0, seq := 0, ctx := 0, published := true }] }]
    pkgs := [{ id := 0, ports := [] }] }
def ctxOf (s : State) : Ctx := (s.ctx? 0).getD ctx0
def evOp (d a b c : Operand) : PlainOp := pl hd d a b c

def unbegun (e : Ex1) : Bool :=
  e.x.accepted == 0 && match e.x.block with
    | .stalled _ _ _ _ => false
    | _ => true
theorem unbegun_of {e : Ex1} (h : unbegun e = true) : Unbegun e := by
  simp only [unbegun, Bool.and_eq_true, beq_iff_eq] at h
  exact ⟨h.1, fun _ _ _ _ hb => by rw [hb] at h; simp at h⟩
def handlersOk (s : State) (e : Ex1) (x : PlainOp) : Bool :=
  decide (s.ctx? e.t.ctx = some (ctxOf s)) && unbegun e &&
    e.slots.all fun i => ((ctxOf s).handler? (evHandler e.t x i)).isSome
theorem handlers_of {s : State} {e : Ex1} {x : PlainOp} (h : handlersOk s e x = true) : HandlersValid s e (ctxOf s) x := by
  simp only [handlersOk, Bool.and_eq_true, decide_eq_true_eq, List.all_eq_true] at h
  exact ⟨h.1.1, unbegun_of h.1.2, h.2⟩
/-- The same without room for a record. -/
def full : State := { ev with ctxs := [{ ctxOf ev with control := { deepLim := 0 } }] }
def po : PlainOp := evOp (.v 2) .zero .zero .zero

def noHandler : PlainOp := evOp .zero .zero .zero .zero
theorem witness_EventInstructions :
    (∃ e, (Instr.post true po).wf = true ∧ Issues (.post true po) ev e ∧ HandlersValid ev e (ctxOf ev) po ∧
      (eachLane (postOne e (ctxOf ev) true po) e.slots ev e.t).isSome = true) ∧
    (∃ e, Issues (.post true po) full e ∧ HandlersValid full e (ctxOf full) po ∧ e.slots = [] ++ 0 :: [1] ∧
      (postOne e (ctxOf full) true po full e.t 0).isNone = true) ∧
    (∃ e, (Instr.cancel 9 po).wf = true ∧ Issues (.cancel 9 po) ev e ∧ HandlersValid ev e (ctxOf ev) po ∧
      (eachLane (cancelOne e (ctxOf ev) 9 po) e.slots ev e.t).isSome = true) ∧
    (∃ e, (Instr.gate 9 po).wf = true ∧ Issues (.gate 9 po) ev e ∧ HandlersValid ev e (ctxOf ev) po ∧
      (eachLane (gateOne 9 po) e.slots ev e.t).isSome = true) ∧
    ∀ i ∈ [Instr.post false noHandler, .cancel 9 noHandler, .gate 9 noHandler], i.wf = true ∧ Issues i ev (exOf i ev) ∧
      Unbegun (exOf i ev) ∧
      (exOf i ev).slots.find? (fun k => ((ctxOf ev).handler? (evHandler (exOf i ev).t noHandler k)).isNone) = some 0 := by
  refine ⟨⟨exOf (.post true po) ev, by decide +kernel, (issues_of (by decide +kernel)).2, handlers_of (by decide +kernel),
      by decide +kernel⟩,
    ⟨exOf (.post true po) full, (issues_of (by decide +kernel)).2, handlers_of (by decide +kernel), by decide +kernel,
      by decide +kernel⟩,
    ⟨exOf (.cancel 9 po) ev, by decide +kernel, (issues_of (by decide +kernel)).2, handlers_of (by decide +kernel),
      by decide +kernel⟩,
    ⟨exOf (.gate 9 po) ev, by decide +kernel, (issues_of (by decide +kernel)).2, handlers_of (by decide +kernel),
      by decide +kernel⟩, ?_⟩
  have h : ∀ i ∈ [Instr.post false noHandler, .cancel 9 noHandler, .gate 9 noHandler], readyTo i ev = true ∧
      unbegun (exOf i ev) = true ∧ (exOf i ev).slots.find? (fun k => ((ctxOf ev).handler?
        (evHandler (exOf i ev).t noHandler k)).isNone) = some 0 := by decide +kernel
  exact fun i hi => ⟨(issues_of (h i hi).1).1, (issues_of (h i hi).1).2, unbegun_of (h i hi).2.1, (h i hi).2.2⟩

/-- A post reaches the pending records of its die with the poster's sequence number, a gate its handle (R304, R318). -/
theorem test_post_and_gate :
    let s := run (.post true po) ev
    ((s.ctxDie 0 0).pending.map (fun r => (r.ev.handler, r.poster, r.seq)) == [(5, 0, 0), (5, 0, 1)] &&
      (run (.gate 9 po) ev |> fun s => (vOf s 0 9, vOf s 1 9)) == (0, 1)) = true := by decide +kernel

def so2 (b : Operand) (imm : BitVec 8 := 0) : PlainOp := pl hd .zero (.v 4) b .zero imm
/-- A split that has stalled since cycle 7. -/
def stalling : State :=
  st { tm [{}] with splits := [{ mask := 1, pc := 0x40, wait := .order, block := .stalled 1 (some 7) 1 0 }] }
theorem witness_GatesCountAndFire :
    (∃ e, (Instr.signal (so2 .imm 31)).wf = true ∧ Issues (.signal (so2 .imm 31)) ev e ∧ ev.ctx? e.t.ctx = some (ctxOf ev) ∧
      Unbegun e ∧ AllPerformed ev e ∧ (∀ i ∈ e.slots, (evWord e.t (so2 .imm 31) i .imm 0).toNat ≤ 31) ∧
      (eachLane (signalOne e (ctxOf ev) (so2 .imm 31)) e.slots ev e.t).isSome = true) ∧
    (∃ e, Issues (.signal (so2 .imm 32)) ev e ∧ Unbegun e ∧
      (e.slots.find? fun i => decide (31 < (evWord e.t (so2 .imm 32) i .imm 0).toNat)) = some 0) ∧
    (∃ e, (Instr.publish (so2 (.v 6))).wf = true ∧ Issues (.publish (so2 (.v 6))) ev e ∧ AllPerformed ev e ∧
      ∀ i ∈ e.slots, (evWord e.t (so2 (.v 6)) i (.v 6) 0).toNat < 2 ^ 31 ∧ (evWord e.t (so2 (.v 6)) i (.v 4) 0).toNat / 2 ^ 18 % 512 = 0) ∧
    (∀ k ∈ [3, 4, 5], ∃ g, getBy Gate.slot k (ev.die 0).gates = some g ∧ g.ctx = 0 ∧ g.slot = k ∧
      (g.published = if k = 4 then false else true) ∧ g.count = if k = 3 then 1 else 0) ∧
    ((ctxOf ev).home ((ctxOf ev).handlerFields 5) 0 0 = 0 ∧
      ¬((ev.ctxDie 0 0).share + (ctxOf ev).control.deepLim * 65536 < (ev.ctxDie 0 0).held + 65536)) ∧
    ∃ (t : Team) (x : Split), stalling.team? 0x40 = some t ∧ Lone t x 0x100 ∧ x.id = 0 ∧ x.block = .stalled 1 (some 7) 1 0 := by
  refine ⟨⟨exOf (.signal (so2 .imm 31)) ev, by decide +kernel, (issues_of (by decide +kernel)).2, by decide +kernel,
      unbegun_of (by decide +kernel), allPerformed_of (by decide +kernel), by decide +kernel, by decide +kernel⟩,
    ⟨exOf (.signal (so2 .imm 32)) ev, (issues_of (by decide +kernel)).2, unbegun_of (by decide +kernel), by decide +kernel⟩,
    ⟨exOf (.publish (so2 (.v 6))) ev, by decide +kernel, (issues_of (by decide +kernel)).2,
      allPerformed_of (by decide +kernel), by decide +kernel⟩, ?_, ⟨by decide +kernel, by decide +kernel⟩,
    ⟨(stalling.team? 0x40).get (by decide +kernel), { mask := 1, pc := 0x40, wait := .order, block := .stalled 1 (some 7) 1 0 },
      get_some _, lone_of _ _ _ (by decide +kernel), rfl, rfl⟩⟩
  intro k hk
  simp only [List.mem_cons, List.not_mem_nil, or_false] at hk
  rcases hk with rfl | rfl | rfl <;>
    exact ⟨(getBy Gate.slot _ (ev.die 0).gates).get (by decide +kernel), get_some _, by decide +kernel, by decide +kernel,
      by decide +kernel, by decide +kernel⟩

/-- `hset` operands: index in A, image in B. -/
def hs (a b : Operand) (imm : BitVec 8 := 0) : PlainOp := pl hd .zero a b .zero imm
def image (i : Instr) (s : State) (b : Operand) (n : Nat) : State × Team × List Byte × Bool :=
  readState s (exOf i s) (readField (exOf i s).t [] (immPlain 0) (exOf i s).low b 0).toNat n
theorem label_of {x : Nat} (h : decide (x / 2 ^ 57 % 64 = 0) = true) : Label x := by
  unfold Label
  exact of_decide_eq_true h
theorem witness_HandlersAndControlAreSet :
    (let i := Instr.hset (hs .zero (.s 2)); i.wf = true ∧ Issues i ev (exOf i ev) ∧
      ReadsBytes ev (exOf i ev) 0x4000 64 (image i ev (.s 2) 64).1 (image i ev (.s 2) 64).2.1 (image i ev (.s 2) 64).2.2.1 ∧
      (image i ev (.s 2) 64).2.2.1.length = 64 ∧ HandlerImage (image i ev (.s 2) 64).2.2.1 ∧
      (image i ev (.s 2) 64).1.ctx? 0 = some (ctxOf ev) ∧
      AllPerformed (image i ev (.s 2) 64).1 { exOf i ev with t := (image i ev (.s 2) 64).2.1 }) ∧
    (let i := Instr.hset (hs .zero (.s 6)); Issues i ev (exOf i ev) ∧
      ReadsBytes ev (exOf i ev) 0x5000 64 (image i ev (.s 6) 64).1 (image i ev (.s 6) 64).2.1 (image i ev (.s 6) 64).2.2.1 ∧
      img (image i ev (.s 6) 64).2.2.1 60 1 = 0 ∧ img (image i ev (.s 6) 64).2.2.1 12 1 ≤ 40 ∧
      img (image i ev (.s 6) 64).2.2.1 13 1 ≤ 1 ∧ img (image i ev (.s 6) 64).2.2.1 16 48 = 0 ∧
      RouteImage (ctxOf ev) ((image i ev (.s 6) 64).2.2.1.take 32)) ∧
    (∃ (t : Team) (x : Split), (timed .acks).team? 0x40 = some t ∧ t.split? 0 = some x ∧ x.block = .acks) ∧
    ∀ n ∈ [0, 2, 9, 10, 11], Meets false (.hznq (pl hd (.v 1) .imm .zero .zero n)) ev :=
  ⟨⟨by decide +kernel, (issues_of (by decide +kernel)).2, reads_of (by decide +kernel), by decide +kernel,
      ⟨⟨by decide +kernel, label_of (by decide +kernel), label_of (by decide +kernel)⟩, by decide +kernel, by decide +kernel,
        by decide +kernel, by decide +kernel, by decide +kernel, by decide +kernel, by decide +kernel, by decide +kernel⟩,
      by decide +kernel, allPerformed_of (by decide +kernel)⟩,
    ⟨(issues_of (by decide +kernel)).2, reads_of (by decide +kernel), by decide +kernel, by decide +kernel,
      by decide +kernel, by decide +kernel, .inl (by decide +kernel)⟩,
    ⟨((timed .acks).team? 0x40).get (by decide +kernel), { mask := 1, pc := 0x40, wait := .sync, block := .acks }, get_some _,
      by decide +kernel, rfl⟩,
    fun n hn => meets_of (by revert n; decide +kernel)⟩

/-! ### Fences, tables and launch queues -/

/-- The same, issued at turn 9, with an element that the team issued before under way to its own die. -/
def open1 : State :=
  let t := team1 ev
  { ev with teams := [{ t with splits := t.splits.map fun x => { x with issuedAt := 9 } }], dies := [{ id := 0, tlb := [tlb0], blotters := [{ slot := 3, ctx := 0, dst := 0, since := 0, elems :=
      [{ kind := .store, addr := 0x6000, va := 0x6000, be := 15, data := 7, team := 0x40, core := 0, lane := 0, pc := 0x40 }] }] }] }
/-- The same with a second split, whose earlier access is not performed. -/
def earlier1 : State :=
  let t := team1 ev
  { ev with teams := [{ t with splits := t.splits.map (fun x => { x with issuedAt := 9 }) ++ [{ id := 1, issuedAt := 4, holds := [7] }] }] }
theorem witness_FencesAndReleases :
    (∃ e, (Instr.fence true 5 hd).wf = true ∧ Issues (.fence true 5 hd) ev e ∧ ¬EarlierOpen e ∧
      ¬EarlierElements e ∧ ev.elementsOpen e.t 5 ⟨[], false⟩ e.x.issuedAt = false) ∧
    (∃ e, (Instr.fence true 5 hd).wf = true ∧ Issues (.fence true 5 hd) open1 e ∧
      open1.elementsOpen e.t 5 ⟨[], false⟩ e.x.issuedAt = true) ∧
    (∃ e, Issues (.fence false 0 hd) earlier1 e ∧ EarlierOpen e) ∧
    ∃ ln : L1Line, NoFence cached ∧ ((cached.core 0).l1.map L1Line.pa).Nodup ∧ ln ∈ (cached.core 0).l1 ∧ ReachedBy 0 ln ∧
      5 < 128 ∧ ln.dirty.getLsbD 5 = true ∧ Canonical cached ∧ cached.wrongWrites = [] ∧
      cached.reachable 0 (ln.pa * 128 / 2 ^ 37) = true :=
  ⟨⟨exOf (.fence true 5 hd) ev, by decide +kernel, (issues_of (by decide +kernel)).2, by decide +kernel,
      earlierElements_of (by decide +kernel), by decide +kernel⟩,
    ⟨exOf (.fence true 5 hd) open1, by decide +kernel, (issues_of (by decide +kernel)).2, by decide +kernel⟩,
    ⟨exOf (.fence false 0 hd) earlier1, (issues_of (by decide +kernel)).2, by decide +kernel⟩,
    ⟨{ pa := 0x400, maps := [(0, 0x400)], data := [(5, 6)], valid := 15, dirty := 32 }, noFence_all (by decide +kernel),
      by decide +kernel, List.mem_singleton.mpr rfl, ⟨(0, 0x400), List.mem_singleton.mpr rfl, rfl⟩, by decide,
      by decide +kernel, canonical_of (by decide +kernel), rfl, by decide +kernel⟩⟩

def bd (a b c d : Operand) (imm : BitVec 8 := 0) : PlainOp := pl hd d a b c imm
/-- A launch record at 0x4080, and a launch queue that `n` records fill. -/
def qs (n : Nat) : State :=
  let r : LaunchRec := launchRec [] 0
  { ev with
    mem := (ev.mem.write 0x40BA [1, 0, 1, 0, 1]).write 0x40CC [12]
    ctxPkgs := [{ ctx := 0, pkg := 0, queues := [(1, List.replicate n ⟨r, false, none⟩)] }] }
def launchIt : PlainOp := bd (.s 4) .imm .zero .zero 1
def record128 (n : Nat) : State × Team × List Byte × Bool := readState (qs n) (exOf (.launch launchIt) (qs n)) 0x4080 128
def recOf (bs : List Byte) : LaunchRec := launchRec bs 0x4080
def launchOk (n : Nat) : Bool := match (record128 n).1.checkLaunch 0 0 (record128 n).2.2.1 0x4080 1 with
  | .inr _ => true
  | .inl _ => false
theorem launch_of {n : Nat} (h : launchOk n = true) :
    ∃ r, (record128 n).1.checkLaunch 0 0 (record128 n).2.2.1 0x4080 1 = .inr r := by
  revert h
  unfold launchOk
  cases (record128 n).1.checkLaunch 0 0 (record128 n).2.2.1 0x4080 1 with
  | inl j => simp
  | inr r => exact fun _ => ⟨r, rfl⟩

theorem noLaunching {e : Ex1} (h : e.x.block = .none) : ∀ r q, e.x.block ≠ .launching r q := by
  intro r q hb
  rw [h] at hb
  cases hb
theorem witness_TablesAndLaunchQueues_tables :
    (let i := Instr.bind (bd (.s 10) (.s 10) (.s 12) .imm 255); i.wf = true ∧ Issues i ev (exOf i ev) ∧
      ev.ctx? (exOf i ev).t.ctx = some (ctxOf ev) ∧ AllPerformed ev (exOf i ev) ∧
      (readField (exOf i ev).t [] (immPlain 255) (exOf i ev).low (.s 10) 0).toNat = 4 ∧
      (readField (exOf i ev).t [] (immPlain 255) (exOf i ev).low .imm 0).toNat = 255) ∧
    (∀ n ∈ [7, 255], let i := Instr.unbind (bd .zero .zero .zero .imm n); i.wf = true ∧ Issues i ev (exOf i ev) ∧
      ev.ctx? (exOf i ev).t.ctx = some (ctxOf ev) ∧ AllPerformed ev (exOf i ev) ∧
      (readField (exOf i ev).t [] (immPlain n) (exOf i ev).low .imm 0).toNat = n.toNat ∧
      (getBy Binding.index n.toNat (ctxOf ev).binds).isSome = (n == 7)) ∧
    ∀ n ∈ [6, 31], let i := Instr.scset (bd .imm (.s 6) .zero .zero n); i.wf = true ∧ Issues i ev (exOf i ev) ∧
      ReadsBytes ev (exOf i ev) 0x5000 128 (image i ev (.s 6) 128).1 (image i ev (.s 6) 128).2.1 (image i ev (.s 6) 128).2.2.1 ∧
      (image i ev (.s 6) 128).1.ctx? 0 = some (ctxOf ev) ∧
      AllPerformed (image i ev (.s 6) 128).1 { exOf i ev with t := (image i ev (.s 6) 128).2.1 } ∧
      (readField (exOf i ev).t [] (immPlain n) (exOf i ev).low .imm 0).toNat = n.toNat := by
  refine ⟨⟨by decide +kernel, (issues_of (by decide +kernel)).2, by decide +kernel, allPerformed_of (by decide +kernel),
      by decide +kernel, by decide +kernel⟩, ?_, ?_⟩
  · intro n hn
    simp only [List.mem_cons, List.not_mem_nil, or_false] at hn
    rcases hn with rfl | rfl <;>
      exact ⟨by decide +kernel, (issues_of (by decide +kernel)).2, by decide +kernel, allPerformed_of (by decide +kernel),
        by decide +kernel, by decide +kernel⟩
  · intro n hn
    simp only [List.mem_cons, List.not_mem_nil, or_false] at hn
    rcases hn with rfl | rfl <;>
      exact ⟨by decide +kernel, (issues_of (by decide +kernel)).2, reads_of (by decide +kernel),
        by decide +kernel, allPerformed_of (by decide +kernel), by decide +kernel⟩

theorem witness_TablesAndLaunchQueues_launch : ∀ n ∈ [0, 64], (Instr.launch launchIt).wf = true ∧
    Issues (.launch launchIt) (qs n) (exOf (.launch launchIt) (qs n)) ∧
    upair (exOf (.launch launchIt) (qs n)) (.s 4) 0 = 0x4080 ∧
    ReadsBytes (qs n) (exOf (.launch launchIt) (qs n)) 0x4080 128 (record128 n).1 (record128 n).2.1 (record128 n).2.2.1 ∧
    AllPerformed (record128 n).1 { exOf (.launch launchIt) (qs n) with t := (record128 n).2.1 } ∧
    (∀ r q, (exOf (.launch launchIt) (qs n)).x.block ≠ .launching r q) ∧
    (∃ r, (record128 n).1.checkLaunch 0 0 (record128 n).2.2.1 0x4080 1 = .inr r) ∧
    (queueOf (record128 n).1 0 0 1).length = n := by
  intro n hn
  simp only [List.mem_cons, List.not_mem_nil, or_false] at hn
  rcases hn with rfl | rfl <;>
    exact ⟨by decide +kernel, (issues_of (by decide +kernel)).2, by decide +kernel, reads_of (by decide +kernel),
      allPerformed_of (by decide +kernel), noLaunching (by decide +kernel), launch_of (by decide +kernel), by decide +kernel⟩

/-- A `launch` that waited for room and issues again. -/
def relaunch (n : Nat) : State :=
  { qs n with teams := (qs n).teams.map fun t => { t with splits := t.splits.map fun x =>
      { x with block := .launching ⟨launchRec [] 0, false, none⟩ 1 } } }
theorem witness_TablesAndLaunchQueues_again : ∀ n ∈ [0, 64], Issues (.launch launchIt) (relaunch n) (exOf (.launch launchIt) (relaunch n)) ∧
    AllPerformed (relaunch n) (exOf (.launch launchIt) (relaunch n)) ∧
    (exOf (.launch launchIt) (relaunch n)).x.block = .launching ⟨launchRec [] 0, false, none⟩ 1 ∧
    (queueOf (relaunch n) 0 0 1).length = n := by
  intro n hn
  simp only [List.mem_cons, List.not_mem_nil, or_false] at hn
  rcases hn with rfl | rfl <;>
    exact ⟨(issues_of (by decide +kernel)).2, allPerformed_of (by decide +kernel), by decide +kernel, by decide +kernel⟩

/-- `bind` takes effect with the next access, `launch` queues its record (R330, R404). -/
theorem test_bind_and_launch :
    (getBy Binding.index 255 (ctxOf (run (.bind (bd (.s 10) (.s 10) (.s 12) .imm 255)) ev)).binds == some ⟨255, 4, 4, 0⟩ &&
      (queueOf (run (.launch launchIt) (qs 0)) 0 0 1).map (fun q => q.rec'.entry.lanes) == [1]) = true := by decide +kernel

/-! ### Remote memory and packets -/

def isGlb (a : Acc) : Bool := match a.loc with
  | .glb _ => true
  | _ => false
theorem glb_of {l : List Acc} (h : l.all isGlb = true) : ∀ a ∈ l, ∃ ps, a.loc = .glb ps := by
  intro a ha
  have := List.all_eq_true.mp h a ha
  unfold isGlb at this
  split at this
  · exact ⟨_, ‹_›⟩
  · simp at this
def sendsOk (i : Instr) (kind : ElemKind) (op : AOp) (ty : AType) (x : MemOp) (s : State) : Bool :=
  let e := exOf i s
  let need : Need := { bytes := x.width.bytes, kind := .write, aligned := true, element := true }
  let r := locs x true need s e
  let accs := found r.2
  readyTo i s && (translatedB s e x.space need (addrsOf x true e) && (allOk r.2 && accs.all isGlb)) &&
    (firstIssue e && (unbegun e && e.x.src.isEmpty)) && (nothingEarlier e && decide ((e.t.splits.map Split.id).Nodup)) &&
    nothingOpen x r.1 e accs &&
    match popFields e.slots i x.ops e.t with
    | .ok q => (eachLane (sendOne { exOf i s with t := q.1 } kind op ty x q.2 accs) (accs.map Acc.slot)
        (released (x.order == .sync) x e accs r.1) q.1).isSome
    | .error _ => false
def Sends (i : Instr) (kind : ElemKind) (op : AOp) (ty : AType) (x : MemOp) (s : State) : Prop :=
  ∃ (e : Ex1) (s1 : State) (accs : List Acc) (e' : Ex1) (p : Pops) (s2 : State), i.wf = true ∧ Issues i s e ∧
    Located x s e s1 accs ∧ NothingOpen (x.order == .sync) x e accs s1 ∧
    Delivers e.slots i x.ops e (released (x.order == .sync) x e accs s1) e' p s2 ∧
    (eachLane (sendOne e' kind op ty x p accs) (accs.map Acc.slot) s2 e'.t).isSome = true
theorem sends_of {i : Instr} {kind : ElemKind} {op : AOp} {ty : AType} {x : MemOp} {s : State}
    (h : sendsOk i kind op ty x s = true) : Sends i kind op ty x s := by
  simp only [sendsOk, Bool.and_eq_true, decide_eq_true_eq, List.isEmpty_iff] at h
  obtain ⟨⟨⟨⟨⟨h1, h2, h3, h4⟩, h5, h6, h0⟩, h7, h8⟩, h9⟩, h10⟩ := h
  split at h10
  · rename_i q hq
    exact ⟨_, _, found (locs x true { bytes := x.width.bytes, kind := .write, aligned := true, element := true } s (exOf i s)).2,
      { exOf i s with t := q.1 }, q.2, _, (issues_of h1).1, (issues_of h1).2,
      ⟨translated_of h2, by rw [← (found_of h3)]; rfl, glb_of h4, ⟨firstIssue_of h5, unbegun_of h6, h0⟩, nothingEarlier_of h7, h8⟩,
      nothingOpen_of h9, ⟨hq, rfl, rfl⟩, h10⟩
  · simp at h10

def gm (w : MWidth) (o : MOrder) (d a b c : Operand) : MemOp := { mm .glb w o d a b c with scope := if o = .weak then 0 else 5 }
def rstOp : MemOp := gm .b32 .sync .zero (.v 2) .zero (.v 4)
def rredOp : MemOp := gm .b64 .weak .zero (.v 2) .zero (.v 4)
theorem witness_RemoteMemoryResults_sends : Sends (.rst rstOp) .store .add .u rstOp memS ∧
    Sends (.rred .max .s rredOp) .reduction .max .s rredOp memS :=
  ⟨sends_of (by decide +kernel), sends_of (by decide +kernel)⟩

def rldOp : MemOp := gm .b32 .sync (.v 8) (.v 2) .zero .zero
def ratomOp : MemOp := gm .b64 .ar (.v 8) (.v 2) .zero (.v 4)
def rcasOp : MemOp := gm .b32 .weak (.v 8) (.v 2) (.v 5) (.v 4)
def nearB (e : Ex1) (accs : List Acc) : Bool := accs.all fun a => isGlb a && decide (paOf a / 2 ^ 39 = e.t.pkg)
theorem near_of {e : Ex1} {accs : List Acc} (h : nearB e accs = true) : Near e accs := by
  simp only [nearB, List.all_eq_true, Bool.and_eq_true, decide_eq_true_eq] at h
  exact fun a ha => ⟨glb_of (List.all_eq_true.mpr fun b hb => (h b hb).1) a ha, (h a ha).2⟩
def farB (e : Ex1) (accs : List Acc) : Bool :=
  (accs.all fun a => isGlb a && decide (paOf a / 2 ^ 39 ≠ e.t.pkg)) && !accs.isEmpty && decide (byWord accs = [accs])
theorem far_of {e : Ex1} {accs : List Acc} (h : farB e accs = true) :
    (∀ a ∈ accs, (∃ ps, a.loc = .glb ps) ∧ paOf a / 2 ^ 39 ≠ e.t.pkg) ∧ accs ≠ [] ∧ byWord accs = [accs] := by
  simp only [farB, List.all_eq_true, Bool.and_eq_true, decide_eq_true_eq, Bool.not_eq_true', List.isEmpty_eq_false_iff] at h
  exact ⟨fun a ha => ⟨glb_of (List.all_eq_true.mpr fun b hb => (h.1.1 b hb).1) a ha, (h.1.1 a ha).2⟩, h.1.2, h.2⟩
def elementsDone (s : State) (e : Ex1) (accs : List Acc) : Bool :=
  (s.outstanding e.t.key e.t.dieNo).all fun q => !q.1.byLane || !decide (q.1.issued < e.x.issuedAt) ||
    accs.all fun a => decide (q.2 ≠ paOf a / 2 ^ 37)
theorem elementsDone_of {s : State} {e : Ex1} {accs : List Acc} (h : elementsDone s e accs = true) : ElementsDone s e accs := by
  intro q hq h1 h2 a ha
  have := List.all_eq_true.mp h q hq
  simp only [h1, h2, Bool.not_true, decide_true, Bool.false_or, List.all_eq_true, decide_eq_true_eq] at this
  exact this a ha

/-- The hypotheses of the statements about requests: their homes are near, or far. -/
def RequestMeets (i : Instr) (x : MemOp) (indexed rel far : Bool) (kind : AccKind) (s : State) : Prop :=
  i.wf = true ∧ ∃ (e : Ex1) (s1 : State) (accs : List Acc) (e' : Ex1) (p : Pops) (s2 : State), Issues i s e ∧ e.x.src = [] ∧
    Served x indexed { bytes := x.width.bytes, kind := kind, aligned := true } s e s1 accs ∧
    (if far then (∀ a ∈ accs, (∃ ps, a.loc = .glb ps) ∧ paOf a / 2 ^ 39 ≠ e.t.pkg) ∧ accs ≠ [] ∧ byWord accs = [accs]
      else Near e accs) ∧
    ElementsDone s1 e accs ∧ NothingOpen rel x e accs s1 ∧ Delivers e.slots i x.ops e (released rel x e accs s1) e' p s2
def requestMeets (i : Instr) (x : MemOp) (indexed far : Bool) (kind : AccKind) (s : State) : Bool :=
  let e := exOf i s
  let need : Need := { bytes := x.width.bytes, kind := kind, aligned := true }
  let r := locs x indexed need s e
  readyTo i s && e.x.src.isEmpty && served x indexed need s e && (if far then farB e (found r.2) else nearB e (found r.2)) &&
    elementsDone r.1 e (found r.2) && nothingOpen x r.1 e (found r.2) &&
    match popFields e.slots i x.ops e.t with
    | .ok _ => true
    | .error _ => false
theorem requestMeets_of {i : Instr} {x : MemOp} {indexed rel far : Bool} {kind : AccKind} {s : State}
    (h : requestMeets i x indexed far kind s = true) : RequestMeets i x indexed rel far kind s := by
  simp only [requestMeets, Bool.and_eq_true, List.isEmpty_iff] at h
  obtain ⟨⟨⟨⟨⟨⟨h1, h0⟩, h2⟩, h3⟩, h4⟩, h5⟩, h6⟩ := h
  split at h6
  · rename_i q hq
    refine ⟨(issues_of h1).1, _, _, _, { exOf i s with t := q.1 }, q.2, _, (issues_of h1).2, h0, served_of h2, ?_,
      elementsDone_of h4, nothingOpen_of h5, hq, rfl, rfl⟩
    cases far
    · exact near_of h3
    · exact far_of h3
  · simp at h6

/-- Package 1 can be reached by port 0; its memory stands behind the second gigabyte, where both lanes' addresses lie. -/
def remote : State :=
  let t := team1 memS
  { memS with
    mem := memS.mem.write 0x3008 (leBytes 8 (2 ^ 39 + 0x1F))
    dies := [{ id := 0, tlb := [tlb0, { ctx := 0, page := 1, level := 2, pte := 2 ^ 39 + 0x1F }] }]
    pkgs := [{ id := 0, ports := [{ no := 0, up := true }] }, { id := 1, ports := [{ no := 0, up := true }] }]
    teams := [{ t with lanes := t.lanes.map fun l => { l with v := l.v.set 2 (0x40000000 + (l.v[2]?).getD 0) } }] }
theorem witness_RemoteMemoryResults_near : RequestMeets (.rld rldOp) rldOp true false false .read memS ∧
    RequestMeets (.ratom .add .u ratomOp) ratomOp true true false .write memS ∧
    RequestMeets (.rcas rcasOp) rcasOp false false false .write memS :=
  ⟨requestMeets_of (by decide +kernel), requestMeets_of (by decide +kernel), requestMeets_of (by decide +kernel)⟩
theorem witness_RemoteMemoryResults_far : RequestMeets (.rld rldOp) rldOp true false true .read remote ∧
    RequestMeets (.ratom .add .u ratomOp) ratomOp true true true .write remote ∧
    RequestMeets (.rcas rcasOp) rcasOp false false true .write remote :=
  ⟨requestMeets_of (by decide +kernel), requestMeets_of (by decide +kernel), requestMeets_of (by decide +kernel)⟩

/-- `sendPacket` with the number of link-control flits that stand before the packet. -/
def sendWith (s : State) (src dst die k flits control : Nat) : Sent :=
  if src = dst then .ok s
  else
    match s.streamPort src dst die k with
    | none => .lost
    | some n =>
      let now := s.cycle src
      let q := (s.port src n).installSend
      if 512 < q.held + control + (flits - q.begun) then .full
      else
        let q := if control = 0 then q else q.hold now
        let (q, left) := Port.sendFlits now (flits - q.begun) q
        if left = 0 then .ok (s.setPort src { q with begun := 0 }) else .cut (s.setPort src { q with begun := flits - left })
/-- So many flits leave, whichever the others are, and the state behind them meets `P`. -/
theorem flits_of (s : State) (src dst die k flits : Nat) (P : State → Bool)
    (h : ([0, 1].all fun c => match sendWith s src dst die k flits c with
      | .ok s1 => P s1
      | _ => false) = true) : ∃ s1, s.sendPacket src dst die k flits = .ok s1 ∧ P s1 = true := by
  have e : s.sendPacket src dst die k flits = sendWith s src dst die k flits (Config.controlFlits s.tick % 2) := rfl
  have m : Config.controlFlits s.tick % 2 ∈ [0, 1] := by simp; omega
  have := List.all_eq_true.mp h _ m
  rw [e]
  split at this
  · exact ⟨_, ‹_›, this⟩
  · cases this
/-- The packet of so many bytes leaves, whichever its flits and the others are, and the state behind it meets `P`. -/
theorem sent_of (s : State) (src dst die k bytes : Nat) (P : State → Bool)
    (h : ([0, 1].all fun c => [0, 1].all fun f => match sendWith s src dst die k ((bytes + 16 + 55) / 56 + f) c with
      | .ok s1 => P s1
      | _ => false) = true) : ∃ s1, s.sendPacket src dst die k (packetFlits bytes) = .ok s1 ∧ P s1 = true := by
  have m : Config.headerFlits bytes % 2 ∈ [0, 1] := by simp; omega
  exact flits_of s src dst die k (packetFlits bytes) P (List.all_eq_true.mpr fun c hc =>
    List.all_eq_true.mp (List.all_eq_true.mp h c hc) _ m)

/-- A request of the second lane on its way to package 1, at its home, and with its response. -/
def req (kind : ReqKind) (st : ReqState) : Request :=
  { id := 0, team := 0x40, split := 0, core := 0, ctx := 0, dst := 4, issued := 0, kind := kind, width := 4, reg := .v 8
    line := 2 ^ 32, lanes := [⟨1, 0x40000030, 2 ^ 39 + 48, 0, 7⟩], state := st, outs := [(1, some [7])] }
def asking (r : Request) (fenced : Bool) : State :=
  let t := team1 memS
  { remote with
    dies := [{ id := 0, tlb := [tlb0], requests := [r] }, { id := 4, fenced := fenced }]
    teams := [{ t with splits := [{ mask := 2, pc := 0x40, wait := .scoreboard, op := some (.rld rldOp), block := .reply none none [] }] }] }
theorem takesTrap_of {s : State} {t : Team} {x : Split} {label : Pc}
    (h : (decide (t.split? x.id = some x) && x.trap.isNone && decide (t.entry.trap = some label) && !t.inHandler &&
      t.held.isEmpty && !s.xshufArrival (t.landSplit x.id) x) = true) : TakesTrap s t x label := by
  simp only [Bool.and_eq_true, decide_eq_true_eq, Option.isNone_iff_eq_none, Bool.not_eq_true', List.isEmpty_iff] at h
  exact ⟨h.1.1.1.1.1, h.1.1.1.1.2, h.1.1.1.2, ⟨h.1.1.2, h.1.2⟩, h.2⟩
def calm (s : State) : Bool := canonical s && s.wrongReplies.isEmpty && s.wrongWrites.isEmpty && s.poison.isEmpty && s.badReplies.isEmpty

theorem calm_of {s : State} (h : (calm s && s.dies.all fun d => !d.fenced) = true) :
    NoFence s ∧ Canonical s ∧ NothingWrong s ∧ s.poison = [] ∧ s.badReplies = [] := by
  simp only [calm, Bool.and_eq_true, List.isEmpty_iff] at h
  obtain ⟨⟨⟨⟨⟨h1, h2⟩, h3⟩, h4⟩, h5⟩, h6⟩ := h
  exact ⟨noFence_all h6, canonical_of h1, ⟨h2, h3⟩, h4, h5⟩
def asks : Split := { mask := 2, pc := 0x40, wait := .scoreboard, op := some (.rld rldOp), block := .reply none none [] }
def awaitsB (s : State) (r : Request) (t : Team) : Bool :=
  decide (t.dieNo = 0) && decide (t.split? r.split = some asks) && decide ((s.die 0).requestsOf r.team r.split = [r])
theorem awaits_of {s : State} {r : Request} {t : Team} (ht : s.team? r.team = some t) (h : awaitsB s r t = true) :
    Awaits s 0 r t asks none := by
  simp only [awaitsB, Bool.and_eq_true, decide_eq_true_eq] at h
  exact ⟨⟨ht, h.1.1⟩, ⟨h.1.2, rfl⟩, rfl, h.2, ⟨rfl, rfl⟩, _, _, _, rfl, rfl⟩
def crossesB (kind : ReqKind) : Bool :=
  let s := asking (req kind .sent) false
  let r := req kind .sent
  (decide (getBy Request.id r.id (s.die 0).requests = some r) && ((s.die 0).packet? r.id).isNone) &&
    !(s.die 0).streamAhead r.lane r.id && !(s.die 0).fenced && decide (kind ≠ .read true) &&
    [0, 1].all fun c => [0, 1].all fun f => match sendWith s (0 / 4) (r.dst / 4) r.dst (requestStream r.core) ((r.bytesOut + 16 + 55) / 56 + f) c with
      | .ok s1 => calm s1 && s1.dies.all fun d => !d.fenced
      | _ => false
theorem crosses_of {kind : ReqKind} (h : crossesB kind = true) : ∃ s1,
    Crosses (asking (req kind .sent) false) 0 (req kind .sent) s1 ∧ (req kind .sent).kind ≠ .read true ∧
      NoFence s1 ∧ Canonical s1 ∧ NothingWrong s1 ∧ s1.poison = [] ∧ s1.badReplies = [] := by
  simp only [crossesB, Bool.and_eq_true, decide_eq_true_eq, Bool.not_eq_true', Option.isNone_iff_eq_none] at h
  obtain ⟨⟨⟨⟨⟨h1, h2⟩, h3⟩, h4⟩, h5⟩, h6⟩ := h
  obtain ⟨s1, h7, h8⟩ := sent_of (asking (req kind .sent) false) (0 / 4) ((req kind .sent).dst / 4) (req kind .sent).dst
    (requestStream (req kind .sent).core) (req kind .sent).bytesOut
    (fun s => calm s && s.dies.all fun d => !d.fenced) h6
  exact ⟨s1, ⟨⟨h1, h2⟩, ⟨rfl, h3⟩, h4, h7⟩, h5, calm_of h8⟩
theorem witness_RemoteMemoryResults_crosses : ∀ kind ∈ [ReqKind.read false, .atom .add .u, .cas], ∃ s1,
    Crosses (asking (req kind .sent) false) 0 (req kind .sent) s1 ∧ (req kind .sent).kind ≠ .read true ∧
      NoFence s1 ∧ Canonical s1 ∧ NothingWrong s1 ∧ s1.poison = [] ∧ s1.badReplies = [] :=
  fun kind hk => crosses_of (by revert kind; decide +kernel)
def back : Request := req (.read false) .performed
theorem witness_RemoteMemoryResults_returns : ∃ s1 t, Returns (asking back false) 0 back s1 ∧ Awaits s1 0 back t asks none := by
  obtain ⟨s1, h1, h2⟩ := sent_of (asking back false) (back.dst / 4) (0 / 4) 0 (requestStream back.core) back.bytesBack
    (fun s => match s.team? back.team with
      | some t => awaitsB s back t
      | none => false) (by decide +kernel)
  split at h2
  · exact ⟨s1, _, ⟨⟨by decide +kernel, by decide +kernel⟩, ⟨rfl, by decide +kernel⟩, by decide +kernel, h1⟩, awaits_of ‹_› h2⟩
  · cases h2
/-- A request to a fenced die, and one over links that are down. -/
def unheard : State := asking (req (.read false) .sent) true
def severed : State := { unheard with pkgs := [] }
def out : Request := req (.read false) .sent
/-- What both lost requests meet. -/
structure Lost (s : State) : Prop where
  found : getBy Request.id out.id (s.die 0).requests = some out ∧ (s.die 0).packet? out.id = none
  first : (s.die 0).streamAhead out.lane out.id = false ∧ (s.die 0).fenced = false
  waits : ∃ t, Awaits s 0 out t asks none ∧ TakesTrap s t asks 0x100
theorem lost_fenced : Lost unheard :=
  ⟨⟨by decide +kernel, by decide +kernel⟩, ⟨by decide +kernel, by decide +kernel⟩, _,
    awaits_of (get_some (by decide +kernel)) (by decide +kernel), takesTrap_of (by decide +kernel)⟩
theorem lost_severed : Lost severed :=
  ⟨⟨by decide +kernel, by decide +kernel⟩, ⟨by decide +kernel, by decide +kernel⟩, _,
    awaits_of (get_some (by decide +kernel)) (by decide +kernel), takesTrap_of (by decide +kernel)⟩
theorem witness_RemoteMemoryResults_lost : (Lost unheard ∧ ∃ s1,
      unheard.sendPacket (0 / 4) (out.dst / 4) out.dst (requestStream out.core) (packetFlits out.bytesOut) = .ok s1 ∧
      (s1.die out.dst).fenced = true) ∧
    Lost severed ∧ severed.reachable out.core out.dst = false ∧ out.dst / 4 ≠ 0 / 4 ∧ out.core / 512 = 0 / 4 := by
  refine ⟨⟨lost_fenced, ?_⟩, lost_severed, by decide +kernel, by decide, by decide⟩
  exact sent_of unheard (0 / 4) (out.dst / 4) out.dst (requestStream out.core) out.bytesOut (fun s => (s.die out.dst).fenced)
    (by decide +kernel)

theorem witness_RemoteMemoryResults_blotters :
    (∀ s ∈ [true, false].map fun b => if b then ev else open1, ∃ e, (Instr.bflush hd).wf = true ∧ Issues (.bflush hd) s e ∧
      (Instr.bflushWait hd).wf = true ∧ Issues (.bflushWait hd) s e ∧
      ((s.die e.t.dieNo).blotters.map BlotterSlot.slot).Nodup) ∧
    ev.outstanding (exOf (.bflushWait hd) ev).t.key 0 = [] ∧
    (∃ q ∈ open1.outstanding (exOf (.bflushWait hd) open1).t.key 0, q.1.byLane = true ∧
      q.1.entered < (exOf (.bflushWait hd) open1).x.issuedAt) ∧
    ∀ n ∈ [0, 3, 6], Meets false (.bstat (pl hd (.v 1) .imm .zero .zero n)) ev := by
  refine ⟨?_, by decide +kernel, by decide +kernel,
    fun n hn => meets_of (by revert n; decide +kernel)⟩
  intro s hs
  simp only [List.map_cons, List.map_nil, List.mem_cons, List.not_mem_nil, or_false, if_true] at hs
  rcases hs with rfl | rfl
  · exact ⟨exOf (.bflush hd) ev, by decide +kernel, (issues_of (by decide +kernel)).2, by decide +kernel,
      (issues_of (i := .bflushWait hd) (by decide +kernel)).2, by decide +kernel⟩
  · exact ⟨exOf (.bflush hd) open1, by decide +kernel, (issues_of (by decide +kernel)).2, by decide +kernel,
      (issues_of (i := .bflushWait hd) (by decide +kernel)).2, by decide +kernel⟩

def elem (k : ElemKind) : Element :=
  { kind := k, addr := 0x6000, va := 0x6000, be := 15, data := 7, team := 0x40, core := 0, lane := 0, pc := 0x40
    rec' := if k = .post then some { ev := { handler := 5 }, poster := 0, seq := 0 } else none }
def bslot (push : Bool) : BlotterSlot := { slot := 3, ctx := 0, dst := 1, elems := [elem .store], since := 0, push := push }
def slots1 (push : Bool) : State := { ev with dies := [{ id := 0, tlb := [tlb0], blotters := [bslot push] }] }
def resent : State := { ev with dies := [{ id := 0, resend := [bslot false] }] }
def pkt (k : ElemKind) (st : Option (List Nat)) : Packet := { id := 0, order := 0, slot := 3, ctx := 0, dst := 1, elems := [elem k], status := st }
/-- A packet to die 1, whose context may keep `share` records near. -/
def flight (share : Nat) (k : ElemKind) (st : Option (List Nat)) : State :=
  { ev with
    dies := [{ id := 0, packets := [pkt k st], nextPacket := 1 }]
    ctxDies := [{ ctx := 0, die := 1, share := share }]
    ctxs := [{ ctxOf ev with control := { deepLim := 0 } }] }
def cx (s : State) : Ctx := (s.ctx? 0).getD ctx0

theorem arriving_of (share : Nat) (k : ElemKind) : Arriving (flight share k none) 0 (pkt k none) (cx (flight share k none)) := by
  refine ⟨?_, rfl, ⟨rfl, rfl, rfl⟩, ?_, (fun b hb => nomatch hb), by simp [pkt], ⟨rfl, rfl⟩⟩ <;>
  · intro q hq h
    have hq : q = pkt k none := List.mem_singleton.mp hq
    subst hq
    exact absurd h (Nat.lt_irrefl _)

theorem witness_PacketsTravel :
    (let s := slots1 true; let d := s.die 0; getBy BlotterSlot.slot 3 d.blotters = some (bslot true) ∧ d.fenced = false ∧
      d.packets = [] ∧ d.resend = []) ∧
    (let d := resent.die 0; d.resend.find? (fun r => r.slot == 3) = some (bslot false) ∧ d.fenced = false ∧ d.packets = []) ∧
    (let s := slots1 false; getBy BlotterSlot.slot 3 (s.die 0).blotters = some (bslot false) ∧ (s.die 0).fenced = false ∧
      s.ctx? 0 = some (cx s)) ∧
    (∀ k ∈ [ElemKind.store, .reduction], Arriving (flight 0 k none) 0 (pkt k none) (cx (flight 0 k none)) ∧
      (pkt k none).elems = [elem k] ∧ (elem k).kind = k ∧ NoFence (flight 0 k none) ∧ Canonical (flight 0 k none) ∧
      (flight 0 k none).poison = [] ∧ (flight 0 k none).wrongWrites = []) ∧
    (∀ share ∈ [0, 65536], Arriving (flight share .post none) 0 (pkt .post none) (cx (flight share .post none)) ∧
      (elem .post).rec'.isSome = true ∧ ((cx (flight share .post none)).handler? 5).isSome = true ∧
      (let d := (flight share .post none).ctxDie 0 1;
        decide (d.share + (cx (flight share .post none)).control.deepLim * 65536 < d.held + 65536)) = (share == 0)) ∧
    ∀ codes ∈ [[0], [1], [codePoison]], let s := flight 0 .store (some codes)
      getBy Packet.id 0 (s.die 0).packets = some (pkt .store (some codes)) ∧ (pkt .store (some codes)).needs = none ∧
      codes.length = (pkt .store (some codes)).elems.length ∧ (pkt .store (some codes)).id < (s.die 0).nextPacket ∧
      (pkt .store (some codes)).dst / 4 = 0 / 4 ∧ (s.die 0).fenced = false ∧
      (∀ q ∈ (s.die 0).packets, (pkt .store (some codes)).ackAt ≤ q.ackAt) ∧ ∃ t, Working s 0x40 t := by
  refine ⟨⟨rfl, rfl, rfl, rfl⟩, ⟨rfl, rfl, rfl⟩, ⟨rfl, rfl, rfl⟩, ?_, ?_, ?_⟩
  · intro k hk
    simp only [List.mem_cons, List.not_mem_nil, or_false] at hk
    rcases hk with rfl | rfl <;>
      exact ⟨arriving_of _ _, rfl, rfl, noFence_all rfl, canonical_of (by decide +kernel), rfl, rfl⟩
  · intro n hn
    simp only [List.mem_cons, List.not_mem_nil, or_false] at hn
    rcases hn with rfl | rfl <;> exact ⟨arriving_of _ _, rfl, by decide +kernel, by decide +kernel⟩
  · intro codes hc
    simp only [List.mem_cons, List.not_mem_nil, or_false] at hc
    rcases hc with rfl | rfl | rfl <;>
      exact ⟨rfl, rfl, rfl, by decide, rfl, rfl, by decide +kernel, _, get_some (by decide +kernel),
        { mask := 3, pc := 0x40 }, by decide +kernel, rfl, fun z => by simp⟩

/-- A store's packet writes its bytes at the home; a refused post is kept to be sent again (R393, R395). -/
theorem test_packets :
    ((run (.packetArrival 0 0) (flight 0 .store none)).mem.read 0x6000 5 == [7, 0, 0, 0, 0] &&
      ((run (.packetAck 0 0) (run (.packetArrival 0 0) (flight 0 .post none))).die 0).resend.map (fun b => b.slot) == [3]) =
      true := by decide +kernel

/-! ### Routes, system registers, translation -/

/-- Expert 5 with its buffer at 0x10000, tags at 0x11000 and count at 0x12000; each lane asks for it with a row at 0x13000. -/
def rs : State :=
  let image : List Byte := leBytes 8 0x10000 ++ leBytes 8 0x11000 ++ leBytes 8 0x12000 ++ leBytes 2 4 ++ leBytes 2 64 ++
    leBytes 2 0 ++ [1, 0]
  let lane (token : Word) : Lane := ln [(8, 0x13000), (9, 5), (10, 0x3F800000), (11, token)]
  { gst { tm [lane 70, lane 71] with s := (Vector.replicate 64 0).set 30 16 } with
    ctxs := [{ ctx0 with routes := [⟨5, image⟩] }] }
def routeOp (c : Operand) : PlainOp := ⟨hd, .v 20, .v 8, .zero, c, if c = .zero then 0 else 1⟩
def routed (c : Operand) : Ex1 := exOf (.route (routeOp c)) rs
def token0 : RouteToken :=
  { lane := 0, row := 0x13000, expert := 5, choice := 0, buf := 0x10000, tags := 0x11000, count := 0x12000, rowb := 64
    dpkg := 0, index := 0, token := 70, weight := 0x3F800000 }
def command : RouteCmd :=
  { id := 0, team := 0x40, teamId := 0x40, core := 0, ctx := 0, pc := 0x40, gate := none, compl := some 16, value := 1
    packets := [⟨5, 0, [token0]⟩] }
/-- The command on its way. -/
def routing : State := { rs with dies := [{ id := 0, tlb := [tlb0], routes := [command], nextRoute := 1 }] }

def reachedBytes (s : State) (kind : AccKind) (a n : Nat) : List Nat := match (s.farBytes command.asCmd kind a n).2 with
  | .ok l => l
  | .error _ => []
theorem reached_of {s : State} {kind : AccKind} {a n : Nat} (h : reachedBytes s kind a n ≠ []) :
    s.farBytes command.asCmd kind a n = ((s.farBytes command.asCmd kind a n).1, .ok (reachedBytes s kind a n)) := by
  revert h
  unfold reachedBytes
  generalize s.farBytes command.asCmd kind a n = r
  obtain ⟨s1, l⟩ := r
  intro h
  cases l <;> simp_all
def reachedPieces (s : State) (kind : AccKind) (l : List (Nat × Nat)) : List (Nat × Nat) := match (s.farPieces command.asCmd kind l).2 with
  | .ok l => l
  | .error _ => []
theorem pieces_of {s : State} {kind : AccKind} {l : List (Nat × Nat)} (h : reachedPieces s kind l ≠ []) :
    s.farPieces command.asCmd kind l = ((s.farPieces command.asCmd kind l).1, .ok (reachedPieces s kind l)) := by
  revert h
  unfold reachedPieces
  generalize s.farPieces command.asCmd kind l = r
  obtain ⟨s1, l⟩ := r
  intro h
  cases l <;> simp_all
/-- The access fails, with its code and address. -/
def failsAt (s : State) (kind : AccKind) (a n : Nat) : Option (Nat × Nat) := match (s.farBytes command.asCmd kind a n).2 with
  | .error (.failed code va) => some (code, va)
  | _ => none
theorem fails_of {s : State} {kind : AccKind} {a n code va : Nat} (h : failsAt s kind a n = some (code, va)) :
    s.farBytes command.asCmd kind a n = ((s.farBytes command.asCmd kind a n).1, .error (.failed code va)) := by
  revert h
  unfold failsAt
  generalize s.farBytes command.asCmd kind a n = r
  obtain ⟨s1, l⟩ := r
  intro h
  split at h <;> simp_all
theorem none_of {α β : Type} {r : α × Option β} (h : r.2.isNone = true) : r = (r.1, none) :=
  Prod.ext rfl (Option.isNone_iff_eq_none.mp h)
theorem nil_of {α β : Type} {r : α × List β} (h : r.2.isEmpty = true) : r = (r.1, []) :=
  Prod.ext rfl (List.isEmpty_iff.mp h)

theorem witness_RoutesPlaceTokens_issue : ∀ c ∈ [Operand.zero, .s 30], (Instr.route (routeOp c)).wf = true ∧
    Issues (.route (routeOp c)) rs (routed c) ∧ rs.ctx? (routed c).t.ctx = some (ctxOf rs) ∧ (routed c).x.block = .none ∧
    (∀ l ∈ asked (routed c) (routeOp c), ∀ k ∈ l.experts, ((ctxOf rs).expert? k).isSome = true) ∧
    ∃ s1, rs.routeDenied (routed c).t (ctxOf rs) (asked (routed c) (routeOp c)) = (s1, []) ∧
      (∀ l ∈ asked (routed c) (routeOp c), ∀ k ∈ l.experts, wrongHome (s1.routePages (routed c).t
        ((asked (routed c) (routeOp c)).flatMap (routeAddrs (ctxOf rs)))) (ctxOf rs) k = false) ∧
      (∀ kind ∈ [AccKind.read, .write], rs.pagesToWalk (routed c).t (routed c).x.walked { bytes := 1, kind := kind }
        (((asked (routed c) (routeOp c)).flatMap (routeAddrs (ctxOf rs))).filterMap fun q =>
          if q.1 = kind then some q.2 else none) = []) ∧ ¬EarlierOpen (routed c) ∧ (routed c).t.fenced (routed c).x = false ∧
      (c ≠ .zero → (uword (routed c) c 0).toNat % 4 = 0 ∧ (uword (routed c) c 0).toNat + 4 ≤ (routed c).t.entry.scratch) ∧
      (s1.die (routed c).t.dieNo).routes.length < 64 := by
  intro c hc
  simp only [List.mem_cons, List.not_mem_nil, or_false] at hc
  rcases hc with rfl | rfl <;>
    exact ⟨by decide +kernel, (issues_of (by decide +kernel)).2, by decide +kernel, by decide +kernel, by decide +kernel, _,
      nil_of (by decide +kernel), by decide +kernel, by decide +kernel, by decide +kernel, by decide +kernel,
      by decide +kernel, by decide +kernel⟩

/-- The state behind the first step of `route`, and its command. -/
def taking : State := run (.route (routeOp (.s 30))) rs
def taken : RouteCmd := ((taking.die 0).routes.head?).getD command
def takenAlloc : RouteAlloc := taken.alloc.getD { left := [], experts := [] }
/-- The allocation before it: both lanes name expert 5. -/
def firstAlloc : RouteAlloc :=
  let l := asked (routed (.s 30)) (routeOp (.s 30))
  { left := l, experts := [(5, ⟨0x10000, 0x11000, 0x12000, 4, 64, 0⟩)] }
theorem witness_RoutesPlaceTokens_alloc :
    (∃ e, Issues (.route (routeOp (.s 30))) taking e ∧ e.x.block = .routing taken.id ∧
      (taking.die e.t.dieNo).routes.find? (fun q => q.id == taken.id) = some taken ∧ taken.alloc = some takenAlloc) ∧
    takenAlloc.due = none ∧ taking.ctx? taken.ctx = some (ctxOf rs) ∧ (∃ b f, firstAlloc.due = some b ∧
      (b.experts.find? fun p => p.1 == b.next) = some (b.next, f) ∧ homeDie (pageAddr taken.pages f.count) / 4 = taken.core / 512 ∧
      rs.fencedAt (pageAddr taken.pages f.count) = false ∧ b.choice ≤ 1 ∧
      (rs.allocExpert taken b b.next f (b.naming b.next)).2.isSome = true) ∧ Canonical rs ∧ NothingWrong rs :=
  ⟨⟨exOf (.route (routeOp (.s 30))) taking, (issues_of (by decide +kernel)).2, by decide +kernel, by decide +kernel,
      by decide +kernel⟩, by decide +kernel, by decide +kernel,
    ⟨(firstAlloc.due).get (by decide +kernel), (firstAlloc.experts.head?.map Prod.snd).get (by decide +kernel), get_some _,
      by decide +kernel, by decide +kernel, by decide +kernel, by decide +kernel, by decide +kernel⟩,
    canonical_of (by decide +kernel), rfl, rfl⟩

theorem witness_RoutesPlaceTokens_engine :
    (∃ (s1 s2 s3 : State) (pas : List Nat) (qs ws : List (Nat × Nat)), 0 < token0.rowb ∧
      routing.farBytes command.asCmd .read 0x13000 64 = (s1, .ok pas) ∧ s1.wrongReplies = [] ∧
      (s1.homeBytes pas).1.farPieces command.asCmd .write (linePieces 2 0x10000 64) = (s2, .ok qs) ∧
      (s2.putHome 0 ((Claims.bytesOf qs).zip (s1.homeBytes pas).2)).farPieces command.asCmd .write (linePieces 2 0x11000 16) = (s3, .ok ws)) ∧
    ((∃ s1, routing.farBytes command.asCmd .read (2 ^ 57) 64 = (s1, .error (.failed codeTranslation (2 ^ 57)))) ∧
      ∀ home ∈ [0, 63], ∃ s3 ws, (routing.recordFault (command.fault { token0 with row := 2 ^ 57 } codeTranslation (2 ^ 57)
        home)).farPieces command.asCmd .write (linePieces 2 0x11000 16) = (s3, .ok ws)) ∧
    (∃ s1 l, routing.farPieces command.asCmd .write [(token0.count, 0)] = (s1, .ok l)) ∧
    (∃ s1, State.routeTokens command 0 [token0] routing = (s1, none)) ∧
    ∃ (s1 : State) (t : Team), Canonical s1 ∧ (routing.die 0).routes.find? (fun q => q.id == 0) = some command ∧
      (routing.die 0).fenced = false ∧ command.alloc = none ∧ command.page = none ∧ command.gate = none ∧ command.orphan = none ∧
      (∀ b ∈ (routing.die 0).walks, b.owner ≠ .route command.id) ∧
      State.routeSend command command.packets routing = (s1, none) ∧ Working s1 0x40 t :=
  ⟨⟨_, _, _, _, _, _, by decide, reached_of (by decide +kernel), by decide +kernel, pieces_of (by decide +kernel),
      pieces_of (by decide +kernel)⟩,
    ⟨⟨_, fails_of (by decide +kernel)⟩, fun home h => ⟨_, _, pieces_of (by revert home; decide +kernel)⟩⟩,
    ⟨_, _, pieces_of (by decide +kernel)⟩, ⟨_, none_of (by decide +kernel)⟩,
    ⟨_, _, canonical_of (by decide +kernel), by decide +kernel, by decide +kernel, rfl, rfl, rfl, rfl, by decide +kernel,
      none_of (by decide +kernel), get_some (by decide +kernel), { mask := 3, pc := 0x40 }, by decide +kernel, rfl, fun z => by simp⟩⟩

/-- `route` gives both lanes places of expert 5, counted at the home; the engine writes the tag (R410 to R412). -/
theorem test_route :
    (let s := run (.route (routeOp (.s 30))) taking;
      [vOf s 0 20, vOf s 1 20, BitVec.ofNat 32 (leNat (s.mem.read 0x12000 4))] == [0x50000, 0x50001, 2] &&
      (run (.routeCommandComplete 0 0) routing).mem.read 0x11000 4 == [70, 0, 0, 0]) = true := by decide +kernel

def sy (n : BitVec 8) : PlainOp := pl hd (.v 1) .imm .zero .zero n
def records (l : List FaultRec) : State := { ev with ctxs := [{ ctxOf ev with faultQ := l, lost := true }] }
def rec1 : FaultRec :=
  { code := codeBounds, level := 2, ctx := 0, flags := 0, core := 0, pkg := 0, team := 0x40, slots := 1, pc := 0x40, addr := 7 }
def fl : PlainOp := pl hd (.s 1) (.s 6) .zero .zero 0
/-- The state and the team after a write of bytes, and whether it does not complete at once. -/
def writeState (s : State) (e : Ex1) (va : Nat) (bs : List Byte) : State × Team × Bool :=
  match s.locateGlb e.t.coreNo e.t.ctx va { bytes := bs.length, kind := .write } with
  | (s1, .ok l) =>
    let lines := l.lines s1 e.t { write := true } bs.length
    let c := s1.chargePass (holding e.t e lines) { write := true } [⟨e.low, va, l⟩]
    let w := c.1.writeLoc c.2 false bs l
    let r := w.1.coverPass w.2 (l.bytes bs.length) c.1.badWrites
    (r.1, r.2, l.unreached s1 e.t false true || !entriesB s1 e lines.length)
  | (s1, .error _) => (s1, e.t, true)
def writesOk (s : State) (e : Ex1) (va : Nat) (bs : List Byte) : Bool :=
  firstIssue e && nothingEarlier e &&
    (s.pagesToWalk e.t e.x.walked { bytes := bs.length, kind := .write } [va]).isEmpty && !(writeState s e va bs).2.2
theorem writes_of {s : State} {e : Ex1} {va : Nat} {bs : List Byte} (h : writesOk s e va bs = true) :
    WritesBytes s e va bs (writeState s e va bs).1 (writeState s e va bs).2.1 := by
  simp only [writesOk, Bool.and_eq_true, List.isEmpty_iff, Bool.not_eq_true'] at h
  obtain ⟨⟨⟨h2, h3⟩, h4⟩, h⟩ := h
  refine ⟨firstIssue_of h2, nothingEarlier_of h3, h4, ?_⟩
  revert h
  unfold writeState
  generalize s.locateGlb e.t.coreNo e.t.ctx va { bytes := bs.length, kind := .write } = r
  obtain ⟨s1, l⟩ := r
  intro h
  cases l with
  | error d => simp at h
  | ok l =>
    simp only [Bool.or_eq_false_iff, Bool.not_eq_false'] at h
    exact ⟨s1, l, rfl, h.1, entries_of h.2, rfl⟩

theorem witness_SystemRegistersAndFaultQueue :
    (∀ n ∈ [0, 1, 7, 8, 9], Meets false (.rdsr (sy n)) ev) ∧
    (∀ n ∈ [Operand.zero, .imm], Meets false (.wrsr (pl hd .zero n (.k 1) .zero 0)) ev) ∧
    (∀ n ∈ [1, 8, 9], Meets false (.wrsr (pl hd .zero .imm (.k 1) .zero n)) ev) ∧
    (∀ n ∈ [0, 4, 5, 6], Meets false (.rdbudget (sy n)) ev) ∧ (∀ n ∈ [0, 1, 2, 3], Meets false (.clock (sy n)) ev) ∧
    ∀ l ∈ [[], [rec1]], let s := records l; let e := exOf (.fltrd fl) s
      (Instr.fltrd fl).wf = true ∧ Issues (.fltrd fl) s e ∧ s.ctx? e.t.ctx = some (ctxOf s) ∧ upair e (.s 6) 0 = 0x5000 ∧
      (ctxOf s).faultQ = l ∧ ∀ r ∈ l, ∃ s1 t c1, WritesBytes s e 0x5000 (recordBytes r) s1 t ∧ s1.ctx? e.t.ctx = some c1 := by
  refine ⟨fun n hn => meets_of (by revert n; decide +kernel), fun n hn => meets_of (by revert n; decide +kernel),
    fun n hn => meets_of (by revert n; decide +kernel), fun n hn => meets_of (by revert n; decide +kernel),
    fun n hn => meets_of (by revert n; decide +kernel), ?_⟩
  intro l hl
  simp only [List.mem_cons, List.not_mem_nil, or_false] at hl
  rcases hl with rfl | rfl <;>
    refine ⟨by decide +kernel, (issues_of (by decide +kernel)).2, by decide +kernel, by decide +kernel, by decide +kernel, ?_⟩
  · exact fun r hr => absurd hr List.not_mem_nil
  · intro r hr
    rw [List.mem_singleton.mp hr]
    exact ⟨_, _, ctxOf (records [rec1]), writes_of (by decide +kernel), by decide +kernel⟩

/-- The oldest record leaves the queue with its count and the lost mark, which is cleared (R345). -/
theorem test_fltrd :
    (let s := run (.fltrd fl) (records [rec1]);
      sOf s 1 == 0x80000001 && (ctxOf s).faultQ.isEmpty && !(ctxOf s).lost &&
        (run (.cctlWb (pl hd .zero (.s 6) (.s 2) .zero)) (rewind s)).mem.read 0x5000 2 == [BitVec.ofNat 8 codeBounds, 2]) =
      true := by decide +kernel

def pteAt (pte : Nat) : State := { State.reset with mem := Mem.write [] 0x1000 (leBytes 8 pte) }
def waitsFor : Cause := { code := codeTranslation, level := 2, pc := 0x40, j2 := 3, j3 := 4, addr := 0x5008 }
def pageWait : Split := { mask := 3, pc := 0x40, wait := .fault, block := .page .read waitsFor [(0, 0x5000, 0x5008)] }
def held1 : Split := { mask := 3, pc := 0x40, wait := .fault, block := .held waitsFor [] }
def waitsPage : State := let t := team1 memS; { memS with teams := [{ t with splits := [pageWait] }] }
def heldS : State := let t := team1 memS; { memS with teams := [{ t with splits := [held1], held := [0] }] }
/-- A batch of walks, and a die that holds it and no translation. -/
def batch (n : Nat) : WalkBatch :=
  { owner := .split 0x40 0, core := 0, ctx := 0, kind := .read, since := 0, pages := List.replicate n (5, false) }
def untranslated (l : List WalkBatch) : State := { memS with dies := [{ id := 0, walks := l }] }
def walkWait : Split := { mask := 3, pc := 0x40, wait := .scoreboard, block := .walks }
def walking : State := let t := team1 memS; { untranslated [batch 1] with teams := [{ t with splits := [walkWait] }] }
def loadPages (s : State) : List Nat :=
  let e := exOf (.ld glbLoad) s
  s.pagesToWalk e.t e.x.walked glbNeed ((if memUniform glbLoad then [e.low] else e.slots).map (memAddr e.t glbLoad true))
theorem walked_of {s : State} {va : Nat}
    (h : (match (s.walk 0 0 va .read).result with | .ok _ _ _ => true | _ => false) = true) :
    ∃ pa level pte, (s.walk 0 0 va .read).result = .ok pa level pte := by
  revert h
  generalize (s.walk 0 0 va .read).result = w
  intro h
  cases w with
  | ok pa level pte => exact ⟨pa, level, pte, rfl⟩
  | _ => simp at h

/-- Entries that are malformed and entries that are not; an entry of the walk cache; one whose die is fenced. -/
theorem witness_TranslationAndHeldTraps_entries :
    (∀ p ∈ [(0x80, false), (0x1000000000000, false), (0x40, true), (0x10, true), (0x50, true), (0x13, true), (0x15, true),
        (0x19, true), (0x51, true), (0x2001, true)], leNat ((pteAt p.1).mem.read (0x1000 + 8 * (0 / (4096 * 512 ^ 1) % 512)) 8) = p.1 ∧
      (pteAt p.1).fencedAt 0x1000 = false ∧
      (BitVec.extractLsb' 7 5 (BitVec.ofNat 64 p.1) = 0 ∧ BitVec.extractLsb' 48 16 (BitVec.ofNat 64 p.1) = 0 ∧
        (BitVec.ofNat 64 p.1).getLsbD 5 = false ↔ p.2 = true)) ∧
    State.fencedAt { pteAt 0x40 with dies := [{ id := 0, fenced := true }] } 0x1000 = true ∧ (pteAt 0x40).wrongReplies = [] :=
  ⟨by decide +kernel, by decide +kernel, rfl⟩

/-- An access whose page no TLB holds, with room in the queue and without; batches to serve, one of them aged; a walk. -/
theorem witness_TranslationAndHeldTraps_walks :
    (Instr.ld glbLoad, true, glbNeed) ∈ accessForms glbLoad ∧
    (∀ l ∈ [[], [batch 2048]], (Instr.ld glbLoad).wf = true ∧ Issues (.ld glbLoad) (untranslated l) (exOf (.ld glbLoad) (untranslated l)) ∧
      FirstIssue (exOf (.ld glbLoad) (untranslated l)) ∧ (exOf (.ld glbLoad) (untranslated l)).x.src = [] ∧ glbLoad.space = .glb ∧ loadPages (untranslated l) ≠ [] ∧
      (∀ k < 128, (untranslated l).reservation (0 * 128 + k) = none) ∧
      (((untranslated l).die 0).walkRequests + (loadPages (untranslated l)).length ≤ 2048 ↔ l = [])) ∧
    (∀ now ∈ [0, 2 ^ 17], (nextBatch now [batch 2, batch 1]).isSome = true) ∧
    ∃ t, (walking.die 0).fenced = false ∧ (walking.die 0).walks = [batch 1] ∧ (batch 1).pages = [(5, false)] ∧
      (∃ pa level pte, (walking.walk 0 0 (4096 * 5) .read).result = .ok pa level pte) ∧
      (∀ e ∈ walking.tlbs 0, e.ctx ≠ 0) ∧ walking.team? 0x40 = some t ∧ t.split? 0 = some walkWait ∧ walkWait.block = .walks ∧
      (t.splits.map Split.id).Nodup := by
  refine ⟨by decide, ?_, by decide +kernel, _, by decide +kernel, by decide +kernel, rfl, walked_of (by decide +kernel),
    by decide +kernel, get_some (by decide +kernel), by decide +kernel, rfl, by decide +kernel⟩
  intro l hl
  simp only [List.mem_cons, List.not_mem_nil, or_false] at hl
  rcases hl with rfl | rfl <;>
    exact ⟨by decide +kernel, (issues_of (by decide +kernel)).2, firstIssue_of (by decide +kernel), by decide +kernel, rfl,
      by decide +kernel, by decide +kernel, by decide +kernel⟩

theorem witness_TranslationAndHeldTraps :
    (∃ t, NoFence waitsPage ∧ Canonical waitsPage ∧ waitsPage.wrongWrites = [] ∧ (∀ u ∈ waitsPage.teams, u.constLoaded = true) ∧
      waitsPage.team? 0x40 = some t ∧ t.split? 0 = some pageWait ∧ t.ctx = 0 ∧
      WaitsOn pageWait 0x5FFF .read waitsFor [(0, 0x5000, 0x5008)]) ∧
    (∃ t, waitsPage.teams = [t] ∧ t.ctx = 0 ∧ t.constLoaded = true ∧ Lone t pageWait 0x100) ∧
    (∀ d < 4, cached.spanElements d 0 0 4095 = false) ∧
    ∃ t, heldS.team? 0x40 = some t ∧ t.inHandler = false ∧ t.held = [0] ∧ t.entry.trap = some 0x100 ∧
      t.split? 0 = some held1 ∧ waitsFor.code ≠ codeWplaneLost :=
  ⟨⟨_, noFence_all (by decide +kernel), canonical_of (by decide +kernel), rfl, by decide +kernel, get_some (by decide +kernel),
      by decide +kernel, by decide +kernel, rfl, rfl, _, List.mem_singleton.mpr rfl, rfl⟩,
    ⟨_, rfl, by decide +kernel, by decide +kernel, lone_of _ _ _ (by decide +kernel)⟩,
    by decide +kernel,
    ⟨_, get_some (by decide +kernel), by decide +kernel, by decide +kernel, by decide +kernel, by decide +kernel, by decide⟩⟩

/-- A walk that ends fills the TLBs and wakes the split that waited for it (R261, R262). -/
theorem test_walkComplete :
    (let s := run (.walkComplete 0 0 0x5000 .read) walking;
      (split1 s).wait == .ready && (s.die 0).walks.isEmpty && (s.core 0).tlb.map (fun e => e.level) == [2]) = true := by
  decide +kernel

/-! ### Distributors -/

def ev1 (time : DWord) : EvRec := { time := time, handler := 5 }
def pr1 : PRec := { ev := ev1 7, poster := 0, seq := 0 }
def cxd : Ctx := { ctx0 with handlers := [⟨5, true, { en with planes := 0 }⟩], control := { stop := 0xFFFF, lookahead := 3, hold := false } }
def dies2 (l : List Nat) : Ctx := { cxd with places := [(0, l)] }
/-- Records pending or binned on a die; no team runs. -/
def dd (c : Ctx) (l : List CtxDie) : State := { gst {} with teams := [], ctxs := [c], ctxDies := l }
def reportS : State := dd (dies2 [1]) [{ ctx := 0, die := 1, pending := [pr1] }]
def binS : State := dd cxd [{ ctx := 0, die := 0, bins := [⟨5, [pr1], 2⟩], h := 100 }]
def stealS : State := dd (dies2 [0, 1]) [{ ctx := 0, die := 0, h := 100 }, { ctx := 0, die := 1, pending := [pr1], h := 100 }]
def formed1 : Formed :=
  { ctx := 0, handler := 5, entry := { en with planes := 0 }, prio := 1, lanes := [⟨ev1 7, 3, 0, 0⟩], order := 2 }
def placeS : State := { dd cxd [] with dies := [{ id := 0, formed := [formed1] }] }
def lrec : LaunchRec :=
  { launchRec [] 0x4080 with entry := { en with planes := 0 }, counts := [2, 1, 1], teams := 2 }
def launch1 : Launch := { id := 7, ctx := 0, pkg := 0, rec' := lrec, x := 2, y := 1, z := 1, parts := [(0, 0, 2)] }
def gangS : State := { dd cxd [] with launches := [launch1] }
def queueS : State :=
  { dd cxd [] with ctxPkgs := [{ ctx := 0, pkg := 0, queues := [(1, [⟨lrec, false, none⟩])] }] }

theorem ready_of {s : State} {recs : List PRec} (h : (decide (s.ctx? 0 = some cxd) && (!(s.ctxPkg 0 0).switchedOut &&
    !(s.die 0).fenced) && decide (s.heldEvids 0 0 = [] ∧ recs.length ≤ 2 ^ 30) &&
    recs.all (fun r => eligibleBase cxd (s.ctxDie 0 0) r)) = true) : Ready s cxd 0 recs := by
  simp only [Bool.and_eq_true, decide_eq_true_eq, Bool.not_eq_true', List.all_eq_true] at h
  obtain ⟨⟨⟨h1, h2, h3⟩, room⟩, h6⟩ := h
  exact ⟨⟨rfl, h2, h3, by decide +kernel⟩, h1, room, h6⟩
def eventOf (s : State) : Option (Formed × Nat) := match s.nextWork 0 with
  | some (.event f c) => some (f, c)
  | _ => none
theorem event_of {s : State} {f : Formed} {c : Nat} (h : eventOf s = some (f, c)) : s.nextWork 0 = some (.event f c) := by
  revert h
  unfold eventOf
  cases s.nextWork 0 with
  | none => simp
  | some w => cases w <;> simp
def nextGang (s : State) : Option (Launch × Nat × Nat × List Nat) := match s.nextWork 0 with
  | some (.gang l i k cs) => some (l, i, k, cs)
  | _ => none
theorem nextGang_of {s : State} {l : Launch} {i k : Nat} {cs : List Nat} (h : nextGang s = some (l, i, k, cs)) :
    s.nextWork 0 = some (.gang l i k cs) := by
  revert h
  unfold nextGang
  cases s.nextWork 0 with
  | none => simp
  | some w => cases w <;> simp

theorem witness_DistributorsDispatch_reports : reportS.ctx? 0 = some (dies2 [1]) ∧ (dies2 [1]).places = [(0, [1])] ∧
    reportS.localTimes 0 1 = [7] ∧ (∀ u ∈ [7], u < 2 ^ 64) ∧ (dies2 [1]).reports = [] ∧ (reportS.ctxDie 0 1).reported = none :=
  ⟨by decide +kernel, rfl, by decide +kernel, by decide, rfl, by decide +kernel⟩
theorem witness_DistributorsDispatch_bins : Ready binS cxd 0 [pr1] ∧ (cxd.handler? 5).isSome = true ∧
    (binS.ctxDie 0 0).bins = [⟨5, [pr1], 2⟩] ∧ (binS.ctxDie 0 0).pending = [] :=
  ⟨ready_of (by decide +kernel), by decide +kernel, by decide +kernel, by decide +kernel⟩
theorem witness_DistributorsDispatch_steal : Ready stealS (dies2 [0, 1]) 0 [] ∧ (stealS.ctxDie 0 0).bins = [] ∧
    (stealS.ctxDie 0 0).pending = [] ∧ 0 < 2 ^ 32 / (dies2 [0, 1]).dies.length ∧ stealS.coreCount 0 < 32 ∧
    (dies2 [0, 1]).dies.filter (fun k => k != 0 && k / 4 == 0 && !(stealS.die k).fenced) = [1] ∧
    stealS.stealable (dies2 [0, 1]) 0 1 = [pr1] ∧
    ∃ e, (dies2 [0, 1]).handler? pr1.ev.handler = some e ∧ 1 ≤ e.coalesce :=
  ⟨⟨⟨rfl, by decide +kernel, by decide +kernel, by decide +kernel⟩, by decide +kernel,
      ⟨List.isEmpty_iff.mp (by decide +kernel), by decide +kernel⟩, fun r hr => nomatch hr⟩, by decide +kernel,
    by decide +kernel, by decide +kernel, by decide +kernel, by decide +kernel, by decide +kernel,
    { en with planes := 0 }, by decide +kernel, by decide⟩
theorem witness_DistributorsDispatch_events : ∃ (f : Formed) (core : Nat), placeS.nextWork 0 = some (.event f core) ∧ f.entry.constw = 0 ∧
    core = 0 ∧ placeS.team? (placeS.pkg 0).nextTeam.toNat = none :=
  ⟨formed1, 0, event_of (by decide +kernel), rfl, rfl, Option.isNone_iff_eq_none.mp (by decide +kernel)⟩
theorem witness_DistributorsDispatch_gangs : ∃ (l : Launch) (index cluster : Nat) (cores : List Nat),
    gangS.nextWork 0 = some (.gang l index cluster cores) ∧ l.rec'.entry.constw = 0 ∧ (∀ c ∈ cores, c / 512 = 0) ∧
    cores.length = 2 ∧ l.rec'.teams = 2 ∧ (gangS.pkg 0).nextTeam.toNat + 2 < 2 ^ 32 ∧
    ∀ j < 2, gangS.team? ((gangS.pkg 0).nextTeam + BitVec.ofNat 32 j).toNat = none :=
  ⟨launch1, 0, 0, [0, 0], nextGang_of (by decide +kernel), rfl, by decide, rfl, rfl, by decide +kernel, fun j hj =>
    Option.isNone_iff_eq_none.mp (by revert j; decide +kernel)⟩
theorem witness_DistributorsDispatch_launches : (queueS.pkg 0).electing = false ∧
    queueS.nextQueue 0 = some (cxd, 1, ⟨lrec, false, none⟩) ∧ lrec.counts = [2, 1, 1] :=
  ⟨by decide +kernel, by decide +kernel, rfl⟩

/-- Two gangs of two teams: the first is placed on one core, ranks and %evid in order (R224, R326, R327). -/
theorem test_gang_is_placed :
    (let s := run (.gangPlace 0) (run (.launchDequeue 0) queueS);
      (s.teams.map fun t => (t.core, t.rank)) == [(0, 0), (0, 1)] &&
        (s.teams.map fun t => (t.lane 3).evid) == [3, 7]) = true := by decide +kernel

/-! ### Pre-emption, energy, contexts -/

/-- A team with a pre-emption label that no request has reached, or that has been asked. -/
def labelled (l : Option Pc) (p : Option PreemptState) (st : TeamStatus) : State :=
  { one with
    teams := [{ team1 one with entry := { en with preempt := l, planes := 0 }, preempt := p, status := st }]
    ctxs := [{ ctx0 with deadline := 9 }] }
def asked2 : PreemptState := { due := 9, cycles := 9 }
def oneTeam (s : State) : Prop := ∀ t ∈ s.teams, t = team1 s
theorem one_team (l : Option Pc) (p : Option PreemptState) (st : TeamStatus) : oneTeam (labelled l p st) :=
  fun _ ht => List.mem_singleton.mp ht

theorem witness_TeamsAreSavedAndRestored_requests :
    (let s := labelled (some 0x200) none .resident; (∃ t, s.team? 0x40 = some t ∧ t.preempt = none ∧ t.status = .resident ∧
      t.entry.preempt.isSome = true ∧ ∃ c, s.ctx? t.ctx = some c) ∧ (s.teams.map Team.key).Nodup ∧ oneTeam s) ∧
    (let s := labelled none none .resident; ∃ t, s.team? 0x40 = some t ∧ t.preempt = none ∧ t.status = .resident ∧
      t.entry.preempt = none ∧ Savable s t) ∧
    (let s : State := { labelled none none .resident with dies := [{ id := 0, routes := [command] }] };
      ∃ t, s.team? 0x40 = some t ∧ t.preempt = none ∧ t.status = .resident ∧ t.entry.preempt = none ∧ t.gang = none ∧
        s.quiet t = false) ∧
    (let s := labelled (some 0x200) (some asked2) .resident; ∃ t, s.team? 0x40 = some t ∧ Deliverable s t asked2 0x200 ∧
      LowestPc t 0x40 ∧ (t.splits.map Split.id).Nodup ∧ Savable s t ∧ ∃ c, s.ctx? t.ctx = some c) := by
  refine ⟨⟨⟨_, get_some (by decide +kernel), by decide +kernel, by decide +kernel, by decide +kernel, _,
      get_some (by decide +kernel)⟩, by decide +kernel, one_team _ _ _⟩,
    ⟨_, get_some (by decide +kernel), by decide +kernel, by decide +kernel, by decide +kernel,
      savable_one _ _ (by decide +kernel)⟩,
    ⟨_, get_some (by decide +kernel), by decide +kernel, by decide +kernel, by decide +kernel, by decide +kernel,
      by decide +kernel⟩,
    ⟨_, get_some (by decide +kernel), ⟨⟨by decide +kernel, rfl, by decide +kernel⟩, ⟨by decide +kernel, by decide +kernel⟩,
        by decide +kernel, ⟨by decide +kernel, by decide +kernel, by decide +kernel⟩, by decide +kernel⟩,
      ⟨{ mask := 1, pc := 0x40 }, by decide +kernel, rfl, rfl, by decide +kernel⟩, by decide +kernel,
      savable_one _ _ (by decide +kernel), _, get_some (by decide +kernel)⟩⟩

theorem witness_TeamsAreSavedAndRestored_restores :
    (let s := labelled none none .saved; ∃ t c, s.team? 0x40 = some t ∧ s.ctx? t.ctx = some c ∧ t.status = .saved ∧
      t.gang = none ∧ t.constLoaded = true ∧ 5 / 512 = t.pkg ∧ c.dies.contains (5 / 128) = true ∧ c.ended = .running ∧
      (s.ctxPkg t.ctx t.pkg).switchedOut = false ∧ (s.die (5 / 128)).fenced = false ∧
      s.fitsCore 5 t.entry t.lanes.length t.keeps = true ∧ ∀ x ∈ t.splits, x.wait ≠ .fault) ∧
    (let s : State := { one with ctxPkgs := [{ ctx := 0, pkg := 0, switchedOut := true }] }; (s.ctxPkg 0 0).switchedOut = true) ∧
    (one.ctxPkg 0 0).switchedOut = false ∧ (one.teams.map Team.key).Nodup ∧ Savable one (team1 one) ∧ (team1 one).saving = false ∧
    (let s := labelled none none .held; ∃ t, s.team? 0x40 = some t ∧ t.status = .held) :=
  ⟨⟨_, _, get_some (by decide +kernel), get_some (by decide +kernel), by and_intros <;> decide +kernel⟩, by decide +kernel, by decide +kernel, by decide +kernel, savable_one _ _ (by decide +kernel),
    by decide +kernel, ⟨_, get_some (by decide +kernel), by decide +kernel⟩⟩

def alive : Control24 := { powered := true, passed := [1, 2] }
def booted (c : Control24) : State := { ev with pkgs := [{ id := 0, ctl := c, ports := [] }] }
def req0 : CreateReq :=
  { ctx := 9, places := [(0, [1, 2])], oneDomain := true, ptRoot := 0x1000, windows := [(1, 2, 3)], share := 65536, diag := 0
    saveArea := 0, classTable := [], ageNs := 2000, deadline := 75000, allowance := 100 }
def busy : State := { ev with dies := [{ id := 0, routes := [command] }] }

theorem witness_EnergyWindowsAndLimits :
    (∃ c, ev.ctx? 0 = some c ∧ ∃ x ∈ c.places, x.1 = 0) ∧ Alive (booted alive) 0 alive ∧
    (∃ d < 4, (ev.die (0 * 4 + d)).fenced = false) ∧ (ev.ctxs.map Ctx.id).Nodup :=
  ⟨⟨_, get_some (by decide +kernel), (0, [0, 1, 2, 3]), by decide +kernel, rfl⟩, ⟨by decide +kernel, rfl, rfl⟩,
    ⟨0, by decide, by decide +kernel⟩, by decide +kernel⟩

theorem may_create : MayCreate (booted alive) req0 := by
  refine ⟨by decide +kernel, rfl, by decide, by decide, ?_, by decide, ?_, by decide +kernel⟩
  · intro x hx
    rw [List.mem_singleton.mp hx]
    exact ⟨alive, ⟨by decide +kernel, rfl, rfl⟩, by decide⟩
  · intro x _ d _ b n h
    have := List.mem_of_find?_eq_some h
    simp only [req0, List.mem_singleton, Prod.mk.injEq] at this
    obtain ⟨-, rfl, rfl⟩ := this
    exact ⟨by decide, fun y hy _ => .inr (.inl ((by decide +kernel : ∀ y ∈ (booted alive).ctxDies, y.winSize = 0) y hy))⟩

theorem witness_ContextsAreCreatedAndEnded :
    MayCreate (booted alive) req0 ∧ Canonical (booted alive) ∧
    (∃ c, ev.ctx? 0 = some c ∧ c.ended = .running ∧ ev.engineBusy 0 = false) ∧
    ∃ c, busy.ctx? 0 = some c ∧ c.ended = .running ∧ ∃ x ∈ (busy.die 0).routes, x.ctx = 0 ∧ x.alloc = none :=
  ⟨may_create, canonical_of (by decide +kernel),
    ⟨_, get_some (by decide +kernel), by decide +kernel, by decide +kernel⟩,
    ⟨_, get_some (by decide +kernel), by decide +kernel, command, by decide +kernel, rfl, rfl⟩⟩

/-- The save keeps the registers; a new context has HOLD set and its window zeroed bytes (R336, R423). -/
theorem test_save_and_create :
    ((run (.forcedSave 0x40) one |> fun s => ((team1 s).status == .saved, vOf s 0 2)) == (true, 5) &&
      (run (.contextCreate req0) (booted alive) |> fun s => ((s.ctx? 9).map fun c => (c.control.hold, c.control.lookahead),
        (s.ctxDie 9 1).winBase)) == (some (true, 1), 2097152)) = true := by decide +kernel

def bytesAt (s : State) (a n : Nat) : List Byte := match s.hostRead 0 a n with
  | .ok bs => bs
  | .error _ => []
theorem host_of {s : State} {a n : Nat} (h : bytesAt s a n ≠ []) : s.hostRead 0 a n = .ok (bytesAt s a n) := by
  revert h
  unfold bytesAt
  cases s.hostRead 0 a n <;> simp
def stopAt (s : State) (a n : Nat) : Option Denied := match s.hostRead 0 a n with
  | .ok _ => none
  | .error d => some d
theorem stop_of {s : State} {a n : Nat} {d : Denied} (h : stopAt s a n = some d) : s.hostRead 0 a n = .error d := by
  revert h
  unfold stopAt
  cases s.hostRead 0 a n <;> simp
def queueing (s : State) (q : Word) : Word ⊕ LaunchRec := s.checkLaunch 0 0 (bytesAt s 0x4080 128) 0x4080 q
def mayQueue (s : State) : Bool := match queueing s 1 with
  | .inr r => r.prio == 0
  | .inl _ => false
theorem may_queue {s : State} (h : mayQueue s = true) : ∃ r, queueing s 1 = .inr r ∧ r.prio = 0 := by
  revert h
  unfold mayQueue
  cases queueing s 1 with
  | inl j => simp
  | inr r => exact fun h => ⟨r, rfl, eq_of_beq h⟩
def put3 : AdapterReq := { pkg := 0, ctx := 0, va := 0x5000, data := [1, 2, 3], len := 3 }

/-- The driver may queue on package 0: its record is read, and its queue has room or none; a record that is not aligned,
one in a page that is not mapped or is replayable, one that fails the checks. -/
theorem witness_DriverAndAdapterAccesses_launch :
    (∀ n ∈ [0, 64], (∃ c, (qs n).ctx? 0 = some c ∧ c.ended = .running ∧ ∃ x ∈ c.places, x.1 = 0) ∧
      ((qs n).pkg 0).ctl.halted = none ∧ ((qs n).ctxPkg 0 0).hostLaunches = [] ∧ 0x4080 % 128 = 0 ∧
      (qs n).hostRead 0 0x4080 128 = .ok (bytesAt (qs n) 0x4080 128) ∧ (∃ r, queueing (qs n) 1 = .inr r ∧ r.prio = 0) ∧
      (queueOf (qs n) 0 0 1).length = n) ∧
    0x4081 % 128 ≠ 0 ∧ 0x40000000 % 128 = 0 ∧ (∃ code, (qs 0).hostRead 0 0x40000000 128 = .error (.fault code)) ∧
    (∃ va, ({ qs 0 with mem := (qs 0).mem.write 0x3008 (leBytes 8 0x40) } : State).hostRead 0 0x40000000 128 = .error (.replay va)) ∧
    ∃ j2, queueing (qs 0) 4 = .inl j2 := by
  refine ⟨?_, by decide, by decide, ⟨codeTranslation, stop_of (by decide +kernel)⟩, ⟨0x40000000, stop_of (by decide +kernel)⟩, ?_⟩
  · intro n hn
    simp only [List.mem_cons, List.not_mem_nil, or_false] at hn
    rcases hn with rfl | rfl <;>
      exact ⟨⟨_, get_some (by decide +kernel), by decide +kernel, (0, [0, 1, 2, 3]), by decide +kernel, rfl⟩, by decide +kernel,
        by decide +kernel, by decide, host_of (by decide +kernel), may_queue (by decide +kernel), by decide +kernel⟩
  · have h : (match queueing (qs 0) 4 with | .inl _ => true | .inr _ => false) = true := by decide +kernel
    revert h
    cases queueing (qs 0) 4 with
    | inl j => exact fun _ => ⟨j, rfl⟩
    | inr r => simp

theorem access_of {s : State} {va n : Nat} {k : AccKind} {l : List (Nat × Nat × Nat)}
    (h : (match s.hostAccess 0 va n k with | .ok q => q == l | .error _ => false) = true) : s.hostAccess 0 va n k = .ok l := by
  revert h
  cases s.hostAccess 0 va n k <;> simp
theorem witness_DriverAndAdapterAccesses :
    (∃ c, ev.ctx? 0 = some c ∧ ev.hostRead 0 0x5000 (32 * 2) = .ok (bytesAt ev 0x5000 64) ∧ 254 + 2 ≤ 256 ∧
      ∀ i < 2, RouteImage c (((bytesAt ev 0x5000 64).drop (32 * i)).take 32)) ∧
    (NoFence ev ∧ Canonical ev ∧ ev.wrongWrites = [] ∧ put3.data ≠ [] ∧
      ev.hostAccess put3.ctx put3.va put3.data.length .write = .ok [(put3.va, 0x5000, put3.data.length)]) ∧
    ({ put3 with data := [] } : AdapterReq).data = [] ∧
    (∃ c, ev.ctx? 0 = some c ∧ (walkFrom ev (fun _ => true) (fun _ => none) 0x5000 .read 4 c.ptRoot).result = .ok 0x5000 2 0x1F) ∧
      (ev.die (0x5000 / 2 ^ 37)).fenced = false ∧ ∀ k < 3, (0x5000 + k) / 32 ∉ ev.poison := by
  refine ⟨⟨_, get_some (by decide +kernel), host_of (by decide +kernel), by decide, ?_⟩,
    ⟨noFence_all (by decide +kernel), canonical_of (by decide +kernel), rfl, by decide, access_of (by decide +kernel)⟩, rfl,
    ⟨_, get_some (by decide +kernel), by decide +kernel⟩, by decide +kernel, by decide +kernel⟩
  intro i hi
  exact .inl (by revert i; decide +kernel)

/-! ### Links, messages, management -/

def flit (kind : BitVec 2) (seq : BitVec 16) : FlitHeader :=
  { crcOk := true, seq := seq, kind := kind, cls := 0, sop := true, eop := true, valid := 56, rsv28 := 0, ack := 0, nak := false, rsv49 := 0 }
/-- Port 3 of package 0 with SEQ 4 received and SEQ 2 sent. -/
def link (q : Port) : State := { State.reset with pkgs := [{ id := 0, ctl := alive, ports := [q] }] }
def port3 : Port := { no := 3, up := true, goodSeq := 4, sentSeq := 2 }
def linkKey : LinkKey := { key := 1, salt := 2, start := 0 }

def lk2 (tf : Bool) (resends : Nat) : State := link { port3 with tagFailed := tf, resends := resends }
def acked (s : State) (h : FlitHeader) : Port := afterAck h (s.cycle 0) (s.port 0 3)
theorem receives (s : State) (kind : BitVec 2) (n : BitVec 16) (h : (s.port 0 3).up = true ∧ (s.port 0 3).sendStaged = none) :
    Receives s 0 3 (flit kind n) kind :=
  ⟨h.1, rfl, ⟨rfl, show (0 : BitVec 2) ≠ 3 by decide, rfl⟩, rfl, h.2⟩
theorem lk2_up : ∀ tf ∈ [true, false], ∀ r ∈ [0, 14, 15], ((lk2 tf r).port 0 3).up = true ∧ ((lk2 tf r).port 0 3).sendStaged = none := by
  decide +kernel
theorem witness_LinksCarryFlits_received : ∀ tf ∈ [true, false],
    (∀ n ∈ [5, 6], let h := flit 0 (.ofNat 16 n); Receives (lk2 tf 0) 0 3 h 0 ∧ (acked (lk2 tf 0) h).goodSeq = 4 ∧
      (acked (lk2 tf 0) h).recvStaged.isNone = true ∧ (acked (lk2 tf 0) h).tagFailed = tf) ∧
    ∀ k ∈ [1, 2, 3], ∀ n ∈ [4, 5, 6], Receives (lk2 tf 0) 0 3 (flit k n) k := by
  have h : ∀ tf ∈ [true, false], ∀ n ∈ [5, 6], (acked (lk2 tf 0) (flit 0 (.ofNat 16 n))).goodSeq = 4 ∧
      (acked (lk2 tf 0) (flit 0 (.ofNat 16 n))).recvStaged.isNone = true ∧
      (acked (lk2 tf 0) (flit 0 (.ofNat 16 n))).tagFailed = tf := by decide +kernel
  have up : ∀ tf ∈ [true, false], ((lk2 tf 0).port 0 3).up = true ∧ ((lk2 tf 0).port 0 3).sendStaged = none := by decide +kernel
  exact fun tf htf => ⟨fun n hn => ⟨receives (lk2 tf 0) 0 (.ofNat 16 n) (up tf htf), h tf htf n hn⟩,
    fun k _ n _ => receives (lk2 tf 0) k n (up tf htf)⟩
theorem witness_LinksCarryFlits_resends : ∀ r ∈ [14, 15], Receives (lk2 false r) 0 3 (flit 1 4) 1 ∧
    (acked (lk2 false r) (flit 1 4)).goodSeq = 4 ∧ (acked (lk2 false r) (flit 1 4)).resends = r ∧
    (acked (lk2 false r) (flit 1 4)).sentSeq ≠ (acked (lk2 false r) (flit 1 4)).ackSeq := by
  have h : ∀ r ∈ [14, 15], (acked (lk2 false r) (flit 1 4)).goodSeq = 4 ∧ (acked (lk2 false r) (flit 1 4)).resends = r ∧
      (acked (lk2 false r) (flit 1 4)).sentSeq ≠ (acked (lk2 false r) (flit 1 4)).ackSeq := by decide +kernel
  exact fun r hr => ⟨receives (lk2 false r) 1 4 (lk2_up false (by decide) r (List.mem_cons_of_mem _ hr)), h r hr⟩

theorem witness_LinksCarryFlits_rest :
    (∀ r ∈ [14, 15], let q := (link { port3 with resends := r }).port 0 3; q.up = true ∧ q.sentSeq ≠ q.ackSeq ∧ q.resends = r) ∧
    (let s : State := { link port3 with dies := [{ id := 0, packets := [{ pkt .store none with dst := 4 }], nextPacket := 1 }] };
      (∃ d, getBy Die.id 0 s.dies = some d ∧ { pkt .store none with dst := 4 } ∈ d.packets ∧ d.id = 0 ∧
        (∀ x ∈ d.packets, x.id < d.nextPacket)) ∧ (s.port 0 3).up = true) ∧
    (let q := (link { port3 with sent := 2 ^ 63 }).port 0 3; q.sendLow = false ∧ 2 ^ 63 ≤ q.sent.toNat) ∧
    (let q := (link { port3 with received := 2 ^ 63 }).port 0 3; q.sent.toNat < 2 ^ 63 ∧ q.recvLow = false ∧ 2 ^ 63 ≤ q.received.toNat) ∧
    (let q := (link { port3 with sent := 0xFFFFFFFFFFFFFFFE }).port 0 3; q.up = true ∧ 2 ^ 64 - 2 ≤ q.sent.toNat ∧
      q.exhausted = none) ∧
    ((link { port3 with exhausted := some 7 }).port 0 3).exhausted = some 7 ∧
    (let s := link { port3 with up := false }; Alive s 0 alive ∧ 2 ∈ alive.passed ∧ (s.port 0 3).up = false ∧
      (s.port 0 3).enabled = true ∧ (s.die (0 * 4 + 3 / 8)).fenced = false) :=
  ⟨by decide +kernel, ⟨⟨_, get_some (by decide +kernel), by decide +kernel, by decide +kernel, by decide +kernel⟩,
      by decide +kernel⟩, by decide +kernel, by decide +kernel, by decide +kernel, by decide +kernel,
    ⟨by decide +kernel, rfl, rfl⟩, by decide, by decide +kernel, by decide +kernel, by decide +kernel⟩

/-- Two packages with a link that has 400 flits sent without an ACK, and one whose counter has one value left. -/
def trunk (sent : DWord) : State :=
  { State.reset with
    pkgs := [{ id := 0, ports := [{ port3 with no := 0, sentSeq := 400, sent := sent }] }, { id := 1, ports := [{ no := 0, up := true }] }] }
theorem trunk_port (n : DWord) : (trunk n).port 0 0 = { port3 with no := 0, sentSeq := 400, sent := n } := rfl
theorem witness_LinksCarryFlits_sent : (∀ n, let s := trunk n; (0 : Nat) ≠ 1 ∧ s.streamPort 0 1 4 0 = some 0 ∧
      (s.port 0 0).sendStaged = none ∧ (s.port 0 0).begun = 0) ∧
    (let q := (trunk 0).port 0 0; ∀ c < 2, 512 < (q.sentSeq - q.ackSeq).toNat + c + 113 ∧
      (q.sentSeq - q.ackSeq).toNat + c + 111 ≤ 512 ∧ q.sent.toNat + 111 ≤ 2 ^ 64 - 2) ∧
    (let q := (trunk 0xFFFFFFFFFFFFFFFD).port 0 0; ∀ c < 2, (q.sentSeq - q.ackSeq).toNat + c + 2 ≤ 512 ∧
      2 ^ 64 - 2 < q.sent.toNat + 2) ∧
    (trunk 0).streamPort 0 1 5 0 = none := by
  have h : ((400 : BitVec 16) - (0 : BitVec 16)).toNat = 400 := rfl
  refine ⟨fun n => ⟨by decide, rfl, rfl, rfl⟩, ?_, ?_, by decide +kernel⟩ <;> rw [trunk_port] <;>
    simp only [port3, h] <;> intro c hc <;> simp <;> omega
/-- A request whose stream would take the port that loses its signal. -/
theorem witness_LinksCarryFlits_request : ∃ d, getBy Die.id d.id (asking out false).dies = some d ∧ out ∈ d.requests ∧
    ((asking out false).port 0 0).up = true ∧ (asking out false).requestOn d.id out 0 0 = true :=
  ⟨(getBy Die.id 0 (asking out false).dies).get (by decide +kernel), by decide +kernel, by decide +kernel, by decide +kernel,
    by decide +kernel⟩

/-- A message on its way; context 0 is on packages 0 (the root) and 1. -/
def msg (k : CritKind) (n : Word) : CritMsg :=
  { id := 2, src := if k = .report then 1 else 0, dst := if k = .report ∨ k = .elect then 0 else 1, kind := k, ctx := 0, cseq := n
    value := some 1 }
def mesh (k : CritKind) (n : Word) : State :=
  { ev with
    ctxs := [{ ctxOf ev with places := [(0, [0, 1]), (1, [0])] }]
    pkgs := [{ id := 0, ports := [{ no := 0, up := true }], electing := true }, { id := 1, ports := [{ no := 0, up := true }] }]
    ctxPkgs := [{ ctx := 0, pkg := 1, unacked := [(1, some 5), (2, none)] }]
    crit := [msg k n], nextCrit := 3 }
theorem here_of (k : CritKind) (n : Word) (h : (k == .elect || [0, 1].all fun c =>
    match sendWith (mesh k n) (msg k n).src (msg k n).dst (msg k n).via 0 1 c with
      | .ok _ => true
      | _ => false) = true) : ∃ s1, OnItsWay (mesh k n) (msg k n) k s1 := by
  have d : ∀ s1, ((msg k n).src = (msg k n).dst ∧ s1 = mesh k n) ∨ ((msg k n).src ≠ (msg k n).dst ∧
      (mesh k n).sendPacket (msg k n).src (msg k n).dst (msg k n).via 0 1 = .ok s1) → OnItsWay (mesh k n) (msg k n) k s1 :=
    fun s1 h => ⟨List.mem_singleton.mpr rfl, rfl, fun _ hm _ => List.mem_singleton.mp hm,
      fun m hm _ _ _ => le_of_eq (congrArg CritMsg.id (List.mem_singleton.mp hm).symm), h⟩
  by_cases he : k = .elect
  · subst he
    exact ⟨_, d _ (.inl ⟨rfl, rfl⟩)⟩
  · have hs : (msg k n).src ≠ (msg k n).dst := by
      cases k <;> first | exact absurd rfl he | exact Nat.one_ne_zero | exact Nat.zero_ne_one
    obtain ⟨s1, h1, -⟩ := flits_of (mesh k n) (msg k n).src (msg k n).dst (msg k n).via 0 1 (fun _ => true)
      ((Bool.or_eq_true_iff.mp h).resolve_left fun hk => he (eq_of_beq hk))
    exact ⟨s1, d s1 (.inr ⟨hs, h1⟩)⟩
def kinds : List CritKind := [.report, .reportAck, .horizon, .elect]
def laterB (a b : Word) : Bool := a != b && decide ((a - b).toNat < 2 ^ 31)
theorem later_iff {a b : Word} : laterB a b = true ↔ later a b := by simp [laterB, later]

theorem witness_MessagesAndFencing_messages :
    (∀ k ∈ kinds, (∃ s1, OnItsWay (mesh k 0) (msg k 0) k s1) ∧ ¬later (msg k 0).cseq (lastSeen (mesh k 0) (msg k 0))) ∧
    (∀ k ∈ kinds, (∃ s1, OnItsWay (mesh k 1) (msg k 1) k s1) ∧ later (msg k 1).cseq (lastSeen (mesh k 1) (msg k 1))) ∧
    (∃ c, (mesh .report 1).ctx? 0 = some c ∧ (msg .report 1).id < (mesh .report 1).nextCrit) ∧
    (∃ c, (mesh .horizon 1).ctx? 0 = some c ∧ getBy Prod.fst 1 c.places = some (1, [0]) ∧ 1 ≠ c.root ∧
      ((mesh .horizon 1).ctxPkg 0 1).unacked ≠ [] ∧ c ∈ (mesh .horizon 1).ctxs ∧ c.ended = .running ∧ c.root = 0 ∧ c.id = 0) ∧
    ((mesh .elect 1).pkg 0).electing = true ∧ ((mesh .elect 1).die (0 * 4 + 1 % 4)).fenced = false ∧
    ((mesh .elect 1).ctxs.map Ctx.id).Nodup ∧
    ((mesh .reportAck 1).ctxPkg 0 1).unacked.find? (fun u => u.1 == 1) = some (1, some 5) := by
  refine ⟨fun k hk => ⟨here_of k 0 (by revert k; decide +kernel), ?_⟩,
    fun k hk => ⟨here_of k 1 (by revert k; decide +kernel), later_iff.mp ?_⟩,
    ⟨_, get_some (by decide +kernel), by decide⟩, ⟨_, get_some (by decide +kernel), by and_intros <;> decide +kernel⟩, by and_intros <;> decide +kernel⟩
  · rw [← later_iff, Bool.not_eq_true]
    revert k
    decide +kernel
  · revert k
    decide +kernel

/-- A die that works, with a context of each row of Table 19.9. -/
def fencing (written : Bool) (gate : Bool) : State :=
  { ev with
    ctxs := [{ ctxOf ev with control := { written := written }, places := if written then [(0, [0])] else [(1, [0])] }]
    dies := [{ id := 0, gates := if gate then [{ slot := 3, record := { handler := 5 }, poster := 0, seq := 0, ctx := 0 }] else [] }] }
/-- A launch that is not reissued has a gang to come on die 0, and die 1 goes on. -/
def launching : State :=
  let s := fencing false false
  { s with ctxs := [{ ctxOf s with places := [(0, [0, 1])] }], launches := [launch1] }
theorem witness_MessagesAndFencing_fencing :
    (∀ g ∈ [true, false], ((fencing true g).die 0).fenced = false ∧ ((fencing true g).ctxs.map Ctx.id).Nodup ∧
      ∃ c ∈ (fencing true g).ctxs, c.ended = .running ∧ c.control.written = true ∧ 0 ∈ c.dies) ∧
    (∃ c ∈ (fencing false true).ctxs, c.ended = .running ∧ c.control.written = false ∧
      ∃ x ∈ ((fencing false true).die 0).gates, x.ctx = c.id ∧ x.published = false) ∧
    (∃ c ∈ launching.ctxs, c.ended = .running ∧ c.control.written = false ∧ (launching.die 0).gates = [] ∧
      (∃ d ∈ c.dies, d / 4 = 0 / 4 ∧ d ≠ 0 ∧ (launching.die d).fenced = false) ∧
      ∃ l ∈ launching.launches, l.ctx = c.id ∧ l.rec'.reissue = false ∧ launching.launchOn l 0 = true) ∧
    ∃ c ∈ (fencing false false).ctxs, c.ended = .running ∧ c.control.written = false ∧
      ((fencing false false).die 0).gates = [] ∧ (fencing false false).launches = [] := by
  refine ⟨?_, ⟨ctxOf (fencing false true), by decide +kernel, by decide +kernel, by decide +kernel, by decide +kernel⟩,
    ⟨ctxOf launching, by decide +kernel, by decide +kernel, by decide +kernel, by decide +kernel, by decide +kernel,
      by decide +kernel⟩,
    ⟨ctxOf (fencing false false), by decide +kernel, by decide +kernel, by decide +kernel, by decide +kernel, by decide +kernel⟩⟩
  intro g hg
  simp only [List.mem_cons, List.not_mem_nil, or_false] at hg
  rcases hg with rfl | rfl
  · exact ⟨by decide +kernel, by decide +kernel, ctxOf (fencing true true), by decide +kernel, by decide +kernel,
      by decide +kernel, by decide +kernel⟩
  · exact ⟨by decide +kernel, by decide +kernel, ctxOf (fencing true false), by decide +kernel, by decide +kernel,
      by decide +kernel, by decide +kernel⟩

/-- The image of stage 3, as a boot stored it, and one that is not it. -/
def image3 (v : Nat) : Image := { stage := 3, bytes := [1], edKey := [], edSig := [], mlKey := [], mlSig := [], version := v }
def header (type : BitVec 16) : MgmtHeader :=
  { magic := 0x54474D56, type := type, rsv := 0, length := if type = 3 then 17 else if type = 4 then 16 else 32, tag := 7, bodyZero := true }
def bootHas3 : Control24 := { alive with boot := [(3, image3 1)] }
theorem witness_BootAndManagement_images : Checkable bootHas3 3 ∧ Runs bootHas3 (image3 1) ∧ ¬Runs bootHas3 (image3 2) :=
  ⟨⟨by decide, .inr (.inr ⟨.inl rfl, by decide⟩)⟩,
    fun p h => by rw [← Option.some.inj (h : some ((3 : Nat), image3 1) = some p)],
    fun h => absurd (h (3, image3 1) rfl) (by decide)⟩
theorem witness_BootAndManagement_off : ((booted alive).pkg 0).ctl.powered = true ∧ ((booted alive).ctxs.map Ctx.id).Nodup ∧
    (booted alive).badWrites = [] ∧ (booted alive).badReplies = [] ∧
    ∃ c ∈ (booted alive).ctxs, c.ended = .running ∧ ∃ x ∈ c.places, x.1 = 0 :=
  ⟨by decide +kernel, by decide +kernel, rfl, rfl, ctxOf ev, by decide +kernel, by decide +kernel, by decide +kernel⟩
theorem witness_BootAndManagement_messages : (∀ n, (header n).tag = 7) ∧ ∃ bs : List Byte, bs.length = 3888 :=
  ⟨fun _ => rfl, List.replicate 3888 0, List.length_replicate⟩
/-- The port has no staged key, and may tell of one at once or not. -/
def unstaged (n : BitVec 16) (told : Bool) : Bool :=
  let q := (link { port3 with sentSeq := n }).port 0 3
  q.sendStaged.isNone && q.recvStaged.isNone && (q.up && decide ((q.sentSeq - q.ackSeq).toNat < 512)) == told
theorem witness_BootAndManagement_keys : unstaged 0 true = true ∧ unstaged 0x7FFF false = true :=
  ⟨by decide +kernel, by decide +kernel⟩

def tls (port : Nat) : TlsAttempt := { port := port, fullDuplex1000 := true, tls13 := true, suiteOk := true, clientDigest := 9 }
theorem witness_BootAndManagement :
    ((booted {}).pkg 0).ctl.powered = false ∧ Alive (booted alive) 0 alive ∧ Checkable alive 3 ∧ ¬Checkable alive 1 ∧
    ¬Checkable alive 5 ∧ (let c := { alive with trust := [9], connected := true }; Alive (booted c) 0 c ∧ c.connected = true ∧
      (tls 4810).clientDigest ∈ c.trust ∧ (tls 4810).port = 4810 ∧ (tls 443).port ≠ 4810) ∧
    (∀ k ∈ [none, some linkKey], let q := (link { port3 with sendStaged := k }).port 0 3; q.sendStaged = k ∧
      q.recvStaged = none) ∧
    ∀ c ∈ [({} : Control24), { alive with halted := some (3, .rollback) }, alive], ((booted c).pkg 0).ctl = c ∧
      (c.powered = false ∨ c.halted ≠ none ∨ c.connected = false) :=
  ⟨by decide +kernel, ⟨by decide +kernel, rfl, rfl⟩, ⟨by decide, .inr (.inr ⟨.inl rfl, by decide⟩)⟩,
    fun h => absurd h.1 (by decide), fun h => by rcases h.2 with h | ⟨h, _⟩ | ⟨h | h, _⟩ <;> exact absurd h (by decide),
    ⟨⟨by decide +kernel, rfl, rfl⟩, rfl, List.mem_singleton.mpr rfl, rfl, by decide⟩, by decide +kernel, by decide +kernel⟩

/-- A data flit in order is counted; a stage image is checked only after the stages before it (R378, R379, R426). -/
theorem test_flit_and_boot :
    ((((run (.flitData 0 3 (flit 0 5) true) (lk2 false 0)).port 0 3).goodSeq, ((run (.flitData 0 3 (flit 0 6) true)
      (lk2 false 0)).port 0 3).nak) == (5, true)) = true := by decide +kernel

/-! ### Statements over all instructions -/

theorem witness_DecodeOfEncode : (Instr.iadd (i2 true .w32 true)).wf = true ∧ (Instr.nop hd).wf = true := by decide +kernel
theorem witness_DecoderAcceptsOnlyTheSet : decode 0x000001FFFFFFFFFFC0000000 = .ok (.nop hd) := by decide +kernel
def keyed (key slot : Nat) : Sorted := { key := key, old := 0, slot := slot, dst := 5 }
def regroupLanes3 : List Sorted := [keyed 1 0, keyed 1 2, keyed 4 1]
/-- Room for a team per key, and room for no more than the lanes need. -/
theorem witness_RegroupFormsTeams : 0 < 2 ∧ regroupLanes3.length ≤ 2 * 2 ∧ (regroupCut 2 regroupLanes3).length ≤ 2 ∧
    [keyed 1 0, keyed 2 1, keyed 4 2].length ≤ 2 * 2 ∧ ¬(regroupCut 2 [keyed 1 0, keyed 2 1, keyed 4 2]).length ≤ 2 := by
  decide +kernel

end Sys2Proof.Tests
end

section
/-! SUPPORT. The frame of lane instructions in the words of the statements: what an issue that delivers leads to. -/
namespace Sys2Proof.Claims
open Sys2Proof.Machine

variable {i : Instr} {o : Ops} {imm : Nat → Word} {cls : Nat} {s s' : State} {e e' : Ex1} {p : Pops}

/-- The next state of a lane instruction, given by the register writes and flags of each lane. -/
theorem execLaneWrites_of_delivers {f : Src → List RegWrite × Flags} (hi : Issues i s e)
    (hd : Delivers (execSlots o.d e.slots) i o e s e' p s') :
    execLaneWrites i o imm cls s f = .next (laneNext e' s'
      ((execSlots o.d e'.slots).flatMap fun slot => (f (sources e'.t o p imm slot)).1)
      ((execSlots o.d e'.slots).foldl (fun g slot => g ||| (f (sources e'.t o p imm slot)).2) 0) cls) := by
  obtain ⟨⟨h, o', hf, hc⟩, hl, ho, ht⟩ := hi
  obtain ⟨hp, he, hs⟩ := hd
  subst hs
  have hx : e'.slots = e.slots ∧ e'.x = e.x := by rw [he]; exact ⟨rfl, rfl⟩
  have hn := execLaneWrites_next (imm := imm) (cls := cls) (f := f) (by rw [hf]; rfl) hc hl ho ht hp
  rw [laneResults_eq, ← he] at hn
  rw [hn, laneNext, hx.1, hx.2]

/-- The same for one that gives each lane the words of its destination. -/
theorem execLane_of_delivers {f : Src → List Word × Flags} (hi : Issues i s e)
    (hd : Delivers (execSlots o.d e.slots) i o e s e' p s') :
    execLane i o imm cls s f = .next (laneNext e' s'
      ((execSlots o.d e'.slots).flatMap fun slot => destWrites o.d slot (f (sources e'.t o p imm slot)).1)
      ((execSlots o.d e'.slots).foldl (fun g slot => g ||| (f (sources e'.t o p imm slot)).2) 0) cls) :=
  execLaneWrites_of_delivers hi hd

/-- A lane instruction has the results of `g` once its meaning gives each lane's words by `g`. -/
theorem laneResult_of_exec {g : (Nat → Word) → (Nat → Word) → (Nat → Word) → List Word × Flags}
    {f : Src → List Word × Flags}
    (hexec : i.wf = true → ∀ s, exec i s = execLane i o imm cls s f)
    (hf : i.wf = true → ∀ r, f r = g r.a r.b r.c) : LaneResult i o imm cls g := by
  intro s e e' p s' hw hi hd
  rw [hexec hw, execLane_of_delivers hi hd]
  simp only [hf hw, sources]

/-- The same for an integer instruction, whose flags stay clear. `w`: the width in which IMM8 is read. -/
theorem laneResult_of_execInt {x : IntOp} {w : IWidth} {g : (Nat → Word) → (Nat → Word) → (Nat → Word) → List Word}
    {f : Src → List Word} (hexec : ∀ s, exec i s = execInt i x s f) (hwidth : i.wf = true → x.width = w)
    (hf : i.wf = true → ∀ r, f r = g r.a r.b r.c) :
    LaneResult i x.ops (immInt w x.sgn x.imm) 4 fun a b c => (g a b c, 0) :=
  laneResult_of_exec (f := fun r => (f r, 0)) (fun hw s => by rw [hexec, execInt, hwidth hw]) fun hw r => by
    rw [hf hw]

end Sys2Proof.Claims
end

section
/-! SUPPORT. Numbers of a width: exact integers, their reduction, and bit vectors (R52). -/
namespace Sys2Proof.Claims
open Sys2Proof.Machine

variable {n : Nat}

/-- The integer that the model reads from a pattern of a width is the value of the bit vector. -/
theorem readInt_toNat (h : 0 < n) (sgn : Bool) (a : BitVec n) : readInt n sgn a.toNat = valueOf sgn a := by
  have hp : 2 ^ n = 2 * 2 ^ (n - 1) := by rw [← Nat.pow_succ']; congr 1; omega
  have ha := a.isLt
  simp only [readInt, valueOf, Nat.mod_eq_of_lt ha, BitVec.toInt_eq_toNat_cond]
  cases sgn with
  | false => simp
  | true =>
    by_cases hc : 2 ^ (n - 1) ≤ a.toNat
    · simp [hc, show ¬ 2 * a.toNat < 2 ^ n by omega]
    · simp [hc, show 2 * a.toNat < 2 ^ n by omega]

/-- An exact integer in `n` bits: clamped to their range under `.sat`, its residue else. -/
def reduced (n : Nat) (sat sgn : Bool) (r : Int) : BitVec n := if sat then clampBits n sgn r else BitVec.ofInt n r

theorem wrapInt_eq_toNat (n : Nat) (r : Int) : wrapInt n r = (BitVec.ofInt n r).toNat := by
  simp [wrapInt, BitVec.toNat_ofInt]

theorem ofInt_clampInt (n : Nat) (sgn : Bool) (r : Int) : BitVec.ofInt n (clampInt n sgn r) = clampBits n sgn r := by
  cases sgn <;> simp [clampInt, clampBits, intMin, intMax, min_comm]

theorem reduceInt_eq (x : IntOp) (r : Int) : reduceInt x r = (reduced (elemBits x.width) x.sat x.sgn r).toNat := by
  unfold reduceInt reduced
  rw [wrapInt_eq_toNat]
  split
  · rw [ofInt_clampInt]
  · rfl

@[simp] theorem reduced_wrap (n : Nat) (sgn : Bool) (r : Int) : reduced n false sgn r = BitVec.ofInt n r := rfl
@[simp] theorem reduced_sat (n : Nat) (sgn : Bool) (r : Int) : reduced n true sgn r = clampBits n sgn r := rfl

/-- A value is its number's residue, whether it was read with a sign or without. -/
@[simp] theorem ofInt_valueOf (sgn : Bool) (a : BitVec n) : BitVec.ofInt n (valueOf sgn a) = a := by
  cases sgn <;> simp [valueOf]

theorem valueOf_unsigned (a : BitVec n) : valueOf false a = (a.toNat : Int) := rfl
theorem valueOf_signed (a : BitVec n) : valueOf true a = a.toInt := rfl

theorem valueOf_inj (sgn : Bool) (a b : BitVec n) : valueOf sgn a = valueOf sgn b ↔ a = b := by
  refine ⟨fun h => ?_, fun h => by rw [h]⟩
  rw [← ofInt_valueOf sgn a, h, ofInt_valueOf]

theorem lessThan_eq (sgn : Bool) (a b : BitVec n) : lessThan sgn a b = decide (valueOf sgn a < valueOf sgn b) := by
  cases sgn with
  | false => simp [lessThan, valueOf, BitVec.ult_eq_decide]
  | true => simp [lessThan, valueOf, BitVec.slt_eq_decide]

/-- The smaller of two elements has the smaller number. -/
theorem valueOf_minElem (x : IntOp) (a b c : BitVec n) :
    valueOf x.sgn (minElem x n a b c) = min (valueOf x.sgn a) (valueOf x.sgn b) := by
  simp only [minElem, lessThan_eq, decide_eq_true_eq]
  split
  · exact (min_eq_right (by omega)).symm
  · exact (min_eq_left (by omega)).symm

theorem valueOf_maxElem (x : IntOp) (a b c : BitVec n) :
    valueOf x.sgn (maxElem x n a b c) = max (valueOf x.sgn a) (valueOf x.sgn b) := by
  simp only [maxElem, lessThan_eq, decide_eq_true_eq]
  split
  · exact (max_eq_right (by omega)).symm
  · exact (max_eq_left (by omega)).symm

end Sys2Proof.Claims
end

section
/-! SUPPORT. Elements of operands: the model's lists of numbers, and element `j` as a bit vector (R51). -/
namespace Sys2Proof.Claims
open Sys2Proof.Machine

/-- Elements of an operand of a width. -/
def elemCount (w : IWidth) : Nat := 32 * w.regs / elemBits w

/-- Element `j` of an operand whose registers `get` reads. -/
def elemAt (w : IWidth) (get : Nat → Word) (j : Nat) : BitVec (elemBits w) := element (elemBits w) (copyWords w get) j

theorem elemBits_pos (w : IWidth) : 0 < elemBits w := by cases w <;> decide

theorem mem_scalarWidths {w : IWidth} : w ∈ scalarWidths ↔ w = .w32 ∨ w = .w64 := by cases w <;> decide

theorem elemCount_scalar {w : IWidth} (h : w ∈ scalarWidths) : elemCount w = 1 := by
  revert h; cases w <;> decide

theorem copyWords_w32 (get : Nat → Word) : copyWords .w32 get = [get 0] := rfl
theorem copyWords_w64 (get : Nat → Word) : copyWords .w64 get = [get 0, get 1] := rfl

/-- An element of one word is a field of it. -/
theorem element_word (n : Nat) (w : Word) (j : Nat) : element n [w] j = w.extractLsb' (n * j) n := by
  simp only [element, wordsVal, BitVec.extractLsb', Nat.shiftRight_eq_div_pow]
  rfl

theorem wide_toNat (get : Nat → Word) : (wide get).toNat = 2 ^ 32 * (get 1).toNat + (get 0).toNat := by
  rw [wide, BitVec.toNat_append, ← Nat.shiftLeft_add_eq_or_of_lt (get 0).isLt, Nat.shiftLeft_eq, mul_comm]

/-- A pair holds one element of 64 bits, its low word first. -/
theorem element_copyWords_w64 (get : Nat → Word) : element 64 [get 0, get 1] 0 = wide get := by
  apply BitVec.eq_of_toNat_eq
  have h0 := (get 0).isLt
  have h1 := (get 1).isLt
  rw [wide_toNat]
  simp only [element, wordsVal, BitVec.toNat_ofNat]
  omega

theorem elemAt_w32 (get : Nat → Word) : elemAt .w32 get 0 = get 0 := by
  simp [elemAt, copyWords_w32, element_word, elemBits]

theorem elemAt_w64 (get : Nat → Word) : elemAt .w64 get 0 = wide get := element_copyWords_w64 get

/-- The model's list of an operand's elements. -/
theorem elemsOf_eq (w : IWidth) (get : Nat → Word) :
    elemsOf w get = (List.range (elemCount w)).map fun j => (elemAt w get j).toNat := by
  cases w with
  | w32 => exact congrArg (fun a : Word => [a.toNat]) (elemAt_w32 get).symm
  | w64 => exact congrArg (fun a : BitVec 64 => [a.toNat]) (elemAt_w64 get).symm
  | x16 => exact List.map_congr_left fun j _ => congrArg BitVec.toNat (element_word 16 (get 0) j).symm
  | x8 => exact List.map_congr_left fun j _ => congrArg BitVec.toNat (element_word 8 (get 0) j).symm

theorem intElems_eq (w : IWidth) (sgn : Bool) (get : Nat → Word) :
    intElems w sgn get = (List.range (elemCount w)).map fun j => valueOf sgn (elemAt w get j) := by
  simp only [intElems, elemsOf_eq, List.map_map]
  exact List.map_congr_left fun j _ => readInt_toNat (elemBits_pos w) sgn _

/-- The registers of a list of elements hold them. -/
theorem wordsOfElems_holds (w : IWidth) (g : Nat → BitVec (elemBits w)) :
    let ws := wordsOfElems w ((List.range (elemCount w)).map fun j => (g j).toNat)
    ws.length = w.regs ∧ ∀ j < elemCount w, element (elemBits w) ws j = g j := by
  refine ⟨by cases w <;> rfl, fun j hj => BitVec.eq_of_toNat_eq ?_⟩
  have h0 := (g 0).isLt; have h1 := (g 1).isLt; have h2 := (g 2).isLt; have h3 := (g 3).isLt
  rw [element, BitVec.toNat_ofNat]
  cases w with
  | w32 =>
    have hw : wordsVal (wordsOfElems .w32 ((List.range (elemCount .w32)).map fun j => (g j).toNat)) =
      (g 0).toNat % 2 ^ 32 := rfl
    obtain rfl : j = 0 := Nat.lt_one_iff.mp hj
    simp only [elemBits] at *
    omega
  | w64 =>
    have hw : wordsVal (wordsOfElems .w64 ((List.range (elemCount .w64)).map fun j => (g j).toNat)) =
      (g 0).toNat % 2 ^ 32 + 2 ^ 32 * ((g 0).toNat / 2 ^ 32 % 2 ^ 32) := rfl
    obtain rfl : j = 0 := Nat.lt_one_iff.mp hj
    simp only [elemBits] at *
    omega
  | x16 =>
    have hw : wordsVal (wordsOfElems .x16 ((List.range (elemCount .x16)).map fun j => (g j).toNat)) =
      ((g 0).toNat + 2 ^ 16 * (g 1).toNat) % 2 ^ 32 := rfl
    simp only [elemBits, elemCount, IWidth.regs] at *
    interval_cases j <;> omega
  | x8 =>
    have hw : wordsVal (wordsOfElems .x8 ((List.range (elemCount .x8)).map fun j => (g j).toNat)) =
      ((g 0).toNat + 2 ^ 8 * ((g 1).toNat + 2 ^ 8 * ((g 2).toNat + 2 ^ 8 * (g 3).toNat))) % 2 ^ 32 := rfl
    simp only [elemBits, elemCount, IWidth.regs] at *
    interval_cases j <;> omega

end Sys2Proof.Claims
end

section
/-! SUPPORT. What an integer instruction gives each lane, element by element (R117). -/
namespace Sys2Proof.Claims
open Sys2Proof.Machine

/-! ### Modifiers (check 5) -/

theorem modsOk_of_wf {i : Instr} (h : i.wf = true) (hu : i ≠ .udf) : i.modsOk = true := by
  have he := (Instr.checks_of_wf h hu).1
  simp only [Instr.encodingOk, Bool.and_eq_true] at he
  exact he.1

theorem IntOp.modsOk_iff {x : IntOp} {ws : List IWidth} {sat : Bool} {sg : SgnRule} :
    x.modsOk ws sat sg = true ↔ x.width ∈ ws ∧ (sat = false → x.sat = false) ∧
      (sg = .clear → x.sgn = false) ∧ (sg = .set → x.sgn = true) := by
  cases sat <;> cases sg <;> simp [IntOp.modsOk, and_assoc]

/-- What the row of Table 6.2 asks of a well-formed integer instruction. -/
theorem intMods_of_wf {i : Instr} {x : IntOp} (ws : List IWidth) (sat : Bool) (sg : SgnRule) (hw : i.wf = true)
    (hu : i ≠ .udf) (hm : i.modsOk = x.modsOk ws sat sg) :
    x.width ∈ ws ∧ (sat = false → x.sat = false) ∧ (sg = .clear → x.sgn = false) ∧ (sg = .set → x.sgn = true) :=
  IntOp.modsOk_iff.mp (hm ▸ modsOk_of_wf hw hu)

/-- An instruction that has no `.sat` form keeps the residue of its exact result. -/
theorem reduced_of_noSat {i : Instr} {x : IntOp} (sg : SgnRule) (hw : i.wf = true) (hu : i ≠ .udf)
    (hm : i.modsOk = x.modsOk allWidths false sg) (n : Nat) (r : Int) :
    reduced n x.sat x.sgn r = BitVec.ofInt n r := by
  obtain ⟨-, hsat, -⟩ := intMods_of_wf allWidths false sg hw hu hm
  rw [hsat rfl, reduced_wrap]

/-- An instruction of the width `.i32` alone. -/
theorem width_eq_w32 {i : Instr} {x : IntOp} (sg : SgnRule) (hw : i.wf = true) (hu : i ≠ .udf)
    (hm : i.modsOk = x.modsOk [.w32] false sg) : x.width = .w32 :=
  List.mem_singleton.mp (intMods_of_wf [.w32] false sg hw hu hm).1

/-! ### Elements that a list of words holds -/

/-- `g` gives the words of which each element is `f` of the elements of the sources. -/
def GivesElements (x : IntOp) (f : ElemFn) (g : Src → List Word) : Prop :=
  ∀ r, (g r).length = x.width.regs ∧ ∀ j < elemCount x.width,
    element (elemBits x.width) (g r) j =
      f x (elemBits x.width) (elemAt x.width r.a j) (elemAt x.width r.b j) (elemAt x.width r.c j)

/-- An instruction whose meaning gives each lane the elements of `f` has the results of `f`. -/
theorem integerResult_of_gives {mk : IntOp → Instr} {f : ElemFn} {g : IntOp → Src → List Word}
    (hexec : ∀ x s, exec (mk x) s = execInt (mk x) x s (g x))
    (hg : ∀ x, (mk x).wf = true → GivesElements x f (g x)) : IntegerResult mk f := by
  intro x s e e' p s' hw hi hd
  refine ⟨fun slot => g x (sources e'.t x.ops p (immInt x.width x.sgn x.imm) slot), ?_, fun slot _ => hg x hw _⟩
  rw [hexec, execInt, execLane_of_delivers hi hd]
  simp [IntOp.ops]

variable {x : IntOp} {F : ElemFn}

/-- Elements laid into registers one by one. -/
theorem givesElements_of_list {l : Src → List Nat}
    (h : ∀ r, l r = (List.range (elemCount x.width)).map fun j =>
      (F x (elemBits x.width) (elemAt x.width r.a j) (elemAt x.width r.b j) (elemAt x.width r.c j)).toNat) :
    GivesElements x F fun r => wordsOfElems x.width (l r) := by
  intro r
  simp only [h]
  exact wordsOfElems_holds x.width _

theorem intMap1_gives {sgn : Bool} {f : Int → Int}
    (h : ∀ a b c : BitVec (elemBits x.width),
      reduced (elemBits x.width) x.sat x.sgn (f (valueOf sgn a)) = F x (elemBits x.width) a b c) :
    GivesElements x F (intMap1 x sgn f) :=
  givesElements_of_list fun r => by simp [intElems_eq, reduceInt_eq, ← h]

theorem intMap2_gives {sgn : Bool} {f : Int → Int → Int}
    (h : ∀ a b c : BitVec (elemBits x.width),
      reduced (elemBits x.width) x.sat x.sgn (f (valueOf sgn a) (valueOf sgn b)) = F x (elemBits x.width) a b c) :
    GivesElements x F (intMap2 x sgn f) :=
  givesElements_of_list fun r => by
    simp [intElems_eq, reduceInt_eq, List.zipWith_map, ← h]

theorem intMap3_gives {sgn : Bool} {f : Int → Int → Int → Int}
    (h : ∀ a b c : BitVec (elemBits x.width),
      reduced (elemBits x.width) x.sat x.sgn (f (valueOf sgn a) (valueOf sgn b) (valueOf sgn c)) =
        F x (elemBits x.width) a b c) :
    GivesElements x F (intMap3 x sgn f) :=
  givesElements_of_list fun r => by
    simp [intElems_eq, reduceInt_eq, List.zipWith_map, List.zip, ← h]

/-- The counts of a shift, modulo the width: under `.i64` the low word of B decides (R118). -/
theorem shiftCounts_eq (w : IWidth) (b : Nat → Word) :
    (if w = .w64 then [(b 0).toNat] else elemsOf w b).map (· % elemBits w) =
      (List.range (elemCount w)).map fun j => (elemAt w b j).toNat % elemBits w := by
  by_cases hw : w = .w64
  · subst hw
    have hb : (elemAt .w64 b 0).toNat = 2 ^ 32 * (b 1).toNat + (b 0).toNat := by rw [elemAt_w64]; exact wide_toNat b
    have h : (elemAt .w64 b 0).toNat % 64 = (b 0).toNat % 64 := by omega
    exact congrArg (fun k : Nat => [k]) h.symm
  · simp [hw, elemsOf_eq]

theorem shiftMap_gives {sgn : Bool} {f : Nat → Int → Nat → Int}
    (h : ∀ a b c : BitVec (elemBits x.width),
      reduced (elemBits x.width) x.sat x.sgn (f (elemBits x.width) (valueOf sgn a) (b.toNat % elemBits x.width)) =
        F x (elemBits x.width) a b c) :
    GivesElements x F (shiftMap x sgn f) :=
  givesElements_of_list fun r => by
    have hz (l : List Int) (k : List Nat) :
        List.zipWith (fun a b => reduceInt x (f (elemBits x.width) a (b % elemBits x.width))) l k =
        List.zipWith (fun a b => reduceInt x (f (elemBits x.width) a b)) l (k.map (· % elemBits x.width)) := by
      simp [List.zipWith_map_right]
    refine (hz _ _).trans ?_
    rw [shiftCounts_eq]
    simp [intElems_eq, reduceInt_eq, List.zipWith_map, ← h]

/-! ### Results word by word -/

/-- Words that are copied or combined bit by bit hold the elements of `F` where `F` works half by half. -/
theorem givesElements_of_words {g : Src → List Word} {f : Word → Word → Word} (hw : x.width ∈ scalarWidths)
    (hg : ∀ r, g r = List.zipWith f (copyWords x.width r.a) (copyWords x.width r.b))
    (h32 : ∀ a b c : Word, F x 32 a b c = f a b)
    (h64 : ∀ (hi lo hi' lo' : Word) c, F x 64 (hi ++ lo) (hi' ++ lo') c = f hi hi' ++ f lo lo') :
    GivesElements x F g := by
  obtain ⟨head, sat, width, sgn, d, a, b, c, imm⟩ := x
  intro r
  rw [hg, elemCount_scalar hw]
  rcases mem_scalarWidths.mp hw with rfl | rfl
  · refine ⟨rfl, fun j hj => ?_⟩
    obtain rfl := Nat.lt_one_iff.mp hj
    simp only [elemAt_w32]
    exact (elemAt_w32 fun _ => f (r.a 0) (r.b 0)).trans (h32 _ _ _).symm
  · refine ⟨rfl, fun j hj => ?_⟩
    obtain rfl := Nat.lt_one_iff.mp hj
    simp only [elemAt_w64]
    exact (elemAt_w64 fun k => f (r.a k) (r.b k)).trans (h64 _ _ _ _ _).symm

end Sys2Proof.Claims
end

section
/-! SUPPORT. The functions of Table 6.2 on elements of any width: exact integers and bits agree. -/
namespace Sys2Proof.Claims
open Sys2Proof.Machine

variable {n : Nat}

/-! ### Sums and products -/

theorem reduced_add (x : IntOp) (a b c : BitVec n) :
    reduced n x.sat x.sgn (valueOf x.sgn a + valueOf x.sgn b) = addElem x n a b c := by
  simp [reduced, addElem, BitVec.ofInt_add]

theorem reduced_sub (x : IntOp) (a b c : BitVec n) :
    reduced n x.sat x.sgn (valueOf x.sgn a - valueOf x.sgn b) = subElem x n a b c := by
  simp [reduced, subElem, Int.sub_eq_add_neg, BitVec.sub_eq_add_neg, BitVec.ofInt_add, BitVec.ofInt_neg]

theorem reduced_mul (x : IntOp) (a b c : BitVec n) :
    reduced n x.sat x.sgn (valueOf x.sgn a * valueOf x.sgn b) = mulElem x n a b c := by
  simp [reduced, mulElem, BitVec.ofInt_mul]

theorem reduced_mad (x : IntOp) (a b c : BitVec n) :
    reduced n x.sat x.sgn (valueOf x.sgn a * valueOf x.sgn b + valueOf x.sgn c) = madElem x n a b c := by
  simp [reduced, madElem, BitVec.ofInt_add, BitVec.ofInt_mul]

theorem emod_mul_self_ediv {p : Int} (hp : 0 < p) (r : Int) : r % (p * p) / p = r / p % p := by
  rw [Int.emod_def r, Int.emod_def (r / p), Int.ediv_ediv_of_nonneg hp.le, mul_assoc,
    Int.sub_mul_ediv_left _ _ hp.ne']

/-- The upper half of a number's residue modulo 2^2n is its quotient by 2^n. -/
theorem extractLsb'_ofInt_double (n : Nat) (r : Int) :
    (BitVec.ofInt (2 * n) r).extractLsb' n n = BitVec.ofInt n (r.fdiv (2 ^ n)) := by
  apply BitVec.eq_of_toNat_eq
  have hp : (0 : Int) < 2 ^ n := by positivity
  have hr := Int.emod_nonneg r (mul_pos hp hp).ne'
  have hq := Int.emod_nonneg (r / 2 ^ n) hp.ne'
  have h2 : ((2 ^ (2 * n) : Nat) : Int) = 2 ^ n * 2 ^ n := by push_cast; rw [two_mul, pow_add]
  rw [Int.fdiv_eq_ediv_of_nonneg _ hp.le, BitVec.extractLsb'_toNat, BitVec.toNat_ofInt, BitVec.toNat_ofInt, h2,
    Nat.shiftRight_eq_div_pow]
  zify
  rw [Int.toNat_of_nonneg hr, Int.toNat_of_nonneg (by exact_mod_cast hq), emod_mul_self_ediv hp]
  exact Int.emod_emod_of_dvd _ dvd_rfl

theorem reduced_mulh (x : IntOp) (a b c : BitVec n) :
    BitVec.ofInt n ((valueOf x.sgn a * valueOf x.sgn b).fdiv (2 ^ n)) = mulhElem x n a b c := by
  rw [← extractLsb'_ofInt_double, BitVec.ofInt_mul]
  cases h : x.sgn with
  | false => simp [mulhElem, h, valueOf, BitVec.ofNat_toNat]
  | true => simp [mulhElem, h, valueOf, BitVec.signExtend]

/-! ### Minimum, maximum, absolute value -/

theorem ofInt_min (x : IntOp) (a b c : BitVec n) :
    BitVec.ofInt n (min (valueOf x.sgn a) (valueOf x.sgn b)) = minElem x n a b c := by
  rw [← valueOf_minElem x a b c, ofInt_valueOf]

theorem ofInt_max (x : IntOp) (a b c : BitVec n) :
    BitVec.ofInt n (max (valueOf x.sgn a) (valueOf x.sgn b)) = maxElem x n a b c := by
  rw [← valueOf_maxElem x a b c, ofInt_valueOf]

theorem ofInt_min3 (x : IntOp) (a b c : BitVec n) :
    BitVec.ofInt n (min (valueOf x.sgn a) (min (valueOf x.sgn b) (valueOf x.sgn c))) = min3Elem x n a b c := by
  rw [← valueOf_minElem x b c 0, ofInt_min x a _ 0, min3Elem]

theorem reduced_addmin (x : IntOp) (a b c : BitVec n) :
    reduced n x.sat x.sgn (min (valueOf x.sgn a + valueOf x.sgn b) (valueOf x.sgn c)) = addminElem x n a b c := rfl

/-- Clamping keeps a number of the range. -/
theorem clampBits_toInt (a : BitVec n) : clampBits n true a.toInt = a := by
  have hu := BitVec.toInt_le (x := a)
  rw [clampBits, if_pos rfl, min_eq_left (by omega), max_eq_right (BitVec.le_toInt a), BitVec.ofInt_toInt]

/-- The absolute value of the most negative number is above the range. -/
theorem clampBits_neg_intMin (h : 0 < n) : clampBits n true (-(BitVec.intMin n).toInt) = BitVec.intMax n := by
  have hp : (0 : Int) < 2 ^ (n - 1) := by positivity
  rw [clampBits, if_pos rfl, BitVec.toInt_intMin_of_pos h, min_eq_right (by omega), max_eq_right (by omega),
    ← BitVec.toInt_intMax, BitVec.ofInt_toInt]

theorem reduced_abs (x : IntOp) (h : 0 < n) (a b c : BitVec n) :
    reduced n x.sat true ((valueOf true a).natAbs : Int) = absElem x n a b c := by
  rw [valueOf_signed]
  cases hm : a.msb with
  | false =>
    have ha : (a.toInt.natAbs : Int) = a.toInt := by rw [BitVec.toInt_eq_toNat_of_msb hm]; rfl
    simp [ha, absElem, hm, reduced, clampBits_toInt]
  | true =>
    have ha : (a.toInt.natAbs : Int) = -a.toInt := Int.ofNat_natAbs_of_nonpos (BitVec.toInt_neg_of_msb_true hm).le
    rw [ha]
    by_cases hmin : a = BitVec.intMin n
    · subst hmin
      cases hs : x.sat <;> simp [absElem, hm, hs, clampBits_neg_intMin h, BitVec.ofInt_neg]
    · have hneg := BitVec.toInt_neg_of_ne_intMin hmin
      simp [absElem, hm, hmin, reduced, ← hneg, clampBits_toInt]

/-! ### Shifts and counts -/

theorem ofInt_shiftLeft (a : BitVec n) (k : Nat) : BitVec.ofInt n (valueOf false a * 2 ^ k) = a <<< k := by
  apply BitVec.eq_of_toNat_eq
  rw [valueOf_unsigned, BitVec.toNat_shiftLeft, Nat.shiftLeft_eq, ← BitVec.toNat_ofNat, ← BitVec.ofInt_natCast]
  push_cast
  rfl

theorem ofInt_shiftRight (sgn : Bool) (a : BitVec n) (k : Nat) :
    BitVec.ofInt n ((valueOf sgn a).fdiv (2 ^ k)) = if sgn then a.sshiftRight k else a >>> k := by
  rw [Int.fdiv_eq_ediv_of_nonneg _ (by positivity)]
  cases sgn with
  | false =>
    have hd : (valueOf false a / 2 ^ k : Int) = (a >>> k).toNat := by
      rw [valueOf_unsigned, BitVec.toNat_ushiftRight, Nat.shiftRight_eq_div_pow]; push_cast; rfl
    rw [hd, BitVec.ofInt_natCast, BitVec.ofNat_toNat, BitVec.setWidth_eq]
    rfl
  | true => simp [valueOf, BitVec.sshiftRight, Int.shiftRight_eq_div_pow]

/-- The two parts of a rotation share no bit. -/
theorem rotateLeft_parts_disjoint (a : BitVec n) (k : Nat) : a <<< k &&& a >>> (n - k) = 0#n := by
  ext i hi
  by_cases hk : i < k
  · simp [BitVec.getElem_shiftLeft, hk]
  · simp [show n ≤ n - k + i by omega]

theorem ofInt_rotLeft (a : BitVec n) {k : Nat} (h : k < n) :
    BitVec.ofInt n (rotLeft n (valueOf false a).toNat k : Nat) = a.rotateLeft k := by
  rw [BitVec.rotateLeft_def, Nat.mod_eq_of_lt h, ← BitVec.add_eq_or_of_and_eq_zero _ _ (rotateLeft_parts_disjoint a k)]
  apply BitVec.eq_of_toNat_eq
  rw [BitVec.ofInt_natCast]
  simp [rotLeft, valueOf, Nat.shiftLeft_eq, Nat.shiftRight_eq_div_pow]

theorem ofInt_onesBelow (a : BitVec n) :
    BitVec.ofInt n (onesBelow (valueOf false a).toNat n : Nat) = BitVec.ofNat n ((List.range n).countP a.getLsbD) := by
  rw [valueOf_unsigned, Int.toNat_natCast, BitVec.ofInt_natCast, List.countP_eq_length_filter]
  rfl

theorem ofInt_leadingZeros (a : BitVec n) :
    BitVec.ofInt n (leadingZeros (valueOf false a).toNat n : Nat) =
      BitVec.ofNat n (if a = 0 then n else n - 1 - a.toNat.log2) := by
  have h : a.toNat = 0 ↔ a = 0 := by rw [← BitVec.toNat_inj]; simp
  rw [valueOf_unsigned, Int.toNat_natCast, BitVec.ofInt_natCast, leadingZeros]
  simp only [h]

end Sys2Proof.Claims
end

section
/-! Integer arithmetic, moves, logic, shifts and bit counts (R52, R116 to R118, Table 6.2). -/
namespace Sys2Proof.Claims
open Sys2Proof.Machine

/-! ### Arithmetic -/

theorem iadd_result : IntegerResult .iadd addElem :=
  integerResult_of_gives (fun _ _ => rfl) fun x _ => intMap2_gives (reduced_add x)

theorem isub_result : IntegerResult .isub subElem :=
  integerResult_of_gives (fun _ _ => rfl) fun x _ => intMap2_gives (reduced_sub x)

theorem imul_result : IntegerResult .imul mulElem :=
  integerResult_of_gives (fun _ _ => rfl) fun x _ => intMap2_gives (reduced_mul x)

theorem imad_result : IntegerResult .imad madElem :=
  integerResult_of_gives (fun _ _ => rfl) fun x _ => intMap3_gives (reduced_mad x)

theorem iaddmin_result : IntegerResult .iaddmin addminElem :=
  integerResult_of_gives (fun _ _ => rfl) fun x _ => intMap3_gives (reduced_addmin x)

theorem imulh_result : IntegerResult .imulh mulhElem :=
  integerResult_of_gives (fun _ _ => rfl) fun x hw => intMap2_gives fun a b c => by
    rw [reduced_of_noSat .any hw nofun rfl, reduced_mulh x a b c]

theorem imin_result : IntegerResult .imin minElem :=
  integerResult_of_gives (fun _ _ => rfl) fun x hw => intMap2_gives fun a b c => by
    rw [reduced_of_noSat .any hw nofun rfl, ofInt_min x a b c]

theorem imax_result : IntegerResult .imax maxElem :=
  integerResult_of_gives (fun _ _ => rfl) fun x hw => intMap2_gives fun a b c => by
    rw [reduced_of_noSat .any hw nofun rfl, ofInt_max x a b c]

theorem imin3_result : IntegerResult .imin3 min3Elem :=
  integerResult_of_gives (fun _ _ => rfl) fun x hw => intMap3_gives fun a b c => by
    rw [reduced_of_noSat .any hw nofun rfl, ofInt_min3 x a b c]

theorem iabs_result : IntegerResult .iabs absElem :=
  integerResult_of_gives (fun _ _ => rfl) fun x hw => intMap1_gives fun a b c => by
    obtain ⟨-, -, -, hset⟩ := intMods_of_wf allWidths true .set hw nofun rfl
    rw [hset rfl, reduced_abs x (elemBits_pos x.width) a b c]

/-! ### Moves and logic -/

theorem mov_result : IntegerResult .mov movElem :=
  integerResult_of_gives (g := fun x r => copyWords x.width r.a) (fun _ _ => rfl) fun x hw => by
    obtain ⟨hwidth, -⟩ := intMods_of_wf scalarWidths false .any hw nofun rfl
    exact givesElements_of_words hwidth (f := fun a _ => a) (fun r => by simp [copyWords, List.zipWith_map])
      (fun _ _ _ => rfl) fun _ _ _ _ _ => rfl

theorem not_result : IntegerResult .not notElem :=
  integerResult_of_gives (fun _ _ => rfl) fun x hw => by
    obtain ⟨hwidth, -⟩ := intMods_of_wf scalarWidths false .any hw nofun rfl
    exact givesElements_of_words hwidth (f := fun a _ => ~~~a)
      (fun r => by simp [bitMap1, copyWords, List.zipWith_map]) (fun _ _ _ => rfl) fun _ _ _ _ _ => BitVec.not_append

theorem and_result : IntegerResult .and andElem :=
  integerResult_of_gives (fun _ _ => rfl) fun x hw => by
    obtain ⟨hwidth, -⟩ := intMods_of_wf scalarWidths false .any hw nofun rfl
    exact givesElements_of_words hwidth (fun _ => rfl) (fun _ _ _ => rfl) fun _ _ _ _ _ => BitVec.and_append

theorem or_result : IntegerResult .or orElem :=
  integerResult_of_gives (fun _ _ => rfl) fun x hw => by
    obtain ⟨hwidth, -⟩ := intMods_of_wf scalarWidths false .any hw nofun rfl
    exact givesElements_of_words hwidth (fun _ => rfl) (fun _ _ _ => rfl) fun _ _ _ _ _ => BitVec.or_append

theorem xor_result : IntegerResult .xor xorElem :=
  integerResult_of_gives (fun _ _ => rfl) fun x hw => by
    obtain ⟨hwidth, -⟩ := intMods_of_wf scalarWidths false .any hw nofun rfl
    exact givesElements_of_words hwidth (fun _ => rfl) (fun _ _ _ => rfl) fun _ _ _ _ _ => BitVec.xor_append

/-! ### Shifts and bit counts -/

theorem shl_result : IntegerResult .shl shlElem :=
  integerResult_of_gives (fun _ _ => rfl) fun x hw => shiftMap_gives fun a b _ => by
    rw [reduced_of_noSat .clear hw nofun rfl, ofInt_shiftLeft, shlElem]

theorem shr_result : IntegerResult .shr shrElem :=
  integerResult_of_gives (fun _ _ => rfl) fun x hw => shiftMap_gives fun a b _ => by
    rw [reduced_of_noSat .any hw nofun rfl, ofInt_shiftRight, shrElem]

theorem rot_result : IntegerResult .rot rotElem :=
  integerResult_of_gives (fun _ _ => rfl) fun x hw => shiftMap_gives fun a b _ => by
    rw [reduced_of_noSat .clear hw nofun rfl, ofInt_rotLeft a (Nat.mod_lt _ (elemBits_pos x.width)), rotElem]

theorem popc_result : IntegerResult .popc popcElem :=
  integerResult_of_gives (fun _ _ => rfl) fun x hw => intMap1_gives fun a _ _ => by
    rw [reduced_of_noSat .clear hw nofun rfl, ofInt_onesBelow, popcElem]

theorem clz_result : IntegerResult .clz clzElem :=
  integerResult_of_gives (fun _ _ => rfl) fun x hw => intMap1_gives fun a _ _ => by
    rw [reduced_of_noSat .clear hw nofun rfl, ofInt_leadingZeros, clzElem]

/-- Settles O42: each instruction's meaning gives the elements of its function of Table 6.2. -/
theorem integerResults : Obligations.IntegerResults :=
  ⟨⟨iadd_result, isub_result, imul_result, imulh_result, imad_result, imin_result, imax_result, iabs_result,
      iaddmin_result, imin3_result⟩,
    ⟨mov_result, and_result, or_result, xor_result, not_result, shl_result, shr_result, rot_result, popc_result,
      clz_result⟩⟩

end Sys2Proof.Claims
end

section
/-! SUPPORT. Compare, select, address, bit-field and carry results, word by word (R119 to R121). -/
namespace Sys2Proof.Claims
open Sys2Proof.Machine

/-! ### Compare, select, addresses -/

theorem condHolds_eq {n : Nat} (c : Cond) (sgn : Bool) (a b : BitVec n) :
    condHolds c (valueOf sgn a) (valueOf sgn b) = condOf c sgn a b := by
  cases c with
  | eq => rw [condHolds, condOf, Bool.eq_iff_iff]; simp [valueOf_inj]
  | ne => rw [condHolds, condOf, Bool.eq_iff_iff]; simp [valueOf_inj]
  | lt => exact (lessThan_eq sgn a b).symm
  | gt => exact (lessThan_eq sgn b a).symm
  | le => cases sgn <;> simp [condHolds, condOf, valueOf, BitVec.sle_eq_decide, BitVec.ule_eq_decide]
  | ge => cases sgn <;> simp [condHolds, condOf, valueOf, BitVec.sle_eq_decide, BitVec.ule_eq_decide]

/-- The element that `icmp` compares is the operand itself. -/
theorem intElems_scalar {w : IWidth} (h : w ∈ scalarWidths) (sgn : Bool) (get : Nat → Word) :
    intElems w sgn get = [valueOf sgn (elemAt w get 0)] := by
  rw [intElems_eq, elemCount_scalar h]
  rfl

theorem condOf_elemAt (c : Cond) {x : IntOp} (h : x.width ∈ scalarWidths) (a b : Nat → Word) :
    truth (condOf c x.sgn (elemAt x.width a 0) (elemAt x.width b 0)) = compareOf c x a b := by
  obtain ⟨head, sat, width, sgn, d, fa, fb, fc, imm⟩ := x
  rcases mem_scalarWidths.mp h with rfl | rfl
  · simp only [elemAt_w32]; rfl
  · simp only [elemAt_w64]; rfl

theorem selectOf_eq {x : IntOp} (h : x.width ∈ scalarWidths) (a b c : Nat → Word) :
    (if c 0 ≠ 0 then copyWords x.width a else copyWords x.width b) = selectOf x a b c := by
  obtain ⟨head, sat, width, sgn, d, fa, fb, fc, imm⟩ := x
  rcases mem_scalarWidths.mp h with rfl | rfl
  · simp only [copyWords_w32, selectOf, ite_not]
    split <;> rfl
  · simp only [copyWords_w64, selectOf, ite_not]
    split <;> rfl

/-- A scale is a shift. -/
theorem mul_one_shiftLeft {n : Nat} (b : BitVec n) (k : Nat) : b * (1#n <<< k) = b <<< k := by
  rw [← BitVec.twoPow_eq, BitVec.mul_twoPow_eq_shiftLeft]

/-! ### Bit fields -/

theorem fieldOf_eq (f : Word) : fieldOf f = (fieldPos f, fieldLen f) := rfl

theorem bitField_eq (sgn : Bool) (a f : Word) : bitField sgn a f = bfxOf sgn a f := by
  have hv : a.toNat / 2 ^ fieldPos f % 2 ^ fieldLen f = (a.extractLsb' (fieldPos f) (fieldLen f)).toNat := by
    rw [BitVec.extractLsb'_toNat, Nat.shiftRight_eq_div_pow]
  simp only [bitField, bfxOf, fieldOf_eq]
  rw [hv]
  generalize a.extractLsb' (fieldPos f) (fieldLen f) = v
  split
  · next h0 =>
    revert v
    rw [h0]
    intro v
    cases sgn <;> simp [BitVec.of_length_zero]
  · next h0 =>
    rw [readInt_toNat (Nat.pos_of_ne_zero h0), valueOf_signed]
    cases sgn with
    | false => rw [if_neg nofun, if_neg nofun, BitVec.ofInt_natCast, BitVec.ofNat_toNat]
    | true => rfl

/-- Bit `i` of a word put together from bits. -/
theorem getLsbD_foldl_bits (p : Nat → Bool) (n i : Nat) (hi : i < 32) :
    ((List.range n).foldl (fun (w : Word) k => if p k then w ||| (1#32 <<< k) else w) 0).getLsbD i =
      (decide (i < n) && p i) := by
  induction n with
  | zero => simp
  | succ n ih =>
    rw [List.range_succ, List.foldl_append, List.foldl_cons, List.foldl_nil]
    have hbit : (1#32 <<< n).getLsbD i = decide (n = i) := by
      rw [← BitVec.twoPow_eq, BitVec.getLsbD_twoPow]
      grind
    split <;> grind

/-- The mask of a field. -/
theorem getLsbD_fieldMask (pos len i : Nat) (hi : i < 32) :
    (BitVec.ofNat 32 ((2 ^ len - 1) * 2 ^ pos)).getLsbD i = decide (pos ≤ i ∧ i < pos + len) := by
  rw [BitVec.getLsbD_ofNat, Nat.testBit_mul_two_pow, Nat.testBit_two_pow_sub_one]
  grind

/-- Bit `k` of `bfi`: of B inside the field, of A outside it. -/
def fieldBit (pos len : Nat) (a b : Word) (k : Nat) : Bool :=
  if pos ≤ k ∧ k < pos + len then b.getLsbD (k - pos) else a.getLsbD k

theorem bfiOf_eq (a b f : Word) : bfiOf a b f = (List.range 32).foldl (fun (w : Word) k =>
    if fieldBit (fieldPos f) (fieldLen f) a b k then w ||| (1#32 <<< k) else w) 0 := rfl

theorem bitInsert_eq (a b f : Word) : bitInsert a b f = bfiOf a b f := by
  apply BitVec.eq_of_getLsbD_eq
  intro i hi
  rw [bfiOf_eq, getLsbD_foldl_bits _ _ _ hi]
  simp only [bitInsert, BitVec.getLsbD_or, BitVec.getLsbD_and, BitVec.getLsbD_not, BitVec.getLsbD_shiftLeft,
    getLsbD_fieldMask _ _ _ hi, fieldBit, hi]
  by_cases hf : fieldPos f ≤ i ∧ i < fieldPos f + fieldLen f
  · simp [hf]
  · simp [hf]

/-! ### The add with carry -/

/-- A, B and the carry in C, with the carry out on top (R121). -/
def carrySum (a b c : Word) : BitVec 33 := a.setWidth 33 + b.setWidth 33 + if c = 0 then 0 else 1

theorem carrySum_toNat (a b c : Word) :
    (carrySum a b c).toNat = a.toNat + b.toNat + if c ≠ 0 then 1 else 0 := by
  have ha := a.isLt
  have hb := b.isLt
  by_cases hc : c = 0
  · rw [carrySum, if_pos hc, if_neg (not_not.mpr hc)]
    simp only [BitVec.toNat_add, BitVec.toNat_setWidth, BitVec.ofNat_eq_ofNat, BitVec.toNat_ofNat]
    omega
  · rw [carrySum, if_neg hc, if_pos hc]
    simp only [BitVec.toNat_add, BitVec.toNat_setWidth, BitVec.ofNat_eq_ofNat, BitVec.toNat_ofNat]
    omega

theorem carrySum_low (a b c : Word) :
    (carrySum a b c).setWidth 32 = BitVec.ofNat 32 (a.toNat + b.toNat + if c ≠ 0 then 1 else 0) := by
  rw [← carrySum_toNat, BitVec.ofNat_toNat]

theorem carrySum_carry (a b c : Word) :
    truth (carrySum a b c).msb = if a.toNat + b.toNat + (if c ≠ 0 then 1 else 0) ≥ 2 ^ 32 then 1 else 0 := by
  rw [BitVec.msb_eq_decide, carrySum_toNat]
  simp [truth]

theorem setLane_lane (t : Team) (i : Nat) : t.setLane i (t.lane i) = t := by
  have h : t.lanes.set i (t.lane i) = t.lanes := by
    by_cases hi : i < t.lanes.length
    · simp [Team.lane, hi]
    · exact List.set_eq_of_length_le (by omega)
  rw [Team.setLane, h]

/-- p7 keeps its value: a write to it changes nothing (R121). -/
theorem applyWrites_p7 (t : Team) (i : Nat) (v : Word) : t.applyWrites [⟨some i, .p 7, v⟩] = t := by
  have hb : t.badRegs.filter (fun k => regKey i (.p 7) != some k) = t.badRegs :=
    List.filter_eq_self.mpr fun _ _ => rfl
  calc t.applyWrites [⟨some i, .p 7, v⟩]
      = { t with badRegs := t.badRegs.filter fun k => regKey i (.p 7) != some k }.regWrite i (.p 7) 0 v := rfl
    _ = t.setLane i (t.lane i) := by rw [hb]; rfl
    _ = t := setLane_lane t i

end Sys2Proof.Claims
end

section
/-! SUPPORT. What the decoder's layouts can give, as far as `lea` and `iadds` need it (R120, R121). -/
namespace Sys2Proof.Claims
open Sys2Proof.Machine

variable {r : Raw} {P : Instr → Prop}

/-- What the operand stage gives: an instruction of its form, whose modifier bits are listed and which meets check 6. -/
theorem Raw.finish_ok {bits : Bool} {mk : Ops → Instr} {i : Instr} (h : r.finish bits mk = .ok i) :
    bits = true ∧ i.operandsOk = true ∧ ∃ o, mk o = i := by
  simp only [Raw.finish] at h
  split at h
  · cases h
  · next hbits =>
    split at h
    · cases h
    · next hops =>
      cases h
      simp only [Bool.not_eq_true', Bool.not_eq_false, Bool.and_eq_true, Bool.or_eq_true, not_or] at hbits hops
      exact ⟨hbits.1.1, hops.2, _, rfl⟩

/-- Modifier bits that no operand makes good fail check 5. -/
theorem Raw.finish_encoding {bits : Bool} {mk : Ops → Instr} (h : ∀ o, (mk o).encodingOk = false) :
    r.finish bits mk = .error .encoding := by simp [Raw.finish, h]

/-- What is decoded, if anything is, satisfies `P`. -/
def Gives (P : Instr → Prop) (d : Except Reject Instr) : Prop := ∀ i, d = .ok i → P i

theorem gives_error (e : Reject) : Gives P (.error e) := fun _ h => by cases h

theorem gives_ok (i : Instr) : Gives P (.ok i) ↔ P i := by simp [Gives]

theorem gives_finish {bits : Bool} {mk : Ops → Instr} (h : ∀ o, P (mk o)) : Gives P (r.finish bits mk) := by
  intro i hi
  obtain ⟨-, -, o, rfl⟩ := Raw.finish_ok hi
  exact h o

theorem gives_orReject {α : Type} {o : Option α} {f : α → Except Reject Instr} :
    Gives P (orReject o f) ↔ ∀ a, o = some a → Gives P (f a) := by
  cases o with
  | none => simp [orReject, gives_error]
  | some a => simp [orReject]

theorem gives_ite {c : Prop} [Decidable c] {d e : Except Reject Instr} :
    Gives P (if c then d else e) ↔ (c → Gives P d) ∧ (¬c → Gives P e) := by
  split <;> simp [*]

/-- Every layout but that of opcode 0x1B gives other instructions than `iadds`. The 28th arm of the opcode
map is its own. -/
theorem decode_ne_iadds (h : r.opc.toNat ≠ 0x1B) (p : BitVec 3) (x : IntOp) : Gives (· ≠ .iadds p x) r.decode := by
  unfold Raw.decode
  split
  case h_28 hopc => exact absurd hopc h
  all_goals
    simp [Raw.asHead, Raw.asHeadMod, Raw.asInt, Raw.asIcmp, Raw.asLea, Raw.asFp, Raw.asFcmp, Raw.asCvt, Raw.asMove,
      Raw.asLpick, Raw.asLsh, Raw.asMatch, Raw.asVote, Raw.asRedux, Raw.asScan, Raw.asPlain, Raw.asPlainMod,
      Raw.asBr, Raw.asBrMod, Raw.asBra, Raw.asYield, Raw.asMem, Raw.memFields, Raw.asAtom, Raw.asCctl, Raw.asScribe,
      Raw.asJoin, Raw.asMma, Raw.asGbar, Raw.asPost, Raw.asRes, Raw.asFence, Raw.asBflush,
      gives_finish, gives_orReject, gives_ite, gives_error, gives_ok]

theorem decode_of_ver {w : Insn} (h : (Raw.ofInsn w).ver.toNat < 2) : decode w = (Raw.ofInsn w).decode :=
  if_neg (Nat.not_le.mpr h)

theorem Raw.decode_iadds (h : r.opc.toNat = 0x1B) : r.decode = r.asIadds := by
  simp only [Raw.decode, h]

theorem Raw.decode_lea (h : r.opc.toNat = 0x17) : r.decode = r.asLea := by
  simp only [Raw.decode, h]

/-- A byte whose upper five bits are zero. -/
theorem byte_eq_append_low {m : BitVec 8} (h : m.extractLsb' 3 5 = 0) : m = 0#5 ++ m.extractLsb' 0 3 := by
  have hm : m.extractLsb' 3 5 ++ m.extractLsb' 0 3 = m := by
    rw [BitVec.extractLsb'_append_extractLsb'_eq_extractLsb' (start₁ := 0) (len₁ := 3) rfl, BitVec.extractLsb'_eq_self]
  exact hm.symm.trans (by rw [h]; rfl)

/-- An s-register destination of `iadds` leaves no carry-out. -/
theorem iadds_sDest {p : BitVec 3} {x : IntOp} (h : (Instr.iadds p x).operandsOk = true) (hs : x.d.kind = .s) :
    p = 7 := by
  have hd : (Instr.iadds p x).sDestOk = true := by
    simp only [Instr.operandsOk, Instr.fields, Bool.and_eq_true] at h
    exact h.2
  simpa [Instr.sDestOk, hs] using hd

/-- MOD2 of a word that holds an `iadds`, and its carry-out beside an s-register. -/
theorem decode_iadds_fields {w : Insn} {p : BitVec 3} {x : IntOp} (h : decode w = .ok (.iadds p x)) :
    (Raw.ofInsn w).mod2 = 0#5 ++ p ∧ (x.d.kind = .s → p = 7) := by
  by_cases hv : 2 ≤ (Raw.ofInsn w).ver.toNat
  · rw [decode, if_pos hv] at h
    cases h
  · rw [decode_of_ver (not_le.mp hv)] at h
    have hopc : (Raw.ofInsn w).opc.toNat = 0x1B := by
      by_contra hne
      exact decode_ne_iadds hne p x _ h rfl
    rw [Raw.decode_iadds hopc] at h
    obtain ⟨hbits, hops, o, ho⟩ := Raw.finish_ok h
    obtain ⟨rfl, -⟩ := Instr.iadds.inj ho
    simp only [Bool.and_eq_true, beq_iff_eq] at hbits
    exact ⟨byte_eq_append_low hbits.2, iadds_sDest hops⟩

/-- A scale of `lea` above 4 fails check 5. -/
theorem decode_lea_scale {w : Insn} (hv : (Raw.ofInsn w).ver.toNat < 2) (ho : (Raw.ofInsn w).opc = 0x17)
    (hs : 4 < ((Raw.ofInsn w).mod.extractLsb' 0 4).toNat) : decode w = .error .encoding := by
  rw [decode_of_ver hv, Raw.decode_lea (by rw [ho]; rfl)]
  refine Raw.finish_encoding fun o => ?_
  have hm : decide (((Raw.ofInsn w).mod.extractLsb' 0 4).toNat ≤ 4) = false := decide_eq_false (not_le.mpr hs)
  rw [Instr.encodingOk, Instr.modsOk, hm, Bool.and_false, Bool.false_and]

end Sys2Proof.Claims
end

section
/-! Compare, select, addresses, bit fields and the add with carry (R117, R119 to R121). -/
namespace Sys2Proof.Claims
open Sys2Proof.Machine

/-! ### The meanings, by name -/

theorem exec_icmp (c : Cond) (x : IntOp) (s : State) : exec (.icmp c x) s = execIcmp c x s := rfl
theorem exec_sel (x : IntOp) (s : State) : exec (.sel x) s = execSel x s := rfl
theorem exec_lea (m : BitVec 4) (x : IntOp) (s : State) : exec (.lea m x) s = execLea m x s := rfl
theorem exec_bfx (x : IntOp) (s : State) : exec (.bfx x) s = execBfx x s := rfl
theorem exec_bfi (x : IntOp) (s : State) : exec (.bfi x) s = execBfi x s := rfl
theorem exec_iadds (p : BitVec 3) (x : IntOp) (s : State) : exec (.iadds p x) s = execIadds p x s := rfl
theorem exec_nop (h : Head) (s : State) : exec (.nop h) s = execNop h s := rfl

/-! ### Their results -/

theorem icmp_result (c : Cond) (x : IntOp) :
    LaneResult (.icmp c x) x.ops (immInt x.width x.sgn x.imm) 4 fun a b _ => ([compareOf c x a b], 0) :=
  laneResult_of_execInt (g := fun a b _ => [compareOf c x a b]) (exec_icmp c x) (fun _ => rfl) fun hw r => by
    obtain ⟨hwidth, -⟩ := intMods_of_wf scalarWidths false .any hw nofun rfl
    simp only [intElems_scalar hwidth, condHolds_eq, ← condOf_elemAt c hwidth]
    rfl

theorem sel_result (x : IntOp) :
    LaneResult (.sel x) x.ops (immInt x.width x.sgn x.imm) 4 fun a b c => (selectOf x a b c, 0) :=
  laneResult_of_execInt (g := selectOf x) (exec_sel x) (fun _ => rfl) fun hw r => by
    obtain ⟨hwidth, -⟩ := intMods_of_wf scalarWidths false .any hw nofun rfl
    exact selectOf_eq hwidth r.a r.b r.c

theorem lea_result (m : BitVec 4) (x : IntOp) :
    LaneResult (.lea m x) x.ops (immInt x.width x.sgn x.imm) 4 fun a b c => (leaOf m x a b c, 0) :=
  laneResult_of_execInt (g := leaOf m x) (exec_lea m x) (fun _ => rfl) fun _ r => by
    simp only [leaOf, mul_one_shiftLeft]
    rfl

theorem iadd64_result (x : IntOp) : LaneResult (.iadd64 x) x.ops (immInt .w64 x.sgn x.imm) 4 fun a b _ =>
    (halves (wide a + grow x.sgn (b 0)), 0) :=
  laneResult_of_exec (f := fun r => (pairWords (pair (r.a 0) (r.a 1) + extend64 x.sgn (r.b 0)), 0))
    (fun _ _ => rfl) fun _ _ => rfl

theorem bfx_result (x : IntOp) : LaneResult (.bfx x) x.ops (immInt .w32 x.sgn x.imm) 4 fun a b _ =>
    ([bfxOf x.sgn (a 0) (b 0)], 0) :=
  laneResult_of_execInt (g := fun a b _ => [bfxOf x.sgn (a 0) (b 0)]) (exec_bfx x)
    (fun hw => width_eq_w32 .any hw nofun rfl) fun _ r => congrArg (fun w => [w]) (bitField_eq x.sgn (r.a 0) (r.b 0))

theorem bfi_result (x : IntOp) : LaneResult (.bfi x) x.ops (immInt .w32 x.sgn x.imm) 4 fun a b c =>
    ([bfiOf (a 0) (b 0) (c 0)], 0) :=
  laneResult_of_execInt (g := fun a b c => [bfiOf (a 0) (b 0) (c 0)]) (exec_bfi x)
    (fun hw => width_eq_w32 .clear hw nofun rfl) fun _ r => congrArg (fun w => [w]) (bitInsert_eq (r.a 0) (r.b 0) (r.c 0))

theorem iadds_result (p : BitVec 3) (x : IntOp) (s : State) (e e' : Ex1) (q : Pops) (s' : State)
    (hw : (Instr.iadds p x).wf = true) (hi : Issues (.iadds p x) s e)
    (hd : Delivers (execSlots x.d e.slots) (.iadds p x) x.ops e s e' q s') :
    let sum (i : Nat) : BitVec 33 :=
      let get (l : List (Nat × Word)) (o : Operand) : Word := readField e'.t l (immInt .w32 x.sgn x.imm) i o 0
      carrySum (get q.a x.a) (get q.b x.b) (get q.c x.c)
    exec (.iadds p x) s = .next (laneNext e' s' ((execSlots x.d e'.slots).flatMap fun i =>
      destWrites x.d i [(sum i).setWidth 32] ++ [⟨some i, .p p, truth (sum i).msb⟩]) 0 4) := by
  rw [exec_iadds, execIadds, width_eq_w32 .clear hw nofun rfl, execLaneWrites_of_delivers hi hd]
  have hfl : (execSlots x.d e'.slots).foldl (fun (g : Flags) _ => g ||| 0) 0 = 0 := by simp
  simp only [carrySum_low, carrySum_carry, sources, IntOp.ops, hfl]
  rfl

theorem nop_next {h : Head} {s : State} {e : Ex1} (hc : s.current h.guard = some e) :
    exec (.nop h) s = .next (s.setTeam (e.advance e.t)) := by
  rw [exec_nop, execNop, hc]

/-- Settles O1: each lane's words are those of R119 to R121, and the decoder keeps the scale and the carry-out in range. -/
theorem compareSelectAddressResults : Obligations.CompareSelectAddressResults :=
  ⟨icmp_result, sel_result, lea_result, iadd64_result, bfx_result, bfi_result, iadds_result, fun _ _ _ => nop_next,
    fun _ => decode_lea_scale, fun _ _ _ => decode_iadds_fields, applyWrites_p7⟩

end Sys2Proof.Claims
end
